-- ==== Sys2Proof/Word.lean ====
section
/-!
DEFINITION. The word types of the DNX-9040 and their plainest arithmetic (00 R6: bit 0 is the least
significant bit; multi-byte fields are little-endian).
-/

namespace Sys2Proof

/-- A byte. -/
abbrev Byte := BitVec 8

/-- A 64-bit register or global address (03 R61, 01 R22). -/
abbrev W64 := BitVec 64

/-- A 32-bit word: an FP32 pattern, a sync counter (12 R281). -/
abbrev W32 := BitVec 32

/-- The bit pattern of one instruction or tile descriptor (03 R62, R66). -/
abbrev W128 := BitVec 128

end Sys2Proof
end

