-- ==== Sys2Proof/Machine/Table.lean ====
section
/-!
DEFINITION. Sparse tables in one canonical form, and the bit-field and byte-order helpers.

A table is a list of (key, value) pairs with strictly rising keys, none of which holds what an unlisted key
reads as. What an unlisted key reads as may depend on the key (a register's reset value). Every memory of the
module is such a table of bytes, every register bank such a table of words; equal contents are equal lists.
-/

namespace Sys2Proof.Machine

/-- A sparse table. -/
abbrev Tbl (α : Type) := List (Nat × α)

/-- The value at key `k`; an unlisted key reads as `d k`. -/
def tblGet {α : Type} (d : Nat → α) : Tbl α → Nat → α
  | [], k => d k
  | (k', v) :: r, k => if k = k' then v else tblGet d r k

/-- The table without the entry of key `k`. -/
def tblDel {α : Type} (t : Tbl α) (k : Nat) : Tbl α := t.filter fun e => e.1 != k

/-- Writes `v` at key `k`, keeping the canonical form: writing what an unlisted key reads as removes the entry. -/
def tblSet {α : Type} [DecidableEq α] (d : Nat → α) : Tbl α → Nat → α → Tbl α
  | [], k, v => if v = d k then [] else [(k, v)]
  | (k', v') :: r, k, v =>
    if k' < k then (k', v') :: tblSet d r k v
    else if v = d k then tblDel ((k', v') :: r) k
    else (k, v) :: tblDel ((k', v') :: r) k

/-- The canonical form: every key above `lo`, keys strictly rising, no entry at its default. -/
def tblWfFrom {α : Type} [DecidableEq α] (d : Nat → α) (lo : Nat) : Tbl α → Bool
  | [] => true
  | (k, v) :: r => decide (lo ≤ k) && decide (v ≠ d k) && tblWfFrom d (k + 1) r

/-- The canonical form of a table. -/
def tblWf {α : Type} [DecidableEq α] (d : Nat → α) (t : Tbl α) : Bool := tblWfFrom d 0 t

/-- Writes every pair of a list, in order. -/
def tblSetMany {α : Type} [DecidableEq α] (d : Nat → α) (t : Tbl α) : List (Nat × α) → Tbl α
  | [] => t
  | (k, v) :: r => tblSetMany d (tblSet d t k v) r

/-- Changes the value at one key by a function. -/
def tblUpd {α : Type} [DecidableEq α] (d : Nat → α) (t : Tbl α) (k : Nat) (f : α → α) : Tbl α :=
  tblSet d t k (f (tblGet d t k))

/-! Bytes -/

/-- What a byte that nothing has written reads as (log 5). -/
def byte0 (_ : Nat) : Byte := 0

/-- One byte of a memory. -/
def rdByte (m : Tbl Byte) (a : Nat) : Byte := tblGet byte0 m a

/-- Writes one byte. -/
def wrByte (m : Tbl Byte) (a : Nat) (v : Byte) : Tbl Byte := tblSet byte0 m a v

/-- `n` bytes from address `a` upwards. -/
def rdBytes (m : Tbl Byte) : Nat → Nat → List Byte
  | _, 0 => []
  | a, n + 1 => rdByte m a :: rdBytes m (a + 1) n

/-- Writes consecutive bytes from address `a`. -/
def wrBytes (m : Tbl Byte) : Nat → List Byte → Tbl Byte
  | _, [] => m
  | a, v :: r => wrBytes (wrByte m a v) (a + 1) r

/-- What a byte of instruction memory that nothing has written reads as: each word has CTR 0x3F and zeros elsewhere, the reset
values of 03 Table 03-5. -/
def imem0 (a : Nat) : Byte := if a % 16 = 9 then 0xC0 else if a % 16 = 10 then 0x0F else 0

/-- One byte of an instruction memory. -/
def rdImemByte (m : Tbl Byte) (a : Nat) : Byte := tblGet imem0 m a

/-- `n` bytes of an instruction memory from address `a` upwards. -/
def rdImem (m : Tbl Byte) : Nat → Nat → List Byte
  | _, 0 => []
  | a, n + 1 => rdImemByte m a :: rdImem m (a + 1) n

/-- Writes consecutive bytes of an instruction memory. -/
def wrImem (m : Tbl Byte) : Nat → List Byte → Tbl Byte
  | _, [] => m
  | a, v :: r => wrImem (tblSet imem0 m a v) (a + 1) r

/-- The little-endian value of a list of bytes (00 R6). -/
def leNat : List Byte → Nat
  | [] => 0
  | b :: r => b.toNat + 256 * leNat r

/-- The `n` little-endian bytes of a value (00 R6). -/
def leBytes : Nat → Nat → List Byte
  | 0, _ => []
  | n + 1, v => BitVec.ofNat 8 v :: leBytes n (v / 256)

/-- `n` zero bytes. -/
def zeroBytes (n : Nat) : List Byte := List.replicate n 0

/-- A little-endian number of `n` bytes in a memory. -/
def rdLe (m : Tbl Byte) (a n : Nat) : Nat := leNat (rdBytes m a n)

/-! Bit fields -/

/-- The field [hi:lo] of a number (00 R6: bit 0 is the least significant). -/
def fldN (v hi lo : Nat) : Nat := (v >>> lo) % 2 ^ (hi + 1 - lo)

/-- The field [hi:lo] of a word. -/
def fld {n : Nat} (w : BitVec n) (hi lo : Nat) : Nat := fldN w.toNat hi lo

/-- Bit `b` of a word. -/
def flag {n : Nat} (w : BitVec n) (b : Nat) : Bool := w.getLsbD b

/-- The word with field [hi:lo] replaced by `v`. -/
def setFld {n : Nat} (w : BitVec n) (hi lo v : Nat) : BitVec n :=
  let len := hi + 1 - lo
  BitVec.ofNat n (w.toNat - (fldN w.toNat hi lo) * 2 ^ lo + (v % 2 ^ len) * 2 ^ lo)

/-- The word with one bit replaced. -/
def setFlag {n : Nat} (w : BitVec n) (b : Nat) (v : Bool) : BitVec n := setFld w b b (if v then 1 else 0)

/-- Two's complement value of the low `n` bits. -/
def sextN (n v : Nat) : Int := if v % 2 ^ n < 2 ^ (n - 1) then (v % 2 ^ n : Nat) else ((v % 2 ^ n : Nat) : Int) - (2 ^ n : Nat)

/-- Ceiling division. -/
def cdiv (a b : Nat) : Nat := (a + b - 1) / b

/-- `a` rounded up to a multiple of `b`. -/
def roundUp (a b : Nat) : Nat := cdiv a b * b

/-- The bits set in a word, in ascending order, among the lowest `n`. -/
def bitsOf (w n : Nat) : List Nat := (List.range n).filter fun i => w.testBit i

/-- Replaces element `i` of a list. -/
def listSet {α : Type} (l : List α) (i : Nat) (v : α) : List α := l.set i v

/-- Adds with saturation at 2^n − 1. -/
def satAdd (n a b : Nat) : Nat := min (2 ^ n - 1) (a + b)

end Sys2Proof.Machine
end

