-- ==== Sys2Proof/Machine/Float.lean ====
section
/-!
DEFINITION. The number formats of Table 04-1, exact values, and the roundings of 04 R101 to R106.

A decoded value is exact: NaN, an infinity, or (−1)^neg × m × 2^e. Every operation is done exactly and rounded
once; the bit pattern of the magnitude m × 2^q of a format with precision p and smallest exponent qmin is
(q − qmin) × 2^(p−1) + m, for normal and subnormal values alike.
-/

namespace Sys2Proof.Machine

/-- An exact value. -/
inductive FVal where
  | nan
  | inf (neg : Bool)
  | fin (neg : Bool) (m : Nat) (e : Int)
  deriving DecidableEq, Repr, Inhabited

/-- An element format (04 Table 04-1). -/
structure FFmt where
  width : Nat     -- bits of the pattern, sign included
  prec : Nat      -- significand bits, the hidden bit included
  qmin : Int      -- exponent of the smallest subnormal
  maxMag : Nat    -- magnitude pattern of the largest finite value
  infMag : Nat    -- magnitude pattern of infinity; 0 where the format has none
  nanMag : Nat    -- magnitude pattern of the canonical NaN (R84); 0 where the format has none
  saturate : Bool -- conversion beyond the range saturates (R101)
  deriving DecidableEq, Repr

def fp32 : FFmt := ⟨32, 24, -149, 0x7F7FFFFF, 0x7F800000, 0x7FC00000, false⟩
def bf16 : FFmt := ⟨16, 8, -133, 0x7F7F, 0x7F80, 0x7FC0, false⟩
def fp16 : FFmt := ⟨16, 11, -24, 0x7BFF, 0x7C00, 0x7E00, false⟩
def e4m3 : FFmt := ⟨8, 4, -9, 0x7E, 0, 0x7F, true⟩
def e5m2 : FFmt := ⟨8, 3, -16, 0x7B, 0x7C, 0x7E, true⟩
def e2m3 : FFmt := ⟨6, 4, -3, 0x1F, 0, 0, true⟩
def e3m2 : FFmt := ⟨6, 3, -4, 0x1F, 0, 0, true⟩
def e2m1 : FFmt := ⟨4, 2, -1, 0x7, 0, 0, true⟩
def fp64 : FFmt := ⟨64, 53, -1074, 0x7FEFFFFFFFFFFFFF, 0x7FF0000000000000, 0x7FF8000000000000, false⟩

/-- The value of a bit pattern (04 R83, R86). -/
def decodeF (f : FFmt) (b : Nat) : FVal :=
  let neg := b.testBit (f.width - 1)
  let mag := b % 2 ^ (f.width - 1)
  if f.infMag ≠ 0 ∧ mag = f.infMag then .inf neg
  else if f.nanMag ≠ 0 ∧ mag > f.maxMag then .nan
  else
    let half := 2 ^ (f.prec - 1)
    let ef := mag / half
    if ef = 0 then .fin neg mag f.qmin else .fin neg (mag % half + half) (f.qmin + (ef : Int) - 1)

/-- The rounding modes: nearest even (R101), towards larger magnitude (`div_ru` of R92 and R193, on positive
values), and stochastic with the 32-bit number of R102. -/
inductive RMode where
  | rne
  | up
  | stoch (r : Nat)
  deriving DecidableEq, Repr

/-- ⌊log₂(n/d)⌋ for positive n and d. -/
def ratLog2 (n d : Nat) : Int :=
  let l : Int := (n.log2 : Int) - (d.log2 : Int)
  let ge : Bool := if 0 ≤ l then decide (d * 2 ^ l.toNat ≤ n) else decide (d ≤ n * 2 ^ (-l).toNat)
  if ge then l else l - 1

/-- The magnitude pattern, unbounded above, of (n/d) × 2^e rounded to precision `p` with smallest exponent `qmin`. -/
def roundMag (p : Nat) (qmin : Int) (mode : RMode) (n d : Nat) (e : Int) : Nat :=
  if n = 0 then 0
  else
    let ex := ratLog2 n d + e
    let q := max (ex - ((p : Int) - 1)) qmin
    let t := e - q
    let num := if 0 ≤ t then n * 2 ^ t.toNat else n
    let den := if 0 ≤ t then d else d * 2 ^ (-t).toNat
    let m := num / den
    let r := num % den
    let m' := match mode with
      | .rne => if 2 * r > den ∨ (2 * r = den ∧ m % 2 = 1) then m + 1 else m
      | .up => if r = 0 then m else m + 1
      | .stoch x => if r ≠ 0 ∧ x < 2 ^ 32 * r / den then m + 1 else m
    (q - qmin).toNat * 2 ^ (p - 1) + m'

/-- A pattern from a sign and a magnitude pattern, with the overflow rule of R101. -/
def packMag (f : FFmt) (neg : Bool) (mag : Nat) : Nat :=
  (if neg then 2 ^ (f.width - 1) else 0)
    + (if mag ≤ f.maxMag then mag else if f.saturate then f.maxMag else f.infMag)

/-- The canonical NaN of a format (R84); a format without NaN never receives one (R92). -/
def nanF (f : FFmt) : Nat := f.nanMag

/-- The pattern of infinity, or the largest finite value where conversion saturates (R101). -/
def infF (f : FFmt) (neg : Bool) : Nat := packMag f neg (f.maxMag + 1)

/-- The rational (−1)^neg × (n/d) × 2^e rounded once. -/
def encodeQ (f : FFmt) (mode : RMode) (neg : Bool) (n d : Nat) (e : Int) : Nat :=
  packMag f neg (roundMag f.prec f.qmin mode n d e)

/-- An exact value rounded once into a format (R101, R102). -/
def encodeF (f : FFmt) (mode : RMode) : FVal → Nat
  | .nan => nanF f
  | .inf neg => infF f neg
  | .fin neg m e => encodeQ f mode neg m 1 e

namespace FV

/-- Negation. -/
def neg : FVal → FVal
  | .nan => .nan
  | .inf s => .inf (!s)
  | .fin s m e => .fin (!s) m e

/-- Magnitude. -/
def abs : FVal → FVal
  | .nan => .nan
  | .inf _ => .inf false
  | .fin _ m e => .fin false m e

/-- True of NaN and the infinities. -/
def nonfinite : FVal → Bool
  | .fin _ _ _ => false
  | _ => true

/-- True of a zero of either sign. -/
def isZero : FVal → Bool
  | .fin _ m _ => m == 0
  | _ => false

/-- The product, exact (R110: infinity times zero is NaN). -/
def mul : FVal → FVal → FVal
  | .nan, _ => .nan
  | _, .nan => .nan
  | .inf s, .inf t => .inf (s != t)
  | .inf s, .fin t m _ => if m = 0 then .nan else .inf (s != t)
  | .fin s m _, .inf t => if m = 0 then .nan else .inf (s != t)
  | .fin s m e, .fin t n f => .fin (s != t) (m * n) (e + f)

/-- The signed integer value at a common exponent. -/
def atExp (s : Bool) (m : Nat) (e g : Int) : Int :=
  let v : Int := (m * 2 ^ (e - g).toNat : Nat)
  if s then -v else v

/-- The sum, exact; an exact zero is −0 only when both terms are −0 (05 R109), as IEEE 754-2019 requires. -/
def add : FVal → FVal → FVal
  | .nan, _ => .nan
  | _, .nan => .nan
  | .inf s, .inf t => if s = t then .inf s else .nan
  | .inf s, .fin _ _ _ => .inf s
  | .fin _ _ _, .inf t => .inf t
  | .fin s m e, .fin t n f =>
    let g := min e f
    let v := atExp s m e g + atExp t n f g
    if v = 0 then .fin (s && t && (m == 0) && (n == 0)) 0 g
    else .fin (decide (v < 0)) v.natAbs g

/-- The difference, exact. -/
def sub (a b : FVal) : FVal := add a (neg b)

/-- The exact sum of a list; the sum of no terms is +0. -/
def sum : List FVal → FVal
  | [] => .fin false 0 0
  | a :: r => r.foldl add a

/-- Strictly less, false when either is NaN. -/
def lt : FVal → FVal → Bool
  | .nan, _ => false
  | _, .nan => false
  | .inf s, .inf t => s && !t
  | .inf s, .fin _ _ _ => s
  | .fin _ _ _, .inf t => !t
  | .fin s m e, .fin t n f =>
    let g := min e f
    decide (atExp s m e g < atExp t n f g)

/-- An integer. -/
def ofNat (n : Nat) : FVal := .fin false n 0

/-- ⌊log₂ |x|⌋ of a non-zero finite value (exp of R91). -/
def expo : FVal → Int
  | .fin _ m e => (m.log2 : Int) + e
  | _ => 0

/-- x scaled by 2^k. -/
def scale (k : Int) : FVal → FVal
  | .fin s m e => .fin s m (e + k)
  | x => x

end FV

/-! FP32 arithmetic on bit patterns -/

/-- The value of an FP32 pattern. -/
def v32 (b : W32) : FVal := decodeF fp32 b.toNat

/-- RNE into FP32 (RNE₃₂). -/
def rne32 (x : FVal) : W32 := BitVec.ofNat 32 (encodeF fp32 .rne x)

/-- Flushes a subnormal FP32 result to zero of its sign (04 Table 04-8 item 2). -/
def flush32 (b : W32) : W32 := if b.toNat % 2 ^ 31 < 0x00800000 then BitVec.ofNat 32 (b.toNat / 2 ^ 31 * 2 ^ 31) else b

/-- `rnd` of 05 R109: RNE into FP32, subnormal results flushed. -/
def rnd (x : FVal) : W32 := flush32 (rne32 x)

def nan32 : W32 := 0x7FC00000
def one32 : W32 := 0x3F800000

def add32 (a b : W32) : W32 := rne32 (FV.add (v32 a) (v32 b))
def sub32 (a b : W32) : W32 := rne32 (FV.sub (v32 a) (v32 b))
def mul32 (a b : W32) : W32 := rne32 (FV.mul (v32 a) (v32 b))
def fma32 (a b c : W32) : W32 := rne32 (FV.add (FV.mul (v32 a) (v32 b)) (v32 c))
def neg32 (a : W32) : W32 := a ^^^ 0x80000000
def abs32 (a : W32) : W32 := a &&& 0x7FFFFFFF

/-- True of an FP32 NaN or infinity. -/
def nf32 (a : W32) : Bool := decide (a.toNat % 2 ^ 31 ≥ 0x7F800000)

/-- True of an FP32 zero of either sign. -/
def zero32 (a : W32) : Bool := decide (a.toNat % 2 ^ 31 = 0)

/-- Strictly less on FP32 patterns, false on NaN. -/
def lt32 (a b : W32) : Bool := FV.lt (v32 a) (v32 b)

/-- The maximum and minimum of IEEE 754-2019 but for zeros: the canonical NaN when either operand is NaN (04 R106). -/
def max32 (a b : W32) : W32 :=
  if v32 a = .nan ∨ v32 b = .nan then nan32 else if lt32 a b then b else a
def min32 (a b : W32) : W32 :=
  if v32 a = .nan ∨ v32 b = .nan then nan32 else if lt32 b a then b else a

/-- Division of values into a format, rounded once. -/
def divF (f : FFmt) (mode : RMode) (a b : FVal) : Nat :=
  match a, b with
  | .nan, _ => nanF f
  | _, .nan => nanF f
  | .inf _, .inf _ => nanF f
  | .inf s, .fin t _ _ => infF f (s != t)
  | .fin s _ _, .inf t => packMag f (s != t) 0
  | .fin s m e, .fin t n g =>
    if n = 0 then (if m = 0 then nanF f else infF f (s != t))
    else encodeQ f mode (s != t) m n (e - g)

def div32 (a b : W32) : W32 := BitVec.ofNat 32 (divF fp32 .rne (v32 a) (v32 b))

/-- div_ru of R92 and R193: the quotient of non-negative values rounded towards +∞. -/
def divRu32 (a b : W32) : W32 := BitVec.ofNat 32 (divF fp32 .up (v32 a) (v32 b))

/-! Square roots and the four fixed functions of 04 R106 -/

/-- Integer square root, one result bit per step. -/
def isqrtAux (n : Nat) : Nat → Nat → Nat
  | 0, acc => acc
  | k + 1, acc => if (acc + 2 ^ k) * (acc + 2 ^ k) ≤ n then isqrtAux n k (acc + 2 ^ k) else isqrtAux n k acc

/-- ⌊√n⌋. -/
def isqrt (n : Nat) : Nat := isqrtAux n (n.log2 / 2 + 1) 0

/-- √x rounded once; −0 gives −0 and a negative value NaN. -/
def sqrtF (f : FFmt) : FVal → Nat
  | .nan => nanF f
  | .inf s => if s then nanF f else infF f false
  | .fin s m e =>
    if m = 0 then packMag f s 0
    else if s then nanF f
    else
      let m' := if e % 2 = 0 then m else 2 * m
      let e' := if e % 2 = 0 then e else e - 1
      let n := m' * 2 ^ 256
      let r := isqrt n
      encodeQ f .rne false (2 * r + (if r * r = n then 0 else 1)) 1 (e' / 2 - 129)

def sqrt32 (a : W32) : W32 := BitVec.ofNat 32 (sqrtF fp32 (v32 a))

/-- 1/√x rounded once (R106: ±∞ at ±0, +0 at +∞, NaN below zero). -/
def rsqrtF (f : FFmt) : FVal → Nat
  | .nan => nanF f
  | .inf s => if s then nanF f else 0
  | .fin s m e =>
    if m = 0 then infF f s
    else if s then nanF f
    else
      let m' := if e % 2 = 0 then m else 2 * m
      let e' := if e % 2 = 0 then e else e - 1
      let k : Nat := 320
      let r := isqrt (2 ^ (2 * k) / m')
      encodeQ f .rne false (2 * r + (if r * r * m' = 2 ^ (2 * k) then 0 else 1)) 1 (-(e' / 2) - (k : Int) - 1)

/-- 1/x rounded once. -/
def rcpF (f : FFmt) (x : FVal) : Nat := divF f .rne (FV.ofNat 1) x

/-- Working precision, in bits, of the series below (log 9). -/
def seriesBits : Nat := 420

/-- Σ x^i/i! in fixed point from term `t` number `i`, `k` terms. -/
def expSeries (x : Nat) : Nat → Nat → Nat → Nat → Nat
  | 0, _, _, acc => acc
  | k + 1, i, t, acc => expSeries x k (i + 1) (t * x / (2 ^ seriesBits * (i + 1))) (acc + t)

/-- e^x rounded once into FP32 (04 R106); beyond ±104 the result overflows or is below half the smallest subnormal. -/
def exp32 (a : W32) : W32 :=
  match v32 a with
  | .nan => nan32
  | .inf s => if s then 0 else 0x7F800000
  | .fin s m e =>
    if m = 0 then one32
    else if FV.lt (.fin false m e) (FV.ofNat 104) then
      let x := m * 2 ^ ((420 : Int) + e).toNat
      let y := expSeries x 640 0 (2 ^ seriesBits) 0
      let z := if s then 2 ^ (2 * seriesBits) / y else y
      BitVec.ofNat 32 (encodeQ fp32 .rne false (2 * z + 1) 1 (-421))
    else if s then 0 else 0x7F800000

/-- Σ z^(2i+1)/(2i+1) in fixed point (the inverse hyperbolic tangent). -/
def atanhSeries (z2 : Nat) : Nat → Nat → Nat → Nat → Nat
  | 0, _, _, acc => acc
  | k + 1, i, t, acc => atanhSeries z2 k (i + 1) (t * z2 / 2 ^ seriesBits) (acc + t / (2 * i + 1))

/-- ln((1+z)/(1−z)) for z in fixed point. -/
def lnFromZ (z : Nat) : Nat := 2 * atanhSeries (z * z / 2 ^ seriesBits) 160 0 z 0

/-- ln x rounded once into FP32 (04 R106). -/
def ln32 (a : W32) : W32 :=
  match v32 a with
  | .nan => nan32
  | .inf s => if s then nan32 else 0x7F800000
  | .fin s m e =>
    if m = 0 then 0xFF800000
    else if s then nan32
    else
      let l := m.log2
      let f := m * 2 ^ seriesBits / 2 ^ l
      let z := (f - 2 ^ seriesBits) * 2 ^ seriesBits / (f + 2 ^ seriesBits)
      let ln2 := lnFromZ (2 ^ seriesBits / 3)
      let v : Int := (lnFromZ z : Int) + ((l : Int) + e) * (ln2 : Int)
      if f = 2 ^ seriesBits ∧ (l : Int) + e = 0 then 0
      else BitVec.ofNat 32 (encodeQ fp32 .rne (decide (v < 0)) (2 * v.natAbs + 1) 1 (-421))

def rsqrt32 (a : W32) : W32 := BitVec.ofNat 32 (rsqrtF fp32 (v32 a))
def rcp32 (a : W32) : W32 := BitVec.ofNat 32 (rcpF fp32 (v32 a))

/-! Sums whose order is open -/

/-- A sum whose order and grouping are open: two values that `pick` names are added, until one is left. -/
def sumAny {α : Type} (add : α → α → α) (pick : List α → Nat) : Nat → List α → Option α
  | 0, l => l.head?
  | n + 1, l =>
    if l.length ≤ 1 then l.head?
    else
      let i := pick l % l.length
      let r := l.eraseIdx i
      let j := pick r % r.length
      match l[i]?, r[j]? with
      | some x, some y => sumAny add pick n (add x y :: r.eraseIdx j)
      | _, _ => none

/-! Doublets (04 R98 to R100, 05 R111) -/

/-- `two_sum` of 05 R111. -/
def twoSum (x y : W32) : W32 × W32 :=
  let s := rnd (FV.add (v32 x) (v32 y))
  if nf32 s then (s, 0)
  else
    let z := rnd (FV.sub (v32 s) (v32 x))
    let e := rnd (FV.add (v32 (rnd (FV.sub (v32 x) (v32 (rnd (FV.sub (v32 s) (v32 z))))))) (v32 (rnd (FV.sub (v32 y) (v32 z)))))
    (s, e)

/-- `dadd` of 05 R111. -/
def dadd (x y : W32 × W32) : W32 × W32 :=
  let se := twoSum x.1 y.1
  let e := rnd (FV.add (v32 se.2) (v32 (rnd (FV.add (v32 x.2) (v32 y.2)))))
  twoSum se.1 e

/-- The exact value of a doublet pair; a pair with a finite hi and a non-finite lo stands for that value (R98). -/
def dblVal (hi lo : W32) : FVal :=
  if nf32 hi then v32 hi else if nf32 lo then v32 lo else FV.add (v32 hi) (v32 lo)

/-- FP64 to doublet (04 Table 04-6). -/
def dblOfVal (x : FVal) : W32 × W32 :=
  let hi := rne32 x
  if nf32 hi then (hi, 0) else (hi, rne32 (FV.sub x (v32 hi)))

/-- Doublet to FP32: hi, or the non-finite value the pair stands for (Table 04-6, R98). -/
def dblTo32 (hi lo : W32) : W32 := if nf32 hi then rne32 (v32 hi) else if nf32 lo then rne32 (v32 lo) else hi

/-! The stochastic source (04 R102) -/

/-- `mix` of 04 R102. -/
def mix64 (z : W64) : W64 :=
  let z := (z ^^^ (z >>> 31)) * 0x9E6C63D0676A9A99#64
  let z := (z ^^^ (z >>> 29)) * 0xD6E8FEB86659FD93#64
  z ^^^ (z >>> 32)

/-- `srand` of 04 R102. -/
def srand (seed : W64) (tensorId : W32) (ctr : W64) : Nat :=
  (mix64 (mix64 (seed ^^^ BitVec.ofNat 64 tensorId.toNat) ^^^ ctr)).toNat / 2 ^ 32

/-- The rounding of one element under a rounding number (R101: nearest even, or stochastic by `srand`). -/
def elemMode (stoch : Bool) (seed : W64) (tid : W32) (ctr : W64) : RMode :=
  if stoch then .stoch (srand seed tid ctr) else .rne

end Sys2Proof.Machine
end

