-- ==== Sys2Proof/Config.lean ====
section
/-!
DEFINITION. The values that the manual leaves open, as constants without a body: no proof can see what they are,
so every claim holds for every choice of them. Each is named in a log entry.
-/

namespace Sys2Proof.Config

/-- Free words drawn with the counter of the state: the cycle within a tick (log 3). -/
opaque freeWord : Nat → BitVec 64

/-- Free words drawn several at a time, by the counter of the state and an index: bytes that come from another module
(log 26), codes that the manual does not state (log 11). -/
opaque freeWord2 : Nat → Nat → BitVec 64

/-- What a dictionary counter reads after it has passed its width, by entry key and old value (log 13). -/
opaque counterOverflow : Nat → Nat → Nat

/-- Which of the FP32 values still to be added is taken next, in a sum whose order the manual leaves open: a VSUM (03 R71), a
witness vector (05 R121), a KRONECKER region of the update sequencer (09 R196); logs 8, 10, 11. -/
opaque sumPick : List (BitVec 32) → Nat

/-- The same in a sum of the solver engine's lanes (08 R177; log 10). -/
opaque solverPick : List Machine.FVal → Nat

/-- x^(1/p) or its reciprocal in the solver engine: the manual does not state how it rounds (log 10). -/
opaque solverRoot : Bool → Nat → Machine.FVal → Machine.FVal

/-- The context seed drawn at creation from the module's random source (04 R103; log 129), by context and draw. -/
opaque contextSeed : Nat → Nat → BitVec 64

/-- Bytes of an attestation message that the manual leaves to SPDM 1.2 and to keys (19 R437; log 15): the message
code and the byte index. -/
opaque spdmByte : Nat → Nat → BitVec 8

/-- The length of such a message. -/
opaque spdmLength : Nat → Nat

/-- A reading of a sensor, a manufacturing constant or a strap that the manual gives no value, by entry key and
draw (log 12). -/
opaque reading : Nat → Nat → BitVec 64

/-- Staging bytes that a blocked solver job leaves in the core stores (08 R171), by draw and address (log 10). -/
opaque staging : Nat → Nat → BitVec 8

/-- The sectors that the fixed code of 10 R241 leaves of a page's 64 KiB and sidecar (log 23). -/
opaque codedSectors : List (BitVec 8) → Nat

/-- The loader's tests of start-up hardware that the manual does not give a value, by stage and unit (log 12). -/
opaque startupValue : Nat → Nat → BitVec 64

/-- The signature of a transcript (19 R437, R438; log 15): true SLH-DSA, false RSASSA-PSS; by byte index. -/
opaque signature : Bool → List (BitVec 8) → Nat → BitVec 8

/-- SHA-384 of measured contents (19 R437; log 15), by byte index. -/
opaque sha384 : List (BitVec 8) → Nat → BitVec 8

/-- The PCI vendor ID of the module's maker (19 R438; log 12). -/
opaque pciVendor : Nat

/-- The text of a string entry that the manual does not give (18 R417; log 12). -/
opaque text : Nat → List (BitVec 8)

/-- Whether a tensor ID names a tensor of one of the contexts with these descriptors (07 R168; log 46). -/
opaque namesTensor : Nat → List (BitVec 512) → Bool

end Sys2Proof.Config
end

