-- ==== Sys2Proof/Syntax.lean ====
section
/-!
DEFINITION. The commands of the DNX-9040: one constructor of `Instr` per row of the table of operations and
events, with the operands that the row's rule names and what the environment decides (a frame, a measured
error, whether a hardware check found a fault).
-/

namespace Sys2Proof

/-- One instruction of a core, the fields of Table 03-5. -/
structure Insn where
  cls : BitVec 4
  op : BitVec 8
  fmt : BitVec 8
  dst : BitVec 6
  src1 : BitVec 6
  src2 : BitVec 6
  src3 : BitVec 6
  ctr : BitVec 6
  last : Bool
  flags : BitVec 13
  imm : BitVec 64
  deriving DecidableEq, Repr

/-- Who issues a control-space access (11 R268, 20 R445): a core of this module, firmware, host software through
the physical function, a virtual function, or another module by a TC3 frame. -/
inductive Origin where
  | core (n : Fin 512)
  | firmware
  | host
  | vf (n : Fin 16)
  | remote (id : BitVec 16)
  deriving DecidableEq, Repr

/-- A fault of the hardware while a command runs (16 Table 16-2); `ok` is fault-free. At an MMA `cubeFault` is a cell that
returns a wrong value for an element of the first slot; in a solver job or a phase 1 `witness` is the event of one of the lent
engines, counted in ascending order. -/
inductive HwEvent where
  | ok
  | cubeFault (element : Fin 256) (value : BitVec 32)
  | witness (engine : Fin 16)
  | residue
  | storeCorrected
  | storeUncorrectable (localAddr : BitVec 32)
  | memCorrected (stack : Fin 16) (channel : Fin 32)
  | memUncorrectable (page : BitVec 28)
  | memRow (stack : Fin 16)
  | memChannel (stack : Fin 16) (channel : Fin 32)
  deriving DecidableEq, Repr

/-- What a command acts on, and the HBM event that its reads meet (10 R216). -/
structure Reading (α : Type) where
  of : α
  hw : HwEvent
  deriving DecidableEq, Repr

/-- A counter, and which of its pending changes reach it in one cycle, by their places among them (12 R283). -/
structure CtrPicks where
  ctr : BitVec 6
  picks : List Nat
  deriving DecidableEq, Repr

/-- How a rung of a recovery ladder ends, and the step number of the replica's owning context, which comes with a page that the
partner sends (10 R243). -/
structure RungEnd where
  success : Bool
  step : BitVec 64
  deriving DecidableEq, Repr

/-- The port that a frame came by, and the free credits of the links (11 R256). -/
structure Arrival where
  port : Fin 48
  credits : List Nat
  deriving DecidableEq, Repr

/-- A fabric frame: the 32-byte header of Table 11-3 and its payload. -/
structure Frame where
  hdr : BitVec 256
  payload : List Byte
  deriving DecidableEq, Repr

/-- One factor block (07 R160, R163): the global address of its buffer, the contributors' count and counter (R160), and for doublet
precision the number of contributor slots. -/
structure FactorMap where
  buffer : Nat
  ctrCore : Fin 512
  ctrNum : BitVec 6
  count : BitVec 32
  contributors : Nat
  deriving DecidableEq, Repr

/-- One parameter shard as the job's mapping places it (09 R191): long-range offsets of its copies, its extents,
the counter of its contributions (06 R143), the global addresses of the structures its rule reads, the factor blocks that its
sequencer sums (07 R159), and whether it is the last shard of the context's phase 1 on this module. -/
structure ShardMap where
  header : Nat
  master0 : Nat
  master1 : Nat
  moment0 : Nat
  moment1 : Nat
  sketch0 : Nat
  sketch1 : Nat
  grad : Nat
  work : Nat
  rows : Nat
  cols : Nat
  fullCols : Nat
  rowOff : Nat
  colOff : Nat
  ctrCore : Fin 512
  ctrNum : BitVec 6
  count : BitVec 32
  amax : Nat          -- store key of the weight's amax slot group (04 R94)
  shardNo : BitVec 32
  blockEdge : Nat
  inFactors : List Nat   -- the input side's factor buffers, in block order
  outFactors : List Nat
  inRoots : List Nat
  outRoots : List Nat
  polar : List (BitVec 1024) -- ORTHO: the POLAR job of each piece (09 R198)
  lend : BitVec 16           -- KRONECKER: the engines that the sequencer borrows (09 R197)
  factors : List FactorMap
  lastShard : Bool
  deriving DecidableEq, Repr

/-- One scaled tensor at a commit (04 R95): its slot group and the delivered STAGED_AMAX maximum. -/
structure AmaxMap where
  slot : Nat
  m : BitVec 32
  deriving DecidableEq, Repr

/-- What the mapping gives an update sequencer for one context's commit (09 Table 09-3); `roots` are the global
addresses of its root buffers, `grads` the offsets and lengths of its shards' gradient sum regions (06 R142). -/
structure CommitMap where
  amaxes : List AmaxMap
  factors : List FactorMap
  roots : List Nat
  grads : List (Nat × Nat)
  deriving DecidableEq, Repr

/-- A dictionary request as it reaches the controller (18 R402, Table 18-4). -/
structure DictReq where
  path : BitVec 2        -- 0 mailbox, 1 CAN A, 2 CAN B, 3 fabric
  src : BitVec 16
  tag : BitVec 32
  op : BitVec 8
  index : BitVec 16
  sub : BitVec 8
  length : BitVec 16
  rsv : BitVec 16
  data : List Byte
  deriving DecidableEq, Repr

/-- The TDISP requests that change a function's TDI state (20 R457). -/
inductive TdispKind where
  | lock
  | start
  | stop
  deriving DecidableEq, Repr

/-- The commands. -/
inductive Instr where
  -- 02 time base
  | sysrefLock (ppm : Int)
  | sysrefLoss
  | sysrefReturn (errCc : Int)
  | tick
  | sweepBoundary
  | sweepEdge (errCc : Int) (sinceNs : Nat)
  | beacon (f : Frame) (cc : Nat)
  | probe (f : Frame) (cc : Nat)
  | epochStart (v : BitVec 8)
  | systemEpoch
  | rephase (v : BitVec 8)
  | sweepRephase (shiftCc : Int)
  | holdoverLimit
  | hbmRefresh (stack : Fin 16)
  -- 03 cores and instructions
  | start (o : Origin) (core : Fin 512) (w : BitVec 64)
  | coreStart (core : Fin 512)
  | add (core : Fin 512) (i : Insn)
  | sub (core : Fin 512) (i : Insn)
  | mul (core : Fin 512) (i : Insn)
  | and_ (core : Fin 512) (i : Insn)
  | or_ (core : Fin 512) (i : Insn)
  | xor_ (core : Fin 512) (i : Insn)
  | shl (core : Fin 512) (i : Insn)
  | shr (core : Fin 512) (i : Insn)
  | sra (core : Fin 512) (i : Insn)
  | cmplt (core : Fin 512) (i : Insn)
  | cmpeq (core : Fin 512) (i : Insn)
  | movi (core : Fin 512) (i : Insn)
  | lds (core : Fin 512) (i : Insn) (hw : HwEvent)
  | sts (core : Fin 512) (i : Insn)
  | srd (core : Fin 512) (i : Insn)
  | tld (core : Fin 512) (i : Insn) (hw : HwEvent)
  | tst (core : Fin 512) (i : Insn)
  | amov (core : Fin 512) (i : Insn)
  | br (core : Fin 512) (i : Insn)
  | brnz (core : Fin 512) (i : Insn)
  | loop (core : Fin 512) (i : Insn)
  | halt (core : Fin 512) (i : Insn)
  -- 05, 06, 07 matrix engines
  | mma (core : Fin 512) (i : Insn) (hw : HwEvent)
  | mmaT (core : Fin 512) (i : Insn) (hw : HwEvent)
  | mmaD (core : Fin 512) (i : Insn) (hw : HwEvent)
  | drain (core : Fin 512) (i : Insn) (hw : HwEvent)
  | tap (core : Fin 512) (i : Insn)
  | tapWrite (core : Fin 512) (engine : Fin 2)
  -- 04 vector engine
  | vadd (core : Fin 512) (i : Insn) (hw : HwEvent)
  | vsub (core : Fin 512) (i : Insn) (hw : HwEvent)
  | vmul (core : Fin 512) (i : Insn) (hw : HwEvent)
  | vfma (core : Fin 512) (i : Insn) (hw : HwEvent)
  | vmax (core : Fin 512) (i : Insn) (hw : HwEvent)
  | vmin (core : Fin 512) (i : Insn) (hw : HwEvent)
  | vabsmax (core : Fin 512) (i : Insn) (hw : HwEvent)
  | vsum (core : Fin 512) (i : Insn) (hw : HwEvent)
  | vcvt (core : Fin 512) (i : Insn) (hw : HwEvent)
  | vexp (core : Fin 512) (i : Insn) (hw : HwEvent)
  | vlog (core : Fin 512) (i : Insn) (hw : HwEvent)
  | vrsqrt (core : Fin 512) (i : Insn) (hw : HwEvent)
  | vrcp (core : Fin 512) (i : Insn) (hw : HwEvent)
  -- 11 transfers, 12 sync, 17 observation
  | xput (core : Fin 512) (i : Insn)
  | xget (core : Fin 512) (i : Insn)
  | xadd (core : Fin 512) (i : Insn)
  | xsig (core : Fin 512) (i : Insn)
  | xfence (core : Fin 512) (i : Insn)
  | syncInc (core : Fin 512) (i : Insn)
  | syncDec (core : Fin 512) (i : Insn)
  | counterApply (core : Fin 512) (ctr : CtrPicks)
  | syncWait (core : Fin 512) (i : Insn)
  | waitMet (core : Fin 512) (waitedCc : Nat)
  | waitTimeout (core : Fin 512)
  | mark (core : Fin 512) (i : Insn)
  | loupe (core : Fin 512) (i : Insn)
  | packageBeat (msg : BitVec 48) (hw : HwEvent)
  -- 08 solver, 09 shard engine and update sequencer
  | solverSubmission (o : Origin) (cluster : Fin 64) (data : List Byte)
  | solverJobStart (cluster : Reading (Fin 64))
  | solverJobEnd (cluster : Fin 64) (hw : HwEvent)
  | solverDeadlineCheck (cluster : Fin 64)
  | shardSubmission (o : Origin) (die : Fin 8) (data : List Byte)
  | shardDescriptorEnd (die : Reading (Fin 8))
  | phase1 (ctx : Fin 16) (m : ShardMap) (hw : HwEvent)
  | digestCompare (ctx : Fin 16)
  -- 10 the long range
  | regionMap (o : Origin) (r : Fin 4096) (w : BitVec 256)
  | regionUnmap (o : Origin) (r : Fin 4096) (w : BitVec 256)
  | regionUnmapComplete (r : Fin 4096)
  | schedCount (o : Origin) (ctx : Fin 16) (v : BitVec 64)
  | fetchHbm (ctx : Fin 16) (entry : Nat)
  | fetchStore (ctx : Fin 16) (entry : Nat)
  | evict (ctx : Fin 16) (entry : Nat)
  | scheduleEntryComplete (ctx : Fin 16) (entry : Reading Nat)
  | scheduleEntryLate (ctx : Fin 16) (entry : Nat)
  | migrationComplete (page : Reading (BitVec 28))
  | heldWriteRelease
  | ladderRungEnd (page : BitVec 28) (rung : RungEnd) (data : List Byte) (shards : List ShardMap)
  | ladderLimit (page : BitVec 28)
  | channelCopyComplete (stack : Fin 16) (channel : Fin 32)
  | channelSwitch (stack : Fin 16) (channel : Fin 32)
  -- 11 ports and frames
  | dataFlit (port : Fin 48) (w : BitVec 2048) (fec : Option Nat)
  | idleFlit (port : Fin 48) (w : BitVec 2048) (fec : Option Nat)
  | nakFlit (port : Fin 48) (w : BitVec 2048) (fec : Option Nat)
  | portRetrainEnd (port : Fin 48) (success : Bool)
  | frameSend (n : Nat) (credits : List Nat)
  | frameForward (f : Frame) (via : Arrival)
  | put (f : Frame) (via : BitVec 16) (hw : HwEvent)
  | getReq (f : Frame) (hw : HwEvent)
  | getData (f : Frame)
  | signal (f : Frame) (via : BitVec 16)
  | ack (f : Frame)
  | nack (f : Frame)
  | barrierArrive (f : Frame)
  | barrierComplete (f : Frame)
  | mgmt (f : Frame)
  | reservedKindDiscard (f : Frame)
  | queueBinding (o : Origin) (q : BitVec 16) (w : BitVec 128)
  | groupEntry (o : Origin) (g : Fin 16384) (w : BitVec 256)
  -- 12 barriers and dumps
  | barrierConfigure (o : Origin) (b : Fin 256) (w : BitVec 512)
  | barrierArm (o : Origin) (b : Fin 256) (w : BitVec 512)
  | voteRegister (o : Origin) (b : Fin 256) (w : BitVec 64)
  | barrierLocalArrival (b : Fin 256)
  | barrierRelease (b : Fin 256) (commit : Option CommitMap)
  | dumpRequest (o : Origin) (ctx : Fin 16) (w : BitVec 64)
  | dumpLatch (ctx : Fin 16)
  | dumpReadyClear (o : Origin) (ctx : Fin 16) (w : BitVec 64)
  -- 13, 14, 15 stages, contexts, turns, stop
  | stageDescriptor (o : Origin) (ctx : Fin 16) (w : BitVec 1024)
  | stageArm (o : Origin) (ctx : Fin 16) (w : BitVec 1024)
  | stepStart (ctx : Fin 16)
  | create (o : Origin) (ctx : Fin 16) (w : BitVec 512)
  | destroy (o : Origin) (ctx : Fin 16) (w : BitVec 512)
  | acquire (o : Origin) (ctx : Fin 16)
  | release (o : Origin) (ctx : Fin 16) (w : BitVec 64)
  | switchArm (o : Origin) (ctx : Fin 16) (w : BitVec 128)
  | switchCancel (o : Origin) (ctx : Fin 16) (w : BitVec 128)
  | switchEffect (ctx : Fin 16)
  | switchMissed (ctx : Fin 16)
  | ringClaim (o : Origin) (ctx : Fin 16)
  | prismSubmission (o : Origin) (die : Fin 8) (data : List Byte)
  | prismJobStart (die : Reading (Fin 8))
  | prismPlacement (die : Reading (Fin 8))
  | prismJobEnd (die : Fin 8)
  | prismDeadlineCheck (die : Fin 8)
  | collimate (v : BitVec 8)
  | saveRequest (v : BitVec 64)
  | fullSaveComplete (ctx : Fin 16) (manifest : Nat) (rows : List (BitVec 128))
  | resume (v : BitVec 8) (shards : List ShardMap) (map : CommitMap)
  | shutterArm (o : Origin) (w : BitVec 128)
  | shutterCancel (o : Origin) (w : BitVec 128)
  | shutterInSample (asserted : Bool)
  | shutterCut
  | shutterDrainEnd (cc : BitVec 32)
  | outClear (v : BitVec 8)
  -- 16 repair
  | reserveRemap
  | remapHoldEnd
  | recoveryReplay (permanent : Bool)
  | flashStackFailure (stack : Fin 4)
  -- 17 observability
  | counterSnapshot
  | traceStart (o : Origin) (cluster : Fin 64) (w : BitVec 512)
  | traceTrigger (o : Origin) (cluster : Fin 64) (w : BitVec 512)
  | traceHalt (o : Origin) (cluster : Fin 64) (w : BitVec 512)
  | traceLossRecord (cluster : Fin 64)
  | watchArm (o : Origin) (watch : Fin 64) (w : BitVec 512)
  | watchCancel (o : Origin) (watch : Fin 64) (w : BitVec 512)
  | recorderWindow (o : Origin) (window : Fin 256) (w : BitVec 128)
  | windowClose (window : Fin 256)
  | spectrumClear (v : BitVec 8)
  -- 18 dictionary and management port
  | mailboxGo (o : Origin) (w : BitVec 64)
  | mailboxDoneClear (o : Origin) (w : BitVec 64)
  | usdoRequest (bus : Fin 2) (r : DictReq)
  | usdoTimeout (bus : Fin 2)
  | dictionaryRead
  | dictionaryWrite
  | storeParameters (v : BitVec 32)
  | restoreDefaultParameters (v : BitVec 32)
  | nmtStart (bus : Fin 2)
  | nmtStop (bus : Fin 2)
  | nmtEnterPreOperational (bus : Fin 2)
  | nmtResetCommunication (bus : Fin 2)
  | nmtResetNode (bus : Fin 2)
  | classicalCanFrame (bus : Fin 2)
  | heartbeat
  | tpdo (n : Fin 4)
  | canTransmit (bus : Fin 2)
  | busOff (bus : Fin 2)
  | busOffRecovery (bus : Fin 2)
  | thermalWarning (temp : BitVec 16) (die : BitVec 8)
  | takeover
  -- 19 start-up, update, security
  | startupStage (stage : Nat) (unit : Nat) (pass : Bool) (detail beginMs endMs : BitVec 32)
  | stageTimeLimit (timeMs : BitVec 32)
  | update (v : BitVec 8) (version : BitVec 32) (verified moving charged : Bool) (mv : Nat)
  | updateComplete (verified : Bool)
  | activateSlot (v : BitVec 8)
  | handover
  | handoverEnd (digestMatches : Bool)
  | handoverAbandon
  | ownerLock (v : BitVec 8)
  | ownerTransfer (v : BitVec 32)
  | debugUnlock (v : BitVec 8)
  | tamperClear (v : BitVec 8)
  | keysRevoked (v : BitVec 8)
  | journalReset (v : BitVec 8)
  | presence (heldMs : Nat) (jumper : Bool)
  | tamper (openMs : Nat) (closed : Bool)
  | currentTrip (milliamp : Nat) (us : Nat)
  | thermalTrip (die : Fin 10) (temp : Int)
  | laserInterlock (port : Fin 48) (mateOpen : Bool) (lossUs : Nat)
  | laserProbePulse (port : Fin 48) (signalBack : Bool)
  | getVersion
  | getCapabilities
  | negotiateAlgorithms (offered : List Nat)
  | getDigests
  | getCertificate (slot offset length : Nat)
  | challenge (slot : Nat) (nonce : List Byte)
  | getMeasurements (signed : Bool) (block : Nat) (nonce : List Byte)
  | keyExchange (exchange : List Byte)
  | finish (verifies : Bool)
  | endSession
  | chunkSend (seq : Nat) (last : Bool) (data : List Byte)
  | chunkGet (seq : Nat) (size : Nat)
  | vendorDefinedRequest (standard vendor : Nat) (code : BitVec 8)
  | ideKm (stream : Nat) (fn : Fin 17)
  | tdispRequest (fn : Fin 16) (k : TdispKind)
  -- 20 host interface
  | perstN
  | flr (fn : Fin 16)
  | flrPhysicalFunction
  | bar2Read (fn : Fin 17) (offset : Nat) (length : Reading Nat) (ide : Bool)
  | bar2Write (fn : Fin 17) (offset : Nat) (data : List Byte) (ide : Bool)
  | dmaWindow (fn : Fin 17) (i : Fin 64) (w : BitVec 128) (ide : Bool)
  | queueEnable (fn : Fin 17) (q : Fin 256) (w : BitVec 256) (ide : Bool)
  | sqTailDoorbell (fn : Fin 17) (q : Fin 256) (v : BitVec 64) (entries : List (BitVec 512)) (ide : Bool)
  | cqHeadDoorbell (fn : Fin 17) (q : Fin 256) (v : BitVec 64) (ide : Bool)
  | toModule (q : Fin 256) (data : List Byte) (poisoned : Bool)
  | toHost (q : Reading (Fin 256))
  | fence (q : Fin 256)
  | hostCommandComplete (q : Fin 256)
  | msixMessage (vector : Fin 2048)
  | atsInvalidation (addr : BitVec 64)
  -- 21 power and pins
  | enShortMate
  | voltageExcursion (mv : BitVec 16)
  | pwrGoodAssert (nodeId : BitVec 7) (ilim : BitVec 2) (absentMs : Nat)
  | inputLoss
  | holdupEnd
  -- generic register writes, and the rows the table adds at its end
  | registerWrite (o : Origin) (bar0 : Bool) (offset : Nat) (data : List Byte) (ide : Bool)
  | addFrame (f : Frame) (hw : HwEvent)
  | inputRangeReturn (mv : BitVec 16)
  | phase2Complete (ctx : Fin 16)
  deriving DecidableEq, Repr

end Sys2Proof
end

