-- ==== Sys2Proof/Decode.lean ====
section
/-!
DEFINITION. The 128-bit instruction word of a core (03 Table 03-5) and its fields, and the table words of the
commands: no row of the table gives bits, so no word spells a command.
-/

namespace Sys2Proof

open Machine

/-- The command that a table word spells: the table gives no row any bits. -/
def decodeTableWord (_nbits _w : Nat) : Option Instr := none

/-- The fields of an instruction word. -/
def decodeInsn (w : W128) : Insn :=
  { cls := w.extractLsb' 124 4, op := w.extractLsb' 116 8, fmt := w.extractLsb' 108 8, dst := w.extractLsb' 102 6,
    src1 := w.extractLsb' 96 6, src2 := w.extractLsb' 90 6, src3 := w.extractLsb' 84 6, ctr := w.extractLsb' 78 6,
    last := w.getLsbD 77, flags := w.extractLsb' 64 13, imm := w.extractLsb' 0 64 }

/-- The word of an instruction. -/
def encodeInsn (i : Insn) : W128 :=
  i.cls ++ i.op ++ i.fmt ++ i.dst ++ i.src1 ++ i.src2 ++ i.src3 ++ i.ctr ++ BitVec.ofBool i.last ++ i.flags ++ i.imm

end Sys2Proof
end

