-- ==== Sys2Proof/Machine/State.lean ====
section
/-!
DEFINITION. The state of the module as plain data: every register, table, queue, buffer, mode and pin that the
spec names, the queue of waiting commands, and the state right after reset.

Registers and structures that the manual lays out as words are held as words; their fields are read with `fld`.
Tables are sparse (Table.lean): an unlisted entry holds its reset value.
-/

namespace Sys2Proof.Machine

/-- Why a command has no next state. Every rule of the spec that ends an operation does so with an effect on the
state (a status, a recorded fault, a cut), so no meaning answers one; the single name is kept for a reader who
extends the model. Safe: it would only stop a run. -/
inductive Fault where
  /-- Raised by no meaning: the spec leaves no command of the table without an effect. -/
  | withoutEffect
  deriving DecidableEq, Repr

/-- Why a command is refused. -/
inductive Refusal where
  /-- An arm of `exec` that has no meaning yet; no arm answers it now. Safe: it only stops a run. -/
  | notModelled (mnemonic : String)
  deriving DecidableEq, Repr

/-- Time-source states (02 Table 02-1). -/
inductive TimeSource where
  | wired | beacon | holdover | unlocked
  deriving DecidableEq, Repr

/-- CORE_STATUS.STATE (03 Table 03-13). -/
inductive CoreRun where
  | idle | armed | running | halted | stopped
  deriving DecidableEq, Repr

/-- The time base (02). -/
structure TimeBase where
  held : Bool                        -- a sweep count is held (R40)
  sweep : Nat                        -- 64 bits (R35)
  tick : Nat                         -- 0 to 1,249
  shownCc : Nat                      -- last cycle of the running tick that anything has shown (log 3)
  syncDue : Bool                     -- the SYNC records of this boundary are still to be written (R50)
  source : TimeSource
  prevSource : TimeSource            -- state before HOLDOVER (R44)
  locked : Bool                      -- SYSREF locked (R34)
  everLocked : Bool                  -- locked once since start-up (R40)
  sweepWired : Bool                  -- a SWEEP pulse is wired (R40)
  phased : Bool                      -- the boundaries have been set to a SWEEP edge (R36)
  errRun : Nat                       -- running phase errors (R42)
  phaseAlarm : Bool                  -- ALERT_N held by the third error (R42)
  rephaseReq : Bool                  -- REPHASE written (R43)
  drifted : Bool                     -- HOLDOVER until a re-phase (R44)
  epochAt : Option Nat               -- boundary number of the epoch that an accepted EPOCH_START asks for (R37)
  epochUsed : Bool                   -- EPOCH_START accepted in this start-up (R41)
  beaconNext : Nat                   -- BEACON_PERIOD from the next boundary (R37)
  beaconPeriod : Nat                 -- BEACON_PERIOD in force
  beaconFrom : Option Nat            -- module whose beacon gave the count (R41)
  holdFrom : Option Nat              -- boundary number at which SYSREF was lost (R44)
  boundaries : Nat                   -- sweep boundaries passed since start-up (12 R287)
  probes : List (Nat × Nat)          -- probe arrivals: sender, cycle in the sweep (R46)
  deriving DecidableEq, Repr

/-- A loop in execution (03 R69): first index of the body, body-end index, passes left. -/
structure LoopFrame where
  first : Nat
  last : Nat
  left : Nat
  deriving DecidableEq, Repr

/-- A counter change issued and not yet applied (12 R283): the group that issued it, the counter, the amount, and
the instruction index of a SYNC.DEC. -/
structure CtrChange where
  group : Nat
  ctr : Nat
  dec : Bool
  amount : Nat
  pc : Nat
  latency : Nat                      -- cycles from issue until it reaches the counter (03 Table 03-6)
  deriving DecidableEq, Repr

/-- Bytes that an instruction of the issuing group has written to the on-die stores (03 R60): its place in the order of writers, the
bytes that stood there before the group, and what it writes; `add` for a DRAIN with ACCUM, whose data are the addends. -/
structure GroupWrite where
  rank : Nat
  key : Nat
  old : List Byte
  data : List Byte
  add : Bool
  deriving DecidableEq, Repr

/-- A pending SYNC.WAIT (12 R286, R287). -/
structure Wait where
  ctr : Nat
  threshold : Nat
  timeout : Nat
  sweep : Nat
  boundary : Nat
  met : Bool
  timedOut : Bool
  ticks : Nat                        -- tick boundaries passed since it issued (13 R304)
  deriving DecidableEq, Repr

/-- The pending half of an engine's tap path (07 R155): 16 tokens of 32 values. -/
structure TapHalf where
  mb : Nat
  jIdx : Nat
  row : Nat
  vals : List (List W32)
  deriving DecidableEq, Repr

/-- A tap tile write waiting for a free port cycle (07 R156). -/
structure TapPending where
  addr : Nat
  bytes : List Byte
  ctr : Nat
  last : Bool
  deriving DecidableEq, Repr

/-- One core (03). -/
structure Core where
  sreg : Tbl W64
  areg : Tbl W64
  treg : Tbl W128
  acc : Tbl W32                      -- (engine × 8 + slot) × 256 + 16 i + j
  accScaled : Tbl Bool               -- a SCALED operand since INIT (04 R89), per engine × 8 + slot
  witness : Tbl W32                  -- ce, re, cm, rm: ((engine × 8 + slot) × 4 + vector) × 16 + element (05 R121)
  witnessN : Tbl Nat                 -- updates since INIT
  run : CoreRun
  entry : Nat
  pc : Nat                           -- index of the next group to issue
  pos : Nat                          -- instructions of the issuing group already issued
  snapS : Tbl W64                    -- registers as they stood before the group (R64)
  snapA : Tbl W64
  snapT : Tbl W128
  groupLog : List GroupWrite         -- writes of the issuing group so far (R60)
  taken : Option Nat                 -- branch taken in the issuing group (R69)
  loopNew : Option LoopFrame         -- LOOP in the issuing group
  loops : List LoopFrame
  faultInfo : W64
  faulted : Bool                     -- a fault was taken since START (R79)
  startSweep : W64
  startTick : BitVec 11
  armedAt : Option (Nat × Nat)
  issued : Nat                       -- groups issued, names a group in `ctrPend`
  msgCount : Nat                     -- transfer instructions issued (11 R259)
  stepNf : W64                       -- 06 Table 06-4
  half0 : Option TapHalf
  half1 : Option TapHalf
  tapQ0 : List TapPending
  tapQ1 : List TapPending
  lent : BitVec 2                    -- engines lent to the solver engine (08 R171)
  ctr : Tbl W32                      -- sync counters (12 R281)
  sat : BitVec 48                    -- saturation bits (12 R284)
  ctrPend : List CtrChange
  wait : Option Wait
  counts : Tbl (BitVec 48)           -- Table 17-1, by offset in the bank
  shadow : Tbl (BitVec 48)           -- 17 R378
  shadowSweep : W64
  hold : Bool                        -- held by a remap (16 R366)
  deriving DecidableEq, Repr

/-- The core as it stands before anything has been written to it (log 4). -/
def Core.init : Core :=
  { sreg := [], areg := [], treg := [], acc := [], accScaled := [], witness := [], witnessN := [], run := .idle,
    entry := 0, pc := 0, pos := 0, snapS := [], snapA := [], snapT := [], groupLog := [], taken := none, loopNew := none,
    loops := [], faultInfo := 0, faulted := false, startSweep := 0, startTick := 0, armedAt := none, issued := 0,
    msgCount := 0, stepNf := 0, half0 := none, half1 := none, tapQ0 := [], tapQ1 := [], lent := 0, ctr := [],
    sat := 0, ctrPend := [], wait := none, counts := [], shadow := [], shadowSweep := 0, hold := false }

/-- A running solver job (08). -/
structure SolverRun where
  desc : BitVec 1024
  startCc : Nat                      -- cycle of its start, from cycle 0 of sweep 0 (R173)
  warm : Bool                        -- started on the warm path (R184)
  coldAsked : Bool                   -- cold after a warm request
  fallback : Bool                    -- the warm path falls back (R185)
  duration : Nat                     -- R189
  refs : Option Nat                  -- factor copy whose REFS it holds
  input : List Byte                  -- input latched at the start
  aux : List Byte
  root : List Byte                   -- installed root copy read at the start
  writeAt : Nat                      -- cycles from the start until it begins to write a root (R186; log 10)
  writes : Bool                      -- it has a root buffer to write
  began : Bool                       -- it has begun to write it
  deriving DecidableEq, Repr

/-- One cluster's solver engine, and its trace buffer (08 R172, 17 R384). -/
structure Cluster where
  solverQ : List (BitVec 1024)
  solverRun : Option SolverRun
  solverEnd : Nat                    -- cycle at which the last job ended (R173)
  traceBank : BitVec 512
  traceBuf : List W128
  traceBufLost : Nat                 -- records dropped since the last LOSS
  lossTime : W32                     -- TIME of the first of them
  coreMap : Tbl Nat                  -- logical to physical core 0 to 8 (01 R14); identity where unlisted
  reserveUsed : Bool                 -- the cluster's reserve core is in service
  deriving DecidableEq, Repr

def Cluster.init : Cluster :=
  { solverQ := [], solverRun := none, solverEnd := 0, traceBank := 0, traceBuf := [], traceBufLost := 0, lossTime := 0,
    coreMap := [], reserveUsed := false }

/-- A pending-signal entry (11 R274). -/
structure PendSig where
  src : Nat
  msg : Nat
  total : Nat
  written : Nat
  refused : Nat
  sigCore : Nat
  sigCtr : Nat
  firstSweep : Nat
  deriving DecidableEq, Repr

/-- A running Prism job (14 R323 to R326). -/
structure PrismRun where
  desc : BitVec 512
  heads : List (Nat × BitVec 1024)   -- offsets and headers of the source records
  next : Nat                         -- next placement
  bytes : Nat
  fail : Option Nat                  -- first failing placement
  status : Nat
  recovered : Bool
  stopped : Bool                     -- sends no further placement
  deriving DecidableEq, Repr

/-- One compute die's shard engine and pending-signal table (09 R210, 11 R275). -/
structure Die where
  shardQ : List (BitVec 512 × Nat × Bool) -- descriptor, submitting context (16: none), submitted while its source commits (09 R211)
  prismQ : List (BitVec 512)
  prismRun : Option PrismRun
  pendSig : List PendSig
  pendLost : List (Nat × Nat × Nat)  -- operations that met a full table: source, message, bytes still to come (R275)
  clusterMap : Tbl Nat               -- logical to physical cluster 0 to 8 (01 R14); identity where unlisted
  deriving DecidableEq, Repr

def Die.init : Die := { shardQ := [], prismQ := [], prismRun := none, pendSig := [], pendLost := [], clusterMap := [] }

/-- The kinds of transfer operation (11 Table 11-9). -/
inductive XKind where
  | put | get | add | sig | fence
  deriving DecidableEq, Repr

/-- A transfer operation in flight (11 R267, 12 R471). -/
structure Xfer where
  msg : Nat
  core : Nat                         -- issuing core; 512 for a host queue, 513 + die for an engine of a die
  queue : Nat
  kind : XKind
  ctr : Nat
  gaddr : W64
  laddr : Nat
  len : Nat
  fmt : Nat
  sig : Bool
  sigCore : Nat
  sigCtr : Nat
  moved : Nat                        -- bytes written at the target, or returned
  awaited : Nat                      -- frames not yet acknowledged
  own : Bool                         -- a part inside the package is still to be moved (01 R24)
  ownAddr : Nat                      -- space and offset of that part
  ownPos : Nat                       -- bytes of it that have moved
  data : List Byte                   -- its bytes as they are written, read from the source at issue (log 22)
  pack : Nat                         -- PACK of the binding at issue
  side : Bool                        -- SIDECAR of the binding
  status : Nat                       -- first error status to reach the source
  recovered : Bool
  served : Nat                       -- BYTES counter of Table 17-1
  deriving DecidableEq, Repr

/-- An XADD staged under COLLIMATE (15 R340). -/
structure StagedAdd where
  src : Nat
  msg : Nat
  sigCore : Nat
  sigCtr : Nat
  total : Nat
  parts : List (Nat × Nat × Nat × List Byte)   -- space and offset, format, bytes before it in the operation, payload
  frames : List (Frame × Nat)                  -- acknowledged when the set is applied, with the status they carry
  own : Bool                                   -- an operation of this module
  recovered : Bool                             -- held by a recovery ladder before it was staged (10 R244)
  deriving DecidableEq, Repr

/-- A frame waiting to leave, with the queue whose credit it needs (65,536: none), the module whose route it takes, and
the die on which it was formed (01 R470; none: a frame that passes through). -/
structure TxEntry where
  frame : Frame
  queue : Nat
  hop : Nat
  die : Option Nat
  deriving DecidableEq, Repr

/-- A multicast frame passed on to tree neighbours (11 R273): its acknowledgement waits for theirs. -/
structure Relay where
  frame : Frame
  via : Nat                          -- the neighbour it came from
  awaited : Nat
  status : Nat
  deriving DecidableEq, Repr

/-- One port (11 R249, R250). -/
structure Port where
  state : Nat                        -- 0 down, 1 training, 2 up, 3 dark (Table 11-13)
  laserOff : Bool                    -- held off by its interlock (19 R441)
  expect : Nat                       -- SEQ expected next
  nakWait : Bool                     -- flits are discarded until the replayed one arrives
  txSeq : Nat                        -- SEQ of the next flit sent
  replay : List (BitVec 2048)        -- flits sent and not acknowledged, oldest first
  nakOut : Option Nat                -- NAK to send, with the SEQ it names
  replaysSweep : Nat                 -- replays in this sweep
  rxStream : List Byte               -- frame stream received in order, from the first frame not yet whole
  txStream : List Byte               -- frame stream not yet sent in a flit (R251)
  rxAck : Option Nat                 -- highest SEQ received in order
  resend : List (BitVec 2048)        -- flits to resend
  tok0 : Nat                         -- bytes in the TC0 bucket (11 R264)
  tok3 : Nat                         -- bytes in the TC3 bucket
  wrr1 : Nat                         -- frames of TC1 left in the round of the weighted round robin
  wrr2 : Nat                         -- frames of TC2 left in it
  lastFrame : Option Frame           -- last frame that left through the port (output)
  deriving DecidableEq, Repr

def Port.init : Port :=
  { state := 0, laserOff := false, expect := 0, nakWait := false, txSeq := 0, replay := [], nakOut := none,
    replaysSweep := 0, rxStream := [], txStream := [], rxAck := none, resend := [], tok0 := 16384, tok3 := 8192,
    wrr1 := 0, wrr2 := 0, lastFrame := none }

/-- A tick's worth of the shaped classes' rates: 4 GB/s and 2 GB/s over 8 ns (11 Table 11-7). -/
def Port.refill (p : Port) : Port := { p with tok0 := min 16384 (p.tok0 + 32), tok3 := min 8192 (p.tok3 + 16) }

/-- A request held by a recovery ladder (10 R243). -/
structure HeldReq where
  frame : Option Frame               -- a request that arrived as a frame
  via : Nat                          -- the module it came from
  msg : Option Nat                   -- an operation of this module
  ctx : Nat                          -- the context that asks; 16: another module or the host
  write : Option (Nat × List Byte)   -- an engine's write of the long range: offset and bytes
  deriving DecidableEq, Repr

/-- A recovery ladder (10 R243, R244). -/
structure Ladder where
  page : Nat
  rung : Nat
  began : Nat
  held : List HeldReq
  deriving DecidableEq, Repr

/-- What a tier manager knows of one page (10 R232 to R236, R245). -/
structure PageInfo where
  inHbm : Bool                       -- sits in an HBM frame; a pinned page always does
  die : Nat                          -- die whose stacks hold it; 8: the home die
  age : Nat                          -- access number of the last access
  prot : Bool                        -- protected until an EVICT names it (R233)
  poison : Bool                      -- reads complete with POISON (R245)
  dirty : Bool                       -- written in HBM since its sectors were current (R234)
  moving : Option Bool               -- a migration runs: some true towards HBM
  cover : List ((Nat × Nat) × List (Nat × Nat)) -- bytes that a write in several frames has covered since the page was poisoned: by
                                     -- source and message, as intervals
  deriving DecidableEq, Repr

def PageInfo.init : PageInfo :=
  { inHbm := false, die := 8, age := 0, prot := false, poison := false, dirty := false, moving := none, cover := [] }

/-- The state of one prefetch-schedule entry in the running step (10 R239). -/
inductive EntryState where
  | waiting | begun | done | late
  deriving DecidableEq, Repr

/-- One context (12 to 15). -/
structure Ctx where
  desc : BitVec 512                  -- CTX_DESC, Table 14-2
  slot : Tbl W128                    -- SLOT 0 to 3, Table 14-3
  switch : W128                      -- Table 14-4
  ringBase : W64
  stage : BitVec 1024                -- Table 13-1
  startAt : Option (Nat × Nat)       -- step start scheduled (13 R301)
  stepNo : W64                       -- step number
  lastCommit : W64                   -- step number of the last commit (09 Table 09-5)
  stepRun : Bool                     -- a step is running
  stepStartSweep : Nat
  phase2 : Option Nat                -- phase 2 runs for outcome 1 COMMIT, 2 DISCARD, 3 REPLAY (09 R201)
  phase2Map : Option CommitMap
  shards : List ShardMap             -- shards with STAGED set by this step's phase 1
  replayMark : Bool                  -- the step is marked for replay (05 R124)
  driftMark : Bool                   -- a drift mismatch in this step (09 R206)
  poison7 : Bool                     -- source 0x7 recorded (09 R200)
  discards : Nat                     -- consecutive DISCARD outcomes (09 R205)
  nfSources : BitVec 8               -- sources seen in the step
  voted : Bool                       -- the digest comparison of the step has ended (15 R348)
  rederived : Bool                   -- working copies re-derived, to be compared again (15 Table 15-7)
  settings : Tbl W64                 -- tensor settings in force since the job was mapped (07 R168, 09 R212; log 35)
  wAmax : Tbl W32                    -- STAGED_AMAX of each weight, by its slot group (09 R199)
  lrMult : Option W32                -- LR_MULT as the running step's phase 1 found it at its start (09 R212)
  headers : List (Nat × W64 × Nat)   -- structures in use: 0 shard header, 1 factor buffer, 2 root buffer; owning cluster (01 R30)
  summed : List Nat                  -- factor buffers whose contributor slots are added into S (07 R159)
  ortho : List (Nat × List Bool)     -- shards whose POLAR jobs are submitted, by header; which jobs were accepted (09 R198)
  dumpAddr : W64                     -- 12 Table 12-2
  dumpReady : Bool
  syncCounts : Tbl W32               -- UNDERFLOWS 0, TIMEOUTS 1, LEFTOVERS 2, SATURATIONS 3, LATE_NOTICES 4, BAD_FRAMES 5, DUMPS_LOST 6
  dumpReq : Option Nat               -- REQUEST written: boundary number at which the state is latched
  dumpDue : Option (Nat × Nat × Nat) -- dump after the drain: reason, core, counter
  schedBase : W64                    -- 10 R237
  schedCount : W64
  sched : List W128                  -- the entries in force
  schedState : Tbl EntryState
  digest : BitVec 512                -- 15 Table 15-5
  remapHold : Option (Nat × Nat)     -- held by a remap until this boundary number and tick (16 R366)
  saveReq : Option Nat               -- full save requested at this offset (15 R350)
  draining : Bool                    -- a cut's drain is running (15 R356)
  destroyDue : Bool                  -- DESTROY written during the drain: the teardown follows it (12 R297)
  deriving DecidableEq, Repr

/-- Reset words of a context's structures: SLOT_CTR, CREDIT_CTR and CMP_CTR are 0x3F (Tables 13-1, 15-5). -/
def Ctx.init : Ctx :=
  { desc := 0, slot := [], switch := 0, ringBase := 0,
    stage := BitVec.ofNat 1024 (0xFFF * 2 ^ 792), startAt := none, stepNo := 0, lastCommit := 0, stepRun := false,
    stepStartSweep := 0, phase2 := none, phase2Map := none, shards := [], replayMark := false, driftMark := false,
    poison7 := false, discards := 0, nfSources := 0, voted := false, rederived := false, settings := [],
    wAmax := [], lrMult := none, headers := [], summed := [], ortho := [], dumpAddr := 0, dumpReady := false,
    syncCounts := [], dumpReq := none, dumpDue := none, schedBase := 0, schedCount := 0, sched := [],
    schedState := [], digest := BitVec.ofNat 512 (0x3F * 2 ^ 296), remapHold := none, saveReq := none,
    draining := false, destroyDue := false }

/-- What a barrier entry collects for its generation (12 R292, R293). -/
structure BarrierCol where
  arrived : Bool                     -- arrived locally
  kids : List (Nat × Nat × Nat)      -- child, votes, SUBTREE
  kept : List (Nat × Nat × Nat)      -- ARRIVEs of the next generation, in arrival order
  votes : Nat                        -- OR of the votes
  release : Option (Nat × Nat)       -- release point Q held
  deriving DecidableEq, Repr

def BarrierCol.init : BarrierCol :=
  { arrived := false, kids := [], kept := [], votes := 0, release := none }

/-- A Shutter cut scheduled (15 R353): boundary number at which it falls, contexts, reason. -/
structure Cut where
  boundary : Nat
  contexts : BitVec 16
  reason : Nat
  deriving DecidableEq, Repr

/-- A remap waiting for its boundary (16 R366). -/
structure Remap where
  core : Nat                         -- logical core, or the first core of a cluster
  cluster : Bool
  boundary : Nat
  fault : Option Nat                 -- physical core retired, for the recovery replay
  deriving DecidableEq, Repr

/-- Where in a core a witness or residue event lies: engine, slot, instruction index (05 R124, 16 R361). -/
structure EventPlace where
  engine : Option Nat
  slot : Option Nat
  index : Option Nat
  deriving DecidableEq, Repr

/-- The record of a witness or residue event: its physical unit (648 and above: a cluster), place and sweep. -/
structure EventRec where
  unit : Nat
  residue : Bool
  place : EventPlace
  sweep : Nat
  deriving DecidableEq, Repr

/-- The first event of a unit in a step (16 R364): the unit, the context and step that it marked, and whether the replay of that step
runs. -/
structure FirstEvent where
  unit : Nat
  ctx : Nat
  step : Nat
  replay : Bool
  deriving DecidableEq, Repr

/-- Reserves and repair (16). -/
structure Repair where
  events : List (Nat × Nat)          -- witness and residue events: physical unit, boundary number
  eventLog : List EventRec           -- their records, oldest first
  firstEvent : List FirstEvent
  remaps : List Remap
  retiredClass : List (Nat × Bool)   -- retired physical units and PERMANENT class
  replayQ : List Nat                 -- recovery replays queued
  copies : List (Nat × Nat × Option Nat) -- channel copies: stack, channel, boundary of the switch once complete
  retiredCh : List (Nat × Nat)       -- retired channels (R218)
  lostCh : List (Nat × Nat)          -- channels whose failure lies beyond reserves (16 Table 16-4)
  softRows : List Nat                -- stacks of the rows under soft repair: hard repair at the next start-up (10 R217)
  hardRows : List Nat                -- stacks of the rows under hard repair
  chErrors : Tbl Nat                 -- corrected errors per stack × 32 + channel
  chSpares : Tbl Nat                 -- spare channels used per stack
  failedStacks : List Nat            -- flash stacks failed
  dieReserve : BitVec 8              -- die's reserve cluster in service
  deriving DecidableEq, Repr

/-- Live state of a Spectrum channel (17 R394). -/
structure Channel where
  defn : BitVec 256
  count : Nat
  zeros : Nat
  nonfinite : Nat
  min : W32
  max : W32
  any : Bool                         -- a finite sample has been taken
  bins : Tbl Nat
  seq : Nat
  winStart : Nat
  attempts : Nat
  uncommitted : Nat
  stepCount : Nat                    -- samples of the running step (R399)
  stepZeros : Nat
  silent : Nat                       -- run of silent steps
  alarmed : Bool
  deriving DecidableEq, Repr

def Channel.init : Channel :=
  { defn := BitVec.ofNat 256 (0x3F800000 * 2 ^ 192 + 16 * 2 ^ 176 + 0xE8 * 2 ^ 168), count := 0, zeros := 0,
    nonfinite := 0, min := 0, max := 0, any := false, bins := [], seq := 0, winStart := 0, attempts := 0,
    uncommitted := 0, stepCount := 0, stepZeros := 0, silent := 0, alarmed := false }

/-- Observability (17). -/
structure Observe where
  watch : Tbl (BitVec 512)           -- Table 17-7
  chan : Tbl Channel
  window : Tbl W128                  -- Table 17-11
  winCount : Tbl Nat                 -- attempts or boundaries since the window opened
  spectrum : List (BitVec 2048)      -- records in the partition, newest first
  staging : List (BitVec 2048)       -- records waiting on H0 (R396), oldest first
  deriving DecidableEq, Repr

/-- A CAN message to send (18 R412): kind 0 heartbeat, 1 EMCY, 2 TPDO, 3 USDO response, 4 boot-up; data. -/
structure CanMsg where
  kind : Nat
  cob : Nat
  data : List Byte
  deriving DecidableEq, Repr

/-- One CAN bus (18). -/
structure Bus where
  nmt : Nat                          -- 0 before boot-up, 4 stopped, 5 operational, 127 pre-operational
  state : Nat                        -- Table 18-6 sub 05h
  queue : List CanMsg                -- up to 64 (R413)
  bucket : Nat                       -- transmit bucket of the Aperture, 0 to 32
  session : Option (Nat × Nat)       -- USDO session: client tag, progress
  lastMsg : Option CanMsg            -- last frame sent (output)
  deriving DecidableEq, Repr

def Bus.init : Bus := { nmt := 0, state := 0, queue := [], bucket := 32, session := none, lastMsg := none }

/-- The dictionary and the management controllers (18). -/
structure Dict where
  od : Tbl W64                       -- entries by index × 256 + sub; unlisted: reset value
  tensors : Tbl W64                  -- 2B01h and 2C01h per tensor: (tensor × 2 + group) × 256 + sub
  stored : Tbl W64                   -- journaled dictionary store (R418)
  storedValid : Bool
  loadDefaults : Bool                -- 1011h written: reset values at the next start-up
  queue : List DictReq               -- accesses in arrival order (R402)
  mbReq : W128                       -- mailbox REQUEST
  mbData : Tbl Byte
  mbBusy : Bool
  mbDone : Bool
  busA : Bus
  busB : Bus
  history : List (BitVec 16)         -- 1003h, newest first, 16 entries
  errReg : BitVec 8                  -- 1001h
  standby : Bool                     -- H1 holds a current mirror
  mirror : Nat                       -- writes the standby has acknowledged (R423)
  controller : Nat                   -- 0 H0, 1 H1, 2 none left
  deriving DecidableEq, Repr

/-- A journal record (19 Table 19-2). -/
structure JournalRec where
  boot : Nat
  timeMs : Nat
  detail : Nat
  stage : Nat
  result : Nat
  alt : Nat
  unit : Nat
  deriving DecidableEq, Repr

/-- Start-up, images, presence and attestation (19). -/
structure Boot where
  journal : List JournalRec          -- newest first
  boot : Nat                         -- BOOT of this start-up
  stage : Nat                        -- stage to run, 1 to 10; 0 not started; 11 in service
  unit : Nat
  begun : Bool                       -- the BEGUN record of (stage, unit) is the last one
  restarts : Nat
  recovery : Bool
  fresh9 : Bool                      -- an image was activated since the last record of stage 9 (R428)
  slotVer : Tbl Nat                  -- image VERSION per slot; 0 empty
  running : Nat                      -- slot in use
  activate : Option (Nat × Nat)      -- slot to activate and boundary of the request
  nextBoot : Option Nat              -- slot loaded at the next start-up
  updating : Option (Nat × Nat)      -- target slot and version being written
  handover : Option (Nat × Nat)      -- handover running: from and to version
  handoverBlock : BitVec 512         -- Table 19-5
  revoked : Nat                      -- KEYS_REVOKED
  presentAt : Option Nat             -- milliseconds since presence was shown
  jumper : Bool
  sealOpen : Bool
  tamper : Bool
  tamperPress : Option Nat           -- milliseconds since a press made after the loop closed with TAMPER latched (R440)
  transfer : Bool                    -- ownership transfer at the next start-up
  debug : Bool
  spdm : Nat                         -- 0 none, 1 version, 2 capabilities, 3 algorithms negotiated
  pair : Bool                        -- a signed response awaits request code 0x01 (R438)
  session : Nat                      -- 0 none, 1 key exchange, 2 established
  chunks : List Byte                 -- large request assembled
  chunkNo : Nat                      -- next chunk of it
  large : Option (Nat × Nat)         -- large response: message code and length
  transcript : List Byte             -- what the last signature covered
  deriving DecidableEq, Repr

/-- A host command (20 Table 20-6). -/
structure HostCmd where
  entry : BitVec 512
  seq : Nat                          -- how many entries its queue had read before it
  started : Bool
  win : Option Nat                   -- DMA window that its data uses, once started
  done : Option (Nat × Nat)          -- status and bytes
  deriving DecidableEq, Repr

/-- A host queue (20 R452, R454). -/
structure HostQ where
  cfg : BitVec 256                   -- Table 20-5
  byPf : Bool                        -- enabled through the physical function
  sqHead : Nat
  sqTail : Nat
  cqHead : Nat
  cqTail : Nat
  phase : Bool
  toRead : List (BitVec 512)         -- entries of the ring the module has not read yet
  nread : Nat                        -- entries read so far, which number the commands
  cmds : List HostCmd                -- commands read and not completed, in submission order
  lastCompletion : Option W128       -- last completion entry written to host memory (output)
  deriving DecidableEq, Repr

def HostQ.init : HostQ :=
  { cfg := 0, byPf := false, sqHead := 0, sqTail := 0, cqHead := 0, cqTail := 0, phase := true, toRead := [],
    nread := 0, cmds := [], lastCompletion := none }

/-- The endpoint (20). -/
structure HostIf where
  hostFault : Tbl W64                -- per function, 0 physical
  bar2Base : Tbl W64
  bar2Size : Tbl Nat                 -- log2 of the size; unlisted 36 (64 GiB)
  ctlWindow : Nat
  windows : Tbl W128                 -- Table 20-4
  allow : Tbl Bool                   -- TC3 allow-list
  eventMap : Tbl W64                 -- Table 20-8
  msixTable : Tbl W128
  msixPend : List Nat                -- vectors with an event since the last boundary
  msixReady : List Nat               -- vectors to be signalled at this boundary
  msixSent : List Nat                -- vectors signalled in this sweep (output)
  queues : Tbl HostQ
  vfOn : BitVec 16
  tdi : Tbl Nat                      -- 0 CONFIG_UNLOCKED, 1 CONFIG_LOCKED, 2 RUN, 3 ERROR
  ideKeys : List (Nat × Nat)         -- streams programmed and the function they cover
  atc : List Nat                     -- translations in use
  words : List (Nat × W64)           -- words of structures written and not yet in effect (R448), by control offset
  hostOut : List Byte                -- bytes of the last write to host memory (output)
  hostEp : Bool                      -- the EP bit of that write (output)
  deriving DecidableEq, Repr

/-- Power and pins (21). -/
structure Power where
  mated : Bool                       -- EN_SHORT mated
  good : Bool                        -- PWR_GOOD
  powered : Bool                     -- compute dies powered
  off : Bool                         -- latched off by a trip, or off after an input loss
  holdup : Bool                      -- running on the hold-up bank
  tripCause : Option Nat             -- cause recorded at the next start-up: 1 current, 2 thermal
  shutterIn : Bool                   -- SHUTTER_IN_N as last sampled (15 R354)
  shutterOut : Bool                  -- SHUTTER_OUT_N asserted
  alerts : List Nat                  -- causes that hold ALERT_N asserted
  nodeId : BitVec 7
  ilim : BitVec 2
  deriving DecidableEq, Repr

/-- The long range and the flash (10). -/
structure LongRange where
  region : Tbl (BitVec 256)          -- Table 10-2
  unmapping : List (Nat × BitVec 256) -- regions whose unmapping waits for accesses, and the descriptor written
  unmapWait : List (Nat × HeldReq)   -- writes that an unmapping answers when it completes (10 R230)
  page : Tbl PageInfo
  accesses : Nat                     -- access counter of the tier managers (R233)
  governor : Nat                     -- bytes (R223)
  heldWrites : List (Nat × Option Nat) -- sectors of each held write, and its page
  ladders : List Ladder
  refreshes : Tbl Nat                -- refreshes begun per stack (02 R51)
  deriving DecidableEq, Repr

/-- The response to the last command's access: a status code, a dictionary abort code, returned data (log 14). -/
structure Resp where
  status : BitVec 8
  abort : BitVec 32
  data : List Byte
  deriving DecidableEq, Repr

/-- The state. -/
structure State where
  pending : List Instr               -- waiting commands, first in first out
  time : TimeBase
  cores : Tbl Core
  clusters : Tbl Cluster
  dies : Tbl Die
  ctxs : Tbl Ctx
  stores : Tbl Byte                  -- on-die stores, by core × 2^32 + local address (01 Table 01-6)
  imem : Tbl Byte                    -- instruction memories, by core × 65,536 + byte
  lr : Tbl Byte                      -- the long range, by offset
  side : Tbl Byte                    -- sidecars, by page × 4,096 + byte
  long : LongRange
  ops : List Xfer                    -- transfer operations in flight
  txq : List TxEntry                 -- frames waiting to leave
  relays : List Relay
  bindings : Tbl W128                -- Table 11-5
  qstatus : Tbl W128                 -- Table 11-6
  qflight : Tbl Nat                  -- destination bytes sent and not acknowledged (11 R263)
  routes : Tbl W32                   -- Table 11-2
  groups : Tbl (BitVec 256)          -- Table 11-10
  ports : Tbl Port
  staged : List StagedAdd
  addWait : List (Frame × Bool)      -- ADD frames that wait for room in the reorder region, and whether a ladder held them (15 R342)
  mesh : List Nat                    -- dies that the last transfer through the mesh crossed (01 R19; output)
  barriers : Tbl (BitVec 512)        -- Table 12-3
  barCol : Tbl BarrierCol
  orderCount : Tbl W32               -- 15 R340, by core × 64 + counter
  ranks : Tbl (BitVec 16)
  shutter : W128                     -- Table 15-10
  cuts : List Cut
  armedCut : Option Cut              -- the cut that the ARMED request of the Shutter register asked for (15 R353)
  drains : List Cut                  -- cuts whose drain runs, oldest first (15 R356)
  repair : Repair
  obs : Observe
  dict : Dict
  boot : Boot
  host : HostIf
  power : Power
  resp : Resp
  freeCtr : Nat                      -- free values drawn so far (log 3)
  deriving DecidableEq, Repr

/-- Right after reset: power absent, UNLOCKED, every structure at its reset value (logs 4 and 5). -/
def State.reset : State :=
  { pending := [],
    time :=
      { held := false, sweep := 0, tick := 0, shownCc := 0, syncDue := false, source := .unlocked, prevSource := .unlocked, locked := false,
        everLocked := false, sweepWired := false, phased := false, errRun := 0, phaseAlarm := false, rephaseReq := false,
        drifted := false, epochAt := none, epochUsed := false, beaconNext := 10, beaconPeriod := 10,
        beaconFrom := none, holdFrom := none, boundaries := 0, probes := [] },
    cores := [], clusters := [], dies := [], ctxs := [], stores := [], imem := [], lr := [], side := [],
    long :=
      { region := [], unmapping := [], unmapWait := [], page := [], accesses := 0, governor := 64000000000, heldWrites := [],
        ladders := [], refreshes := [] },
    ops := [], txq := [], relays := [], bindings := [], qstatus := [], qflight := [], routes := [], groups := [], ports := [],
    staged := [], addWait := [], mesh := [], barriers := [], barCol := [], orderCount := [], ranks := [], shutter := 0, cuts := [], armedCut := none,
    drains := [],
    repair :=
      { events := [], eventLog := [], firstEvent := [], remaps := [], retiredClass := [], replayQ := [], copies := [],
        retiredCh := [], lostCh := [], softRows := [], hardRows := [], chErrors := [], chSpares := [], failedStacks := [], dieReserve := 0 },
    obs := { watch := [], chan := [], window := [], winCount := [], spectrum := [], staging := [] },
    dict :=
      { od := [], tensors := [], stored := [], storedValid := false, loadDefaults := false, queue := [],
        mbReq := 0, mbData := [], mbBusy := false, mbDone := false, busA := Bus.init, busB := Bus.init,
        history := [], errReg := 0, standby := true, mirror := 0, controller := 0 },
    boot :=
      { journal := [], boot := 0, stage := 0, unit := 0, begun := false, restarts := 0, recovery := false, fresh9 := false,
        slotVer := [], running := 0, activate := none, nextBoot := none, updating := none, handover := none,
        handoverBlock := 0, revoked := 0, presentAt := none, jumper := false, sealOpen := false, tamper := false,
        tamperPress := none, transfer := false, debug := false, spdm := 0, pair := false, session := 0,
        chunks := [], chunkNo := 0, large := none, transcript := [] },
    host :=
      { hostFault := [], bar2Base := [], bar2Size := [], ctlWindow := 0, windows := [],
        allow := [], eventMap := [], msixTable := [], msixPend := [], msixReady := [], msixSent := [], queues := [],
        vfOn := 0, tdi := [], ideKeys := [], atc := [], words := [], hostOut := [], hostEp := false },
    power :=
      { mated := false, good := false, powered := false, off := false, holdup := false, tripCause := none,
        shutterIn := false, shutterOut := false, alerts := [], nodeId := 0, ilim := 0 },
    resp := { status := 0, abort := 0, data := [] },
    freeCtr := 0 }

end Sys2Proof.Machine
end

