-- ==== Sys2Proof/Machine/DictTable.lean ====
section
/-!
DEFINITION. The entries of the object dictionary: index, sub-index, type, access code, range and reset value
(02 Table 02-7, 07 Table 07-7, 08 Table 08-11, 09 Table 09-8, 10 Table 10-6, 11 Table 11-13, 14 Table 14-12,
15 Table 15-13, 16 Table 16-7, 17 Table 17-13, 18 Tables 18-6, 18-7, 18-9 and R417, chapter 19).
-/

namespace Sys2Proof.Machine

/-- Data types of entries (18 R416). -/
inductive OdType where
  | bool | u8 | u16 | u32 | u64 | i16 | r32 | str
  deriving DecidableEq, Repr

/-- Access codes (18 Table 18-1). -/
inductive OdAccess where
  | ro | const | wo | rw | rwp | rwq
  deriving DecidableEq, Repr

/-- Ranges: any value of the type; an interval; at most a bound, refused as too high (02 R57); an FP32 interval;
a list; a finite non-zero FP32; a multiple of 0x1_0000. -/
inductive OdRange where
  | any
  | between (lo hi : Nat)
  | high (hi : Nat)
  | real (lo hi : Nat)
  | oneOf (l : List Nat)
  | finiteNonzero
  | page
  deriving DecidableEq, Repr

/-- One entry. -/
structure OdEntry where
  key : Nat        -- index × 256 + sub
  ty : OdType
  acc : OdAccess
  rng : OdRange
  reset : Nat
  deriving DecidableEq, Repr

/-- Bytes of an entry; strings have their own length. -/
def odBytes : OdType → Nat
  | .bool => 1
  | .u8 => 1
  | .u16 => 2
  | .u32 => 4
  | .u64 => 8
  | .i16 => 2
  | .r32 => 4
  | .str => 8

def odComm : List OdEntry :=
  [⟨0x100000, .u32, .const, .any, 0⟩,
   ⟨0x100100, .u8, .ro, .any, 0⟩,
   ⟨0x100300, .u8, .rw, .oneOf [0], 0⟩,
   ⟨0x100301, .u32, .ro, .any, 0⟩,
   ⟨0x100302, .u32, .ro, .any, 0⟩,
   ⟨0x100303, .u32, .ro, .any, 0⟩,
   ⟨0x100304, .u32, .ro, .any, 0⟩,
   ⟨0x100305, .u32, .ro, .any, 0⟩,
   ⟨0x100306, .u32, .ro, .any, 0⟩,
   ⟨0x100307, .u32, .ro, .any, 0⟩,
   ⟨0x100308, .u32, .ro, .any, 0⟩,
   ⟨0x100309, .u32, .ro, .any, 0⟩,
   ⟨0x10030A, .u32, .ro, .any, 0⟩,
   ⟨0x10030B, .u32, .ro, .any, 0⟩,
   ⟨0x10030C, .u32, .ro, .any, 0⟩,
   ⟨0x10030D, .u32, .ro, .any, 0⟩,
   ⟨0x10030E, .u32, .ro, .any, 0⟩,
   ⟨0x10030F, .u32, .ro, .any, 0⟩,
   ⟨0x100310, .u32, .ro, .any, 0⟩,
   ⟨0x100800, .str, .const, .any, 0⟩,
   ⟨0x100900, .str, .const, .any, 0⟩,
   ⟨0x100A00, .str, .const, .any, 0⟩,
   ⟨0x101000, .u8, .const, .any, 1⟩,
   ⟨0x101001, .u32, .rwq, .any, 0⟩,
   ⟨0x101100, .u8, .const, .any, 1⟩,
   ⟨0x101101, .u32, .rwq, .any, 0⟩,
   ⟨0x101400, .u32, .ro, .any, 0⟩,
   ⟨0x101500, .u16, .rw, .any, 0⟩,
   ⟨0x101700, .u16, .rw, .between 100 60000, 0x3e8⟩,
   ⟨0x101800, .u8, .const, .any, 4⟩,
   ⟨0x101801, .u32, .const, .any, 0⟩,
   ⟨0x101802, .u32, .const, .any, 0x9040⟩,
   ⟨0x101803, .u32, .const, .any, 0⟩,
   ⟨0x101804, .u32, .const, .any, 0⟩]

def odTpdo : List OdEntry :=
  [⟨0x180000, .u8, .const, .any, 5⟩,
   ⟨0x180001, .u32, .rw, .any, 0⟩,
   ⟨0x180002, .u8, .const, .any, 0xfe⟩,
   ⟨0x180005, .u16, .rw, .between 100 60000, 0x3e8⟩,
   ⟨0x180100, .u8, .const, .any, 5⟩,
   ⟨0x180101, .u32, .rw, .any, 0⟩,
   ⟨0x180102, .u8, .const, .any, 0xfe⟩,
   ⟨0x180105, .u16, .rw, .between 100 60000, 0x3e8⟩,
   ⟨0x180200, .u8, .const, .any, 5⟩,
   ⟨0x180201, .u32, .rw, .any, 0⟩,
   ⟨0x180202, .u8, .const, .any, 0xfe⟩,
   ⟨0x180205, .u16, .rw, .between 100 60000, 0x3e8⟩,
   ⟨0x180300, .u8, .const, .any, 5⟩,
   ⟨0x180301, .u32, .rw, .any, 0⟩,
   ⟨0x180302, .u8, .const, .any, 0xfe⟩,
   ⟨0x180305, .u16, .rw, .between 100 60000, 0x3e8⟩]

def od20 : List OdEntry :=
  [⟨0x200001, .str, .const, .any, 0⟩,
   ⟨0x200002, .str, .const, .any, 0⟩,
   ⟨0x200003, .u32, .const, .any, 0⟩,
   ⟨0x200004, .u64, .ro, .any, 0⟩,
   ⟨0x200005, .u32, .ro, .any, 0⟩,
   ⟨0x200006, .u8, .ro, .any, 0⟩,
   ⟨0x200007, .u16, .rwq, .between 0 49151, 0⟩,
   ⟨0x200008, .u32, .const, .any, 7⟩,
   ⟨0x200101, .u8, .ro, .any, 0⟩,
   ⟨0x200102, .bool, .ro, .any, 1⟩,
   ⟨0x200103, .u32, .ro, .any, 0⟩,
   ⟨0x200104, .u64, .ro, .any, 0⟩,
   ⟨0x200105, .u8, .ro, .any, 0⟩,
   ⟨0x200106, .u8, .ro, .any, 0⟩,
   ⟨0x200107, .u8, .rwq, .between 0 3, 3⟩,
   ⟨0x200108, .u8, .ro, .any, 0⟩,
   ⟨0x200109, .u32, .ro, .any, 0⟩,
   ⟨0x20010A, .u32, .ro, .any, 0⟩,
   ⟨0x20010B, .u64, .ro, .any, 0⟩,
   ⟨0x20010C, .u16, .const, .any, 0x32⟩,
   ⟨0x20010D, .u32, .ro, .any, 0⟩,
   ⟨0x20010E, .u32, .ro, .any, 0⟩,
   ⟨0x201001, .u32, .ro, .any, 0xffffffff⟩,
   ⟨0x201002, .bool, .ro, .any, 0⟩,
   ⟨0x201003, .bool, .ro, .any, 0⟩,
   ⟨0x201004, .bool, .ro, .any, 0⟩,
   ⟨0x201005, .bool, .rwp, .between 0 1, 0⟩,
   ⟨0x201006, .u32, .rwp, .any, 0⟩,
   ⟨0x201007, .bool, .rwp, .between 0 1, 0⟩,
   ⟨0x201008, .u8, .rwp, .between 0 1, 0⟩,
   ⟨0x202001, .u32, .ro, .any, 0⟩,
   ⟨0x202002, .u32, .ro, .any, 0⟩,
   ⟨0x202003, .u32, .ro, .any, 0⟩,
   ⟨0x202004, .u8, .ro, .any, 0⟩,
   ⟨0x202005, .u64, .rw, .any, 0⟩,
   ⟨0x202006, .u32, .rw, .between 20480 268435456, 0⟩,
   ⟨0x202007, .u8, .rw, .between 0 1, 0⟩,
   ⟨0x202008, .u8, .ro, .any, 0⟩,
   ⟨0x202009, .u8, .rw, .between 0 2, 0⟩,
   ⟨0x20200A, .u8, .rwp, .between 0 3, 0⟩,
   ⟨0x203001, .u32, .ro, .any, 0⟩,
   ⟨0x203002, .u32, .ro, .any, 0⟩,
   ⟨0x203003, .u8, .ro, .any, 0⟩,
   ⟨0x203004, .u8, .rwp, .between 0 1, 0⟩,
   ⟨0x203005, .bool, .ro, .any, 0⟩,
   ⟨0x203006, .u16, .ro, .any, 0⟩]

def od21 : List OdEntry :=
  [⟨0x210001, .u16, .ro, .any, 0⟩,
   ⟨0x210002, .u32, .ro, .any, 0⟩,
   ⟨0x210003, .u32, .ro, .any, 0⟩,
   ⟨0x210004, .u8, .ro, .any, 0⟩,
   ⟨0x210005, .bool, .ro, .any, 0⟩,
   ⟨0x210006, .u32, .ro, .any, 0⟩,
   ⟨0x210007, .i16, .ro, .any, 0⟩,
   ⟨0x210008, .i16, .ro, .any, 0⟩,
   ⟨0x210009, .i16, .ro, .any, 0⟩,
   ⟨0x21000A, .u8, .ro, .any, 0⟩,
   ⟨0x21000B, .u16, .ro, .any, 0⟩,
   ⟨0x21000C, .i16, .rw, .between 6000 10500, 0x251c⟩,
   ⟨0x21000D, .u32, .ro, .any, 0⟩,
   ⟨0x21000E, .u64, .ro, .any, 0⟩,
   ⟨0x211001, .u8, .ro, .any, 0⟩,
   ⟨0x211002, .i16, .const, .any, 0x2cec⟩,
   ⟨0x211003, .u64, .ro, .any, 0⟩,
   ⟨0x211004, .u8, .ro, .any, 0⟩,
   ⟨0x211005, .u16, .ro, .any, 0⟩,
   ⟨0x211006, .u8, .const, .any, 0x20⟩,
   ⟨0x211007, .u16, .const, .any, 0xc8⟩,
   ⟨0x211008, .u32, .ro, .any, 0⟩]

def od22 : List OdEntry :=
  [⟨0x220001, .u64, .ro, .any, 0⟩,
   ⟨0x220002, .u16, .ro, .any, 0⟩,
   ⟨0x220003, .u8, .ro, .any, 3⟩,
   ⟨0x220004, .bool, .rwq, .between 0 1, 0⟩,
   ⟨0x220005, .u16, .rwq, .high 4095, 0⟩,
   ⟨0x220006, .u16, .rwq, .high 4095, 0⟩,
   ⟨0x220007, .u32, .ro, .any, 0⟩,
   ⟨0x220008, .u32, .ro, .any, 0⟩,
   ⟨0x220009, .u8, .rwq, .between 0 1, 0⟩,
   ⟨0x22000A, .u8, .rwq, .between 0 1, 0⟩,
   ⟨0x22000B, .u16, .rw, .between 1 1000, 0xa⟩,
   ⟨0x22000C, .u32, .rw, .any, 0x186a0⟩,
   ⟨0x22000D, .u64, .ro, .any, 0⟩,
   ⟨0x22000E, .u64, .ro, .any, 0⟩,
   ⟨0x22000F, .u16, .ro, .any, 0xffff⟩,
   ⟨0x220010, .u16, .rwq, .any, 0⟩]

def od23 : List OdEntry :=
  [⟨0x230001, .u8, .ro, .any, 0x40⟩,
   ⟨0x230002, .u16, .ro, .any, 8⟩,
   ⟨0x230003, .u8, .ro, .any, 0x20⟩,
   ⟨0x230004, .u32, .ro, .any, 0x40000⟩,
   ⟨0x230005, .u32, .ro, .any, 0x10000⟩,
   ⟨0x230006, .u8, .ro, .any, 0⟩,
   ⟨0x230007, .u8, .ro, .any, 8⟩,
   ⟨0x230008, .u8, .ro, .any, 0⟩,
   ⟨0x230009, .bool, .ro, .any, 0⟩,
   ⟨0x23000A, .u32, .ro, .any, 0⟩,
   ⟨0x23000B, .u32, .ro, .any, 0⟩,
   ⟨0x23000C, .u32, .ro, .any, 0⟩,
   ⟨0x23000D, .u16, .ro, .any, 0⟩,
   ⟨0x23000E, .u8, .ro, .any, 0⟩,
   ⟨0x23000F, .u32, .rwq, .between 1 1000000, 0x2710⟩,
   ⟨0x230010, .u64, .ro, .any, 0⟩,
   ⟨0x230011, .u8, .rwq, .between 2 255, 3⟩,
   ⟨0x230012, .u64, .rwq, .between 100000 1000000000000, 0x5f5e100⟩,
   ⟨0x230013, .u32, .ro, .any, 0⟩]

def od24 : List OdEntry :=
  [⟨0x240001, .u32, .ro, .any, 0xfc0000⟩,
   ⟨0x240002, .u32, .ro, .any, 0xfc0000⟩,
   ⟨0x240003, .u32, .ro, .any, 0⟩,
   ⟨0x240004, .u32, .ro, .any, 0⟩,
   ⟨0x240005, .u32, .ro, .any, 0⟩,
   ⟨0x240006, .u64, .ro, .any, 0⟩,
   ⟨0x240007, .u64, .ro, .any, 0xee6b28000⟩,
   ⟨0x240008, .u32, .ro, .any, 0⟩,
   ⟨0x240009, .u32, .ro, .any, 0⟩,
   ⟨0x24000A, .u64, .ro, .any, 0⟩,
   ⟨0x24000B, .u32, .ro, .any, 0⟩,
   ⟨0x24000C, .u32, .ro, .any, 0⟩,
   ⟨0x24000D, .u32, .ro, .any, 0⟩,
   ⟨0x24000E, .u64, .ro, .any, 0⟩,
   ⟨0x24000F, .u32, .rwq, .between 100 100000, 0x7d0⟩,
   ⟨0x240010, .u16, .rwq, .between 16 256, 0x40⟩,
   ⟨0x240011, .r32, .const, .any, 0x53ae9f7c⟩,
   ⟨0x240101, .u32, .rwq, .any, 0⟩,
   ⟨0x240102, .u32, .rwq, .any, 0⟩,
   ⟨0x240103, .u32, .rwq, .any, 0⟩,
   ⟨0x240104, .u32, .rwq, .any, 0⟩,
   ⟨0x240105, .u32, .rwq, .any, 0⟩,
   ⟨0x240106, .u32, .rwq, .any, 0⟩,
   ⟨0x240107, .u32, .rwq, .any, 0⟩,
   ⟨0x240108, .u32, .rwq, .any, 0⟩,
   ⟨0x240109, .u32, .rwq, .any, 0⟩,
   ⟨0x24010A, .u32, .rwq, .any, 0⟩,
   ⟨0x24010B, .u32, .rwq, .any, 0⟩,
   ⟨0x24010C, .u32, .rwq, .any, 0⟩,
   ⟨0x24010D, .u32, .rwq, .any, 0⟩,
   ⟨0x24010E, .u32, .rwq, .any, 0⟩,
   ⟨0x24010F, .u32, .rwq, .any, 0⟩,
   ⟨0x240110, .u32, .rwq, .any, 0⟩]

def od25 : List OdEntry :=
  [⟨0x250001, .u64, .ro, .any, 0⟩,
   ⟨0x250002, .u64, .ro, .any, 0⟩,
   ⟨0x250003, .u64, .ro, .any, 0⟩,
   ⟨0x250004, .u64, .ro, .any, 0⟩,
   ⟨0x250005, .u64, .ro, .any, 0⟩,
   ⟨0x250006, .u16, .rwq, .between 1 1000, 0x10⟩,
   ⟨0x250007, .u8, .rw, .between 0 47, 0⟩,
   ⟨0x250008, .u8, .ro, .any, 0⟩,
   ⟨0x250009, .u32, .ro, .any, 0⟩,
   ⟨0x25000A, .u16, .ro, .any, 0⟩,
   ⟨0x251001, .u8, .rwq, .between 1 15, 3⟩,
   ⟨0x251002, .u8, .rwq, .between 1 15, 1⟩,
   ⟨0x251003, .u32, .const, .any, 0xee6b2800⟩,
   ⟨0x251004, .u32, .const, .any, 0x77359400⟩,
   ⟨0x251005, .u32, .ro, .any, 0⟩,
   ⟨0x251006, .u32, .ro, .any, 0⟩,
   ⟨0x251007, .u16, .ro, .any, 0⟩,
   ⟨0x251008, .u16, .rwq, .any, 0⟩,
   ⟨0x251009, .u64, .ro, .any, 0⟩,
   ⟨0x25100A, .u32, .ro, .any, 0⟩]

def od26 : List OdEntry :=
  [⟨0x260001, .u16, .ro, .any, 0⟩,
   ⟨0x260002, .u8, .rw, .between 0 15, 0⟩,
   ⟨0x260003, .u8, .ro, .any, 0⟩,
   ⟨0x260004, .u32, .ro, .any, 0⟩,
   ⟨0x260005, .u8, .ro, .any, 0⟩,
   ⟨0x260006, .u32, .ro, .any, 0⟩,
   ⟨0x260007, .u32, .ro, .any, 0⟩,
   ⟨0x260008, .u32, .ro, .any, 0⟩,
   ⟨0x260009, .u32, .ro, .any, 0⟩,
   ⟨0x26000A, .u32, .ro, .any, 0⟩,
   ⟨0x26000B, .u64, .ro, .any, 0⟩,
   ⟨0x26000C, .u32, .ro, .any, 0⟩,
   ⟨0x26000D, .u64, .ro, .any, 0⟩]

def od27 : List OdEntry :=
  [⟨0x270001, .bool, .rwq, .between 0 1, 0⟩,
   ⟨0x270002, .u64, .ro, .any, 0⟩,
   ⟨0x270003, .u32, .ro, .any, 0⟩,
   ⟨0x270004, .u64, .rwq, .any, 0⟩,
   ⟨0x270005, .u8, .rwq, .between 0 15, 0⟩,
   ⟨0x270006, .u16, .rw, .any, 0xffff⟩,
   ⟨0x270007, .u16, .rw, .any, 0x380⟩,
   ⟨0x270008, .u8, .wo, .between 0 1, 0⟩,
   ⟨0x270009, .u32, .ro, .any, 0⟩,
   ⟨0x27000A, .u32, .ro, .any, 0⟩,
   ⟨0x27000B, .u32, .ro, .any, 0⟩,
   ⟨0x27000C, .u32, .ro, .any, 0⟩,
   ⟨0x27000D, .u32, .ro, .any, 0⟩,
   ⟨0x27000E, .u64, .ro, .any, 0⟩,
   ⟨0x27000F, .u32, .ro, .any, 0⟩,
   ⟨0x270010, .u64, .rwq, .page, 0⟩,
   ⟨0x270011, .u64, .rwq, .page, 0⟩,
   ⟨0x270012, .u64, .rwq, .page, 0⟩,
   ⟨0x270013, .u64, .rwq, .page, 0⟩,
   ⟨0x270014, .u64, .rwq, .page, 0⟩,
   ⟨0x270015, .u64, .rwq, .page, 0⟩,
   ⟨0x270016, .u64, .rwq, .page, 0⟩,
   ⟨0x270017, .u64, .rwq, .page, 0⟩,
   ⟨0x270018, .u32, .rwq, .between 0 1048576, 0⟩,
   ⟨0x270019, .u32, .ro, .any, 0⟩,
   ⟨0x27001A, .u8, .ro, .any, 0⟩]

def od28 : List OdEntry :=
  [⟨0x280001, .u8, .ro, .any, 0⟩,
   ⟨0x280002, .u32, .ro, .any, 0⟩,
   ⟨0x280003, .u32, .ro, .any, 0⟩,
   ⟨0x280004, .u8, .rwq, .between 0 1, 0⟩,
   ⟨0x280005, .u32, .ro, .any, 0⟩,
   ⟨0x280006, .u64, .ro, .any, 0⟩,
   ⟨0x280007, .u16, .ro, .any, 0⟩]

def od29 : List OdEntry :=
  [⟨0x290001, .u32, .rw, .between 1 4294967295, 0x186a0⟩,
   ⟨0x290002, .u32, .ro, .any, 0⟩,
   ⟨0x290003, .u32, .ro, .any, 0⟩,
   ⟨0x290004, .u32, .ro, .any, 0⟩]

def od2A : List OdEntry :=
  [⟨0x2A0001, .u64, .ro, .any, 0⟩,
   ⟨0x2A0002, .u32, .ro, .any, 0⟩,
   ⟨0x2A0003, .u32, .ro, .any, 0⟩]

def od2B : List OdEntry :=
  [⟨0x2B0001, .bool, .rwq, .between 0 1, 1⟩,
   ⟨0x2B0002, .u32, .ro, .any, 0⟩,
   ⟨0x2B0003, .u32, .ro, .any, 0⟩,
   ⟨0x2B0004, .u32, .ro, .any, 0⟩,
   ⟨0x2B0101, .u32, .rw, .any, 0⟩,
   ⟨0x2B0102, .u8, .rwq, .between 0 2, 0⟩,
   ⟨0x2B0103, .u16, .rwq, .oneOf [256, 512, 1024, 2048], 0x800⟩,
   ⟨0x2B0104, .u8, .rwq, .between 0 6, 2⟩,
   ⟨0x2B0105, .u8, .rwq, .between 1 64, 1⟩,
   ⟨0x2B0106, .u8, .rwq, .oneOf [1, 11], 1⟩,
   ⟨0x2B0107, .r32, .rwq, .real 0x00000000 0x3F7FF972, 0x3f733333⟩,
   ⟨0x2B0108, .u8, .rwq, .between 6 7, 6⟩,
   ⟨0x2B0109, .u32, .ro, .any, 0⟩,
   ⟨0x2B010A, .u64, .ro, .any, 0⟩,
   ⟨0x2B0201, .u32, .ro, .any, 0⟩,
   ⟨0x2B0202, .u32, .ro, .any, 0⟩,
   ⟨0x2B0203, .u32, .ro, .any, 0⟩,
   ⟨0x2B0204, .u32, .ro, .any, 0⟩,
   ⟨0x2B0205, .u64, .ro, .any, 0⟩,
   ⟨0x2B0206, .u32, .ro, .any, 0⟩,
   ⟨0x2B0207, .u32, .ro, .any, 0⟩,
   ⟨0x2B0208, .r32, .const, .any, 0x35800000⟩,
   ⟨0x2B0209, .r32, .const, .any, 0x2b800000⟩,
   ⟨0x2B020A, .u8, .const, .any, 0x40⟩]

def od2C : List OdEntry :=
  [⟨0x2C0001, .u32, .ro, .any, 0⟩,
   ⟨0x2C0002, .u64, .ro, .any, 0⟩,
   ⟨0x2C0003, .u8, .ro, .any, 0⟩,
   ⟨0x2C0004, .u8, .rwq, .between 1 255, 8⟩,
   ⟨0x2C0005, .u32, .rwq, .between 1 4294967295, 0x3e8⟩,
   ⟨0x2C0006, .u32, .ro, .any, 0⟩,
   ⟨0x2C0007, .u32, .ro, .any, 0⟩,
   ⟨0x2C0008, .u32, .ro, .any, 0⟩,
   ⟨0x2C0009, .u64, .ro, .any, 0⟩,
   ⟨0x2C000A, .u32, .ro, .any, 0⟩,
   ⟨0x2C0101, .u32, .rw, .any, 0⟩,
   ⟨0x2C0102, .u8, .rwq, .between 0 3, 1⟩,
   ⟨0x2C0103, .r32, .rwq, .real 0x00000000 0x3F800000, 0x3a83126f⟩,
   ⟨0x2C0104, .r32, .rwq, .real 0x00000000 0x3F7FF972, 0x3f666666⟩,
   ⟨0x2C0105, .r32, .rwq, .real 0x00000000 0x3F7FFF58, 0x3f733333⟩,
   ⟨0x2C0106, .r32, .rwq, .real 0x00800000 0x3F800000, 0x322bcc77⟩,
   ⟨0x2C0107, .r32, .rwq, .real 0x00000000 0x3F800000, 0⟩,
   ⟨0x2C0108, .r32, .rwq, .real 0x00000000 0x3F7FF972, 0x3f733333⟩,
   ⟨0x2C0109, .bool, .rwq, .between 0 1, 0⟩,
   ⟨0x2C010A, .r32, .rwq, .real 0x00000000 0x41800000, 0x3e4ccccd⟩,
   ⟨0x2C010B, .u16, .rwq, .between 1 65535, 0x3e8⟩,
   ⟨0x2C010C, .u8, .rwq, .between 0 1, 0⟩,
   ⟨0x2C010D, .u8, .rwq, .oneOf [1, 11], 1⟩,
   ⟨0x2C010E, .bool, .rwq, .between 0 1, 0⟩,
   ⟨0x2C010F, .r32, .rwq, .finiteNonzero, 0x3f800000⟩,
   ⟨0x2C0110, .u8, .rwq, .oneOf [2, 6, 7, 8, 9, 10], 6⟩,
   ⟨0x2C0111, .u32, .ro, .any, 0⟩,
   ⟨0x2C0201, .r32, .rw, .real 0x00000000 0x3F800000, 0x3f800000⟩,
   ⟨0x2C0202, .r32, .rw, .real 0x00000000 0x3F800000, 0x3f800000⟩,
   ⟨0x2C0203, .r32, .rw, .real 0x00000000 0x3F800000, 0x3f800000⟩,
   ⟨0x2C0204, .r32, .rw, .real 0x00000000 0x3F800000, 0x3f800000⟩,
   ⟨0x2C0205, .r32, .rw, .real 0x00000000 0x3F800000, 0x3f800000⟩,
   ⟨0x2C0206, .r32, .rw, .real 0x00000000 0x3F800000, 0x3f800000⟩,
   ⟨0x2C0207, .r32, .rw, .real 0x00000000 0x3F800000, 0x3f800000⟩,
   ⟨0x2C0208, .r32, .rw, .real 0x00000000 0x3F800000, 0x3f800000⟩,
   ⟨0x2C0209, .r32, .rw, .real 0x00000000 0x3F800000, 0x3f800000⟩,
   ⟨0x2C020A, .r32, .rw, .real 0x00000000 0x3F800000, 0x3f800000⟩,
   ⟨0x2C020B, .r32, .rw, .real 0x00000000 0x3F800000, 0x3f800000⟩,
   ⟨0x2C020C, .r32, .rw, .real 0x00000000 0x3F800000, 0x3f800000⟩,
   ⟨0x2C020D, .r32, .rw, .real 0x00000000 0x3F800000, 0x3f800000⟩,
   ⟨0x2C020E, .r32, .rw, .real 0x00000000 0x3F800000, 0x3f800000⟩,
   ⟨0x2C020F, .r32, .rw, .real 0x00000000 0x3F800000, 0x3f800000⟩,
   ⟨0x2C0210, .r32, .rw, .real 0x00000000 0x3F800000, 0x3f800000⟩]

/-- Reset mapping of TPDO1 (18 Table 18-9). -/
def tpdoReset0 : List Nat := [0x21000110, 0x21000220, 0x21000320, 0x21000710, 0x21000810, 0x21000910, 0x21000b10]

/-- Reset mapping of TPDO2 (18 Table 18-9). -/
def tpdoReset1 : List Nat := [0x22000140, 0x22000308, 0x22000720, 0x22000820]

/-- Reset mapping of TPDO3 (18 Table 18-9). -/
def tpdoReset2 : List Nat := [0x23000108, 0x23000210, 0x23000308, 0x23000708, 0x23000808, 0x23000908, 0x23000a20, 0x23000c20]

/-- Reset mapping of TPDO4 (18 Table 18-9). -/
def tpdoReset3 : List Nat := [0x26000110, 0x26000620, 0x2c000120, 0x27000240, 0x28000520, 0x24000b20]

/-- A mapping record 1A0xh: the count, and 64 mapping words (18 R422). -/
def odMapRec (index : Nat) (words : List Nat) : List OdEntry :=
  ⟨index * 256, .u8, .rwq, .between 0 64, words.length⟩ ::
    (List.range 64).map fun k => ⟨index * 256 + k + 1, .u32, .rwq, .any, words.getD k 0⟩

/-- Every entry. -/
def odTable : List OdEntry :=
  odComm ++ odTpdo ++ od20 ++ od21 ++ od22 ++ od23 ++ od24 ++ od25 ++ od26 ++ od27 ++ od28 ++ od29 ++ od2A ++ od2B ++ od2C ++ odMapRec 0x1A00 tpdoReset0 ++ odMapRec 0x1A01 tpdoReset1 ++ odMapRec 0x1A02 tpdoReset2 ++ odMapRec 0x1A03 tpdoReset3

/-- The entry of a key. -/
def odFind (key : Nat) : Option OdEntry := odTable.find? fun e => e.key == key

/-- True when an index has any entry (18 R407: index does not exist, or sub-index does not exist). -/
def odHasIndex (index : Nat) : Bool := odTable.any fun e => e.key / 256 == index

/-- What an unlisted entry of the dictionary reads as: its reset value (log 4 where its table gives none). -/
def odReset (key : Nat) : W64 :=
  match odFind key with
  | some e => BitVec.ofNat 64 e.reset
  | none => 0

end Sys2Proof.Machine
end

