-- ==== Sys2Proof/Machine/Flags.lean ====
section
/-!
DEFINITION. Status codes (00 Table 00-6), instruction fault causes (03 Table 03-10), abort codes (18 Table 18-2),
EMCY codes (18 Table 18-8), cut reasons (15 Table 15-13), and the flag words computed from state.
-/

namespace Sys2Proof.Machine

/-! Status codes (00 R9) -/
def stOk : Nat := 0x00
def stRegularised : Nat := 0x01
def stCold : Nat := 0x02
def stPoison : Nat := 0x10
def stDeadline : Nat := 0x11
def stNonfinite : Nat := 0x12
def stAccess : Nat := 0x20
def stDenied : Nat := 0x21
def stUnderflow : Nat := 0x22
def stPendOverflow : Nat := 0x23
def stWindow : Nat := 0x24
def stUncorrectable : Nat := 0x30
def stRecovered : Nat := 0x31

/-- Codes 0x00 to 0x0F and RECOVERED are not errors (00 R9). -/
def isError (st : Nat) : Bool := decide (st ≥ 0x10 ∧ st ≠ stRecovered)

/-! Abort codes (18 R407) -/
def abTimeout : Nat := 0x05040000
def abReadWo : Nat := 0x06010001
def abWriteRo : Nat := 0x06010002
def abNoIndex : Nat := 0x06020000
def abLength : Nat := 0x06070010
def abNoSub : Nat := 0x06090011
def abRange : Nat := 0x06090030
def abTooHigh : Nat := 0x06090031
def abPath : Nat := 0x08000020
def abPresence : Nat := 0x08000021
def abState : Nat := 0x08000022

/-! Reasons of a Shutter cut (15 Table 15-13) -/
def cutRegister : Nat := 1
def cutPin : Nat := 2
def cutFault : Nat := 3
def cutTransfer : Nat := 4
def cutSync : Nat := 5
def cutPoison : Nat := 6
def cutHoldover : Nat := 7
def cutReserves : Nat := 8
def cutDigests : Nat := 9

/-- Causes that hold ALERT_N asserted (02 R42, 16 R371, R372, 18 R419, 19 R425, R429, R440). -/
def alPhase : Nat := 1
def alThermal : Nat := 2
def alMaintenance : Nat := 3
def alUnable : Nat := 4
def alTamper : Nat := 5
def alGrade : Nat := 6
def alRecovery : Nat := 7

/-- FAULT_INFO (03 Table 03-13). -/
def faultInfoWord (pc lane status cause : Nat) : W64 :=
  BitVec.ofNat 64 (pc % 4096 * 2 ^ 32 + lane % 4 * 2 ^ 24 + status % 256 * 2 ^ 16 + cause % 256)

/-- The status of a fault cause (03 Table 03-10). -/
def causeStatus (cause : Nat) : Nat := if cause = 8 then stUnderflow else stAccess

/-- STEP_NF with one more detection (06 R147, Table 06-4). -/
def stepNfAdd (w : W64) (pc src : Nat) : W64 :=
  let c := min (2 ^ 28 - 1) (fld w 27 0 + 1)
  if fld w 31 28 = 0 then BitVec.ofNat 64 (pc % 4096 * 2 ^ 32 + src % 16 * 2 ^ 28 + c)
  else setFld w 27 0 c

/-- CORE_STATUS.STATE code (03 Table 03-13). -/
def runCode : CoreRun → Nat
  | .idle => 0
  | .armed => 1
  | .running => 2
  | .halted => 3
  | .stopped => 4

/-- TIME_SOURCE code (02 Table 02-1). -/
def sourceCode : TimeSource → Nat
  | .wired => 0
  | .beacon => 1
  | .holdover => 2
  | .unlocked => 3

/-- The error register 1001h with one bit set or cleared; bit 0 is the OR of the others (18 R421). -/
def errWith (r : BitVec 8) (b : Nat) (on : Bool) : BitVec 8 :=
  let r := setFlag r b on
  setFlag r 0 (decide (r.toNat / 2 ≠ 0))

/-- LAST_REPAIR (16 Table 16-7). -/
def repairWord (kind cls unit sweep : Nat) : Nat :=
  kind * 2 ^ 56 + cls * 2 ^ 54 + unit % 1024 * 2 ^ 44 + sweep % 2 ^ 44

/-- A trace record (17 Table 17-3). -/
def traceWord (payload source kind time : Nat) : W128 :=
  BitVec.ofNat 128 (payload % 2 ^ 80 * 2 ^ 48 + source % 16 * 2 ^ 44 + kind % 256 * 2 ^ 32 + time % 2 ^ 32)

end Sys2Proof.Machine
end

