-- ==== Sys2Proof/Machine/Mesh.lean ====
section
/-!
DEFINITION. The package: which die each memory, port and connector belongs to (01 R16, R17), the fixed routes of the die
mesh (R18, R19), and the latency of a route (12 R289).

Dies 0 to 7 are the compute dies C0 to C7; 8 is H0 and 9 is H1.
-/

namespace Sys2Proof.Machine

def hubH0 : Nat := 8
def hubH1 : Nat := 9

/-- Row and column of a compute die (R16). -/
def dieRow (d : Nat) : Nat := d / 4
def dieCol (d : Nat) : Nat := d % 4

/-! Attachments (R17, Table 01-2) -/

/-- The die of an HBM4 stack, and which of its controllers. -/
def stackDie (m : Nat) : Nat := m / 2
def stackController (m : Nat) : Nat := m % 2
/-- The hub die of a flash stack. -/
def flashDie (f : Nat) : Nat := if f < 2 then hubH0 else hubH1
/-- The die of an optical port, and that die's port controller. -/
def portDie (p : Nat) : Nat := p / 6
def portController (p : Nat) : Nat := p % 6
/-- The connector of a port, and the ports of a connector. -/
def portConnector (p : Nat) : Nat := 3 + p / 2
def connectorPorts (j : Nat) : List Nat := [2 * (j - 3), 2 * (j - 3) + 1]
/-- The die of a logical core (R13). -/
def coreDie (n : Nat) : Nat := n / 64

/-! Routes (R19) -/

/-- The compute dies of a row from one column to another, both included. -/
def rowWalk (row c t : Nat) : List Nat :=
  (List.range ((if c ≤ t then t - c else c - t) + 1)).map fun k => row * 4 + (if c ≤ t then c + k else c - k)

/-- The column beside which a hub die sits. -/
def hubCol (h : Nat) : Nat := if h = hubH0 then 0 else 3

/-- The dies that a transfer crosses, in order, its first and last included. -/
def meshRoute (a b : Nat) : List Nat :=
  if a = b then [a]
  else if hubH0 ≤ a ∧ hubH0 ≤ b then a :: rowWalk 0 (hubCol a) (hubCol b) ++ [b]
  else if hubH0 ≤ a then a :: rowWalk (dieRow b) (hubCol a) (dieCol b)
  else if hubH0 ≤ b then rowWalk (dieRow a) (dieCol a) (hubCol b) ++ [b]
  else rowWalk (dieRow a) (dieCol a) (dieCol b) ++ (if dieRow a = dieRow b then [] else [b])

/-- Die-to-die links that a route crosses. -/
def meshLinks (a b : Nat) : Nat := (meshRoute a b).length - 1

/-- Whether two dies are joined by one of the 14 links of R18: along a row, across between the rows, hub to compute. -/
def meshLink (a b : Nat) : Bool :=
  let one (a b : Nat) : Bool :=
    (decide (b < 8 ∧ a + 1 = b) && dieRow a == dieRow b) || decide (b < 8 ∧ a + 4 = b)
      || (b == hubH0 && (a == 0 || a == 4)) || (b == hubH1 && (a == 3 || a == 7))
  one a b || one b a

/-- Cycles from the issue of an increment between dies to the first cycle in which its target sees it (12 R289). -/
def signalLatency (a b : Nat) : Nat := 48 + 28 * meshLinks a b

end Sys2Proof.Machine
end

