-- ==== Sys2Proof/Machine/Ops.lean ====
section
/-!
DEFINITION. The named operations over the state: reading and writing each kind of unit, the dictionary's counters,
EMCY and pins, points in time, contexts and their clusters, cuts, sync counters, trace records, local memory.
-/

namespace Sys2Proof.Machine

/-- The outcome of a command. -/
abbrev Out := Host.Outcome State Fault Refusal

/-! What unlisted units read as -/
def coreD (_ : Nat) : Core := Core.init
def clusterD (_ : Nat) : Cluster := Cluster.init
def dieD (_ : Nat) : Die := Die.init
def ctxD (_ : Nat) : Ctx := Ctx.init
def portD (_ : Nat) : Port := Port.init
def chanD (_ : Nat) : Channel := Channel.init
def pageD (_ : Nat) : PageInfo := PageInfo.init
def hostQD (_ : Nat) : HostQ := HostQ.init
def barColD (_ : Nat) : BarrierCol := BarrierCol.init
def nat0 (_ : Nat) : Nat := 0
def false0 (_ : Nat) : Bool := false
def id0 (n : Nat) : Nat := n
def w32z (_ : Nat) : W32 := 0
def w48z (_ : Nat) : BitVec 48 := 0
def w64z (_ : Nat) : W64 := 0
def w128z (_ : Nat) : W128 := 0
def w512z (_ : Nat) : BitVec 512 := 0
def sched0 (_ : Nat) : EntryState := .done
def rank0 (_ : Nat) : BitVec 16 := 0

/-- Table 11-5: TC 2, HALT_ON_ERR 1, QCREDIT 16. -/
def bindingD (_ : Nat) : W128 := BitVec.ofNat 128 (2 * 2 ^ 106 + 2 ^ 101 + 16 * 2 ^ 89)
/-- Table 11-2: every candidate 0x3F. -/
def routeD (_ : Nat) : W32 := 0x00FFFFFF
/-- Table 11-10: PARENT 0xFFFF. -/
def groupD (_ : Nat) : BitVec 256 := BitVec.ofNat 256 (0xFFFF * 2 ^ 240)
/-- Table 12-3: GROUP 0xC000. -/
def barrierD (_ : Nat) : BitVec 512 := BitVec.ofNat 512 (0xC000 * 2 ^ 320)
/-- Table 10-2: REPLICA 0xFFFF. -/
def regionD (_ : Nat) : BitVec 256 := BitVec.ofNat 256 (0xFFFF * 2 ^ 240)

/-! Units -/
def State.getCore (s : State) (n : Nat) : Core := tblGet coreD s.cores n
def State.setCore (s : State) (n : Nat) (c : Core) : State := { s with cores := tblSet coreD s.cores n c }
def State.modCore (s : State) (n : Nat) (f : Core → Core) : State := s.setCore n (f (s.getCore n))
def State.getCluster (s : State) (n : Nat) : Cluster := tblGet clusterD s.clusters n
def State.setCluster (s : State) (n : Nat) (c : Cluster) : State := { s with clusters := tblSet clusterD s.clusters n c }
def State.modCluster (s : State) (n : Nat) (f : Cluster → Cluster) : State := s.setCluster n (f (s.getCluster n))
def State.getDie (s : State) (n : Nat) : Die := tblGet dieD s.dies n
def State.setDie (s : State) (n : Nat) (d : Die) : State := { s with dies := tblSet dieD s.dies n d }
def State.modDie (s : State) (n : Nat) (f : Die → Die) : State := s.setDie n (f (s.getDie n))
def State.getCtx (s : State) (n : Nat) : Ctx := tblGet ctxD s.ctxs n
def State.setCtx (s : State) (n : Nat) (c : Ctx) : State := { s with ctxs := tblSet ctxD s.ctxs n c }
def State.modCtx (s : State) (n : Nat) (f : Ctx → Ctx) : State := s.setCtx n (f (s.getCtx n))
def State.getPort (s : State) (n : Nat) : Port := tblGet portD s.ports n
def State.setPort (s : State) (n : Nat) (p : Port) : State := { s with ports := tblSet portD s.ports n p }
def State.getPage (s : State) (n : Nat) : PageInfo := tblGet pageD s.long.page n
def State.setPage (s : State) (n : Nat) (p : PageInfo) : State :=
  { s with long := { s.long with page := tblSet pageD s.long.page n p } }
def State.getChan (s : State) (n : Nat) : Channel := tblGet chanD s.obs.chan n
def State.setChan (s : State) (n : Nat) (c : Channel) : State :=
  { s with obs := { s.obs with chan := tblSet chanD s.obs.chan n c } }
def State.getQ (s : State) (n : Nat) : HostQ := tblGet hostQD s.host.queues n
def State.setQ (s : State) (n : Nat) (q : HostQ) : State :=
  { s with host := { s.host with queues := tblSet hostQD s.host.queues n q } }
def State.binding (s : State) (q : Nat) : W128 := tblGet bindingD s.bindings q
def State.route (s : State) (m : Nat) : W32 := tblGet routeD s.routes m
def State.group (s : State) (g : Nat) : BitVec 256 := tblGet groupD s.groups g
def State.barrier (s : State) (b : Nat) : BitVec 512 := tblGet barrierD s.barriers b
def State.setBarrier (s : State) (b : Nat) (w : BitVec 512) : State := { s with barriers := tblSet barrierD s.barriers b w }
def State.barCollect (s : State) (b : Nat) : BarrierCol := tblGet barColD s.barCol b
def State.setBarCollect (s : State) (b : Nat) (c : BarrierCol) : State := { s with barCol := tblSet barColD s.barCol b c }
def State.region (s : State) (r : Nat) : BitVec 256 := tblGet regionD s.long.region r
def State.watch (s : State) (w : Nat) : BitVec 512 := tblGet w512z s.obs.watch w
def State.setWatch (s : State) (w : Nat) (v : BitVec 512) : State :=
  { s with obs := { s.obs with watch := tblSet w512z s.obs.watch w v } }
def State.window (s : State) (w : Nat) : W128 := tblGet w128z s.obs.window w
/-- A word of a structure written through BAR0 and not yet in effect (20 R448), by its control offset; a word that has not
been written since the structure last took effect is open (log 38). -/
def State.word (s : State) (off : Nat) : W64 :=
  match s.host.words.find? fun e => e.1 == off with
  | some e => e.2
  | none => Config.freeWord2 s.freeCtr off

/-- Answers a status to the command's issuer (log 14). -/
def State.status (s : State) (st : Nat) : State :=
  { s with resp := { status := BitVec.ofNat 8 st, abort := 0, data := [] } }
/-- Answers a status and data. -/
def State.answer (s : State) (st : Nat) (d : List Byte) : State :=
  { s with resp := { status := BitVec.ofNat 8 st, abort := 0, data := d } }

/-! The dictionary's stored words -/
def odKey (index sub : Nat) : Nat := index * 256 + sub
def State.od (s : State) (index sub : Nat) : Nat := (tblGet odReset s.dict.od (odKey index sub)).toNat
def State.setOd (s : State) (index sub v : Nat) : State :=
  { s with dict := { s.dict with od := tblSet odReset s.dict.od (odKey index sub) (BitVec.ofNat 64 v) } }

/-- What an unwritten tensor setting reads as, by (tensor × 2 + group) × 256 + sub; group 0 is 2B01h, group 1 2C01h. -/
def tensorReset (k : Nat) : W64 := odReset (odKey (if k / 256 % 2 = 0 then 0x2B01 else 0x2C01) (k % 256))
def tensorKey (group tid sub : Nat) : Nat := (tid * 2 + group) * 256 + sub
/-- A tensor's setting in force in a context. -/
def Ctx.setting (x : Ctx) (group tid sub : Nat) : Nat := (tblGet tensorReset x.settings (tensorKey group tid sub)).toNat

/-- Bits of an entry's type. -/
def odWidth (key : Nat) : Nat :=
  match odFind key with
  | some e => 8 * odBytes e.ty
  | none => 64

/-- Adds to a counter of the dictionary; what it reads past its width is open (log 13). -/
def State.addOd (s : State) (index sub n : Nat) : State :=
  let w := odWidth (odKey index sub)
  let v := s.od index sub
  if v + n < 2 ^ w then s.setOd index sub (v + n)
  else s.setOd index sub (Config.counterOverflow (odKey index sub) v % 2 ^ w)

/-- Ends a dictionary access with an abort code and data; aborts are counted (18 Table 18-6). -/
def State.endAccess (s : State) (ab : Nat) (d : List Byte) : State :=
  let s1 : State := { s with resp := { status := 0, abort := BitVec.ofNat 32 ab, data := d } }
  if ab = 0 then s1 else s1.addOd 0x2001 0xD 1

/-- Ends a dictionary write; an accepted one completes once a standby has acknowledged it (18 R423). -/
def State.abort (s : State) (ab : Nat) : State :=
  let s1 := s.endAccess ab []
  if ab = 0 ∧ s.dict.standby ∧ s.dict.controller = 0 then { s1 with dict := { s1.dict with mirror := s1.dict.mirror + 1 } }
  else s1

/-- Subtracts from a pool count, not below zero. -/
def State.subOd (s : State) (index sub n : Nat) : State := s.setOd index sub (s.od index sub - n)

/-- The module's own ID (18 Table 18-6). -/
def State.moduleId (s : State) : Nat := s.od 0x2000 7
def State.collimate (s : State) : Bool := s.od 0x2700 1 != 0

/-! Time -/
def lin (p : Nat × Nat) : Nat := p.1 * 1250 + p.2
def State.now (s : State) : Nat × Nat := (s.time.sweep, s.time.tick)

/-- Cycles of the running tick: 18, and more in the last tick of a sweep that a requested re-phase may lengthen
(02 R43). By how much is not stated: the model takes half a sweep as the bound (DESIGN CHOICE, log 117). -/
def State.tickLength (s : State) : Nat := if s.time.tick = 1249 ∧ s.time.rephaseReq then 18 + 11250 else 18

/-- The cycle within the running tick: open, since cycles are not modelled (log 3), and never before a cycle of the
tick that has been shown already (02 R35). -/
def State.tickCycle (s : State) : Nat :=
  let c := min s.time.shownCc (s.tickLength - 1)
  c + (Config.freeWord s.freeCtr).toNat % (s.tickLength - c)

/-- The cycle within the sweep (SRD code 0x01). -/
def State.cycle (s : State) : Nat := s.time.tick * 18 + s.tickCycle

/-- The epoch cycle count (SRD code 0x02). -/
def State.epochCc (s : State) : Nat := s.time.sweep * 22500 + s.cycle

/-- A new cycle is drawn, not before the one shown. -/
def State.draw (s : State) : State :=
  { s with freeCtr := s.freeCtr + 1, time := { s.time with shownCc := s.tickCycle } }

/-- Whether a request may name this point (02 R40, R48, 03 R81). -/
def State.pointStatus (s : State) (p : Nat × Nat) : Nat :=
  if !s.time.held || decide (p.2 > 1249) then stAccess
  else if lin p < lin s.now + 2 then stWindow else stOk

/-- True when a scheduled point has come; the tick does not end before its events have taken effect (log 2). -/
def State.reached (s : State) (p : Nat × Nat) : Bool := s.time.held && decide (lin p ≤ lin s.now)

/-! Bus messages, EMCY and pins (18 R412, R413, R421) -/

/-- Whether bus `b` carries messages: enabled, node-ID not 0 (18 R409). -/
def State.busOn (s : State) (b : Nat) : Bool := s.power.nodeId != 0 && (s.od 0x2001 7).testBit b

def State.bus (s : State) (b : Nat) : Bus := if b = 0 then s.dict.busA else s.dict.busB
def State.setBus (s : State) (b : Nat) (v : Bus) : State :=
  if b = 0 then { s with dict := { s.dict with busA := v } } else { s with dict := { s.dict with busB := v } }

/-- What an unwritten EVENT_MAP reads as: 0xFF in every byte (log 4). -/
def eventMapD (_ : Nat) : W64 := BitVec.ofNat 64 (2 ^ 64 - 1)

/-- An event of a context that EVENT_MAP gives a vector waits for the next boundary (20 R455). -/
def State.msixEvent (s : State) (c k : Nat) : State :=
  let b := fld (tblGet eventMapD s.host.eventMap c) (8 * k + 7) (8 * k)
  let v := 128 * c + b
  if b = 0xFF ∨ s.host.msixPend.contains v then s else { s with host := { s.host with msixPend := s.host.msixPend ++ [v] } }

/-- Whether the virtual function of a context is enabled: enabling has no row, and its first access shows it (log 49). -/
def State.vfEnabled (s : State) (c : Nat) : Bool := s.host.vfOn.getLsbD c

/-- What an unwritten MSI-X entry reads as: masked (log 52). Keys: the physical table, then 128 entries a virtual function. -/
def msixD (_ : Nat) : W128 := BitVec.ofNat 128 (2 ^ 96)

/-- The table entry through which a vector is delivered. -/
def State.msixEntry (s : State) (v : Nat) : W128 :=
  tblGet msixD s.host.msixTable (if s.vfEnabled (v / 128) then 2048 + v else v)

/-- A vector whose boundary has come, that the sweep has not signalled yet, and that no mask holds. -/
def State.vectorDue (s : State) (v : Nat) : Bool :=
  s.host.msixReady.contains v && !s.host.msixSent.contains v && !flag (s.msixEntry v) 96

/-- Whether a bus takes messages: enabled, and Operational or Pre-operational (18 R411). -/
def State.busTakes (s : State) (b : Nat) : Bool := s.busOn b && ((s.bus b).nmt == 5 || (s.bus b).nmt == 127)

/-- Queues a message behind the CAN transmit limit (18 R413): a full queue drops it, an EMCY message with its count; a message
that finds no token in the bucket is one that the limit holds (19 R442; log 43). -/
def State.canQueue (s : State) (b : Nat) (m : CanMsg) : State :=
  if ¬ s.busTakes b then s
  else if (s.bus b).queue.length ≥ 64 then (if m.kind = 1 then s.addOd 0x2001 9 1 else s)
  else
    let s1 := if (s.bus b).bucket = 0 then s.addOd 0x2110 8 1 else s
    s1.setBus b { s1.bus b with queue := (s1.bus b).queue ++ [m] }

/-- An EMCY message: into 1003h newest first, and on every enabled bus (18 R421). -/
def State.emcy (s : State) (code detail : Nat) : State :=
  let m : CanMsg := ⟨1, 0x80 + s.power.nodeId.toNat,
    leBytes 2 code ++ leBytes 1 s.dict.errReg.toNat ++ leBytes 8 (detail % 2 ^ 64)⟩
  let s1 := { s with dict := { s.dict with history := (BitVec.ofNat 16 code :: s.dict.history).take 16 } }
  s.host.eventMap.foldl (fun s e => s.msixEvent e.1 6) ((s1.canQueue 0 m).canQueue 1 m)

/-- A condition of the error register begins. -/
def State.errOn (s : State) (b : Nat) : State := { s with dict := { s.dict with errReg := errWith s.dict.errReg b true } }

/-- A condition clears; when the register changes, code 0000h is sent (18 R421). -/
def State.errOff (s : State) (b : Nat) : State :=
  let r := errWith s.dict.errReg b false
  if r = s.dict.errReg then s else ({ s with dict := { s.dict with errReg := r } } : State).emcy 0 0

def State.alertOn (s : State) (c : Nat) : State :=
  if s.power.alerts.contains c then s else { s with power := { s.power with alerts := s.power.alerts ++ [c] } }
def State.alertOff (s : State) (c : Nat) : State :=
  { s with power := { s.power with alerts := s.power.alerts.filter fun x => x != c } }

/-! Contexts (14 Table 14-2) -/
def Ctx.state (c : Ctx) : Nat := fld c.desc 343 342
def Ctx.setState (c : Ctx) (v : Nat) : Ctx := { c with desc := setFld c.desc 343 342 v }
def Ctx.clusters (c : Ctx) : Nat := fld c.desc 511 448
def Ctx.role (c : Ctx) : Nat := fld c.desc 349 348
def Ctx.version (c : Ctx) : Nat := fld c.desc 383 352
def Ctx.seed (c : Ctx) : W64 := BitVec.ofNat 64 (fld c.desc 447 384)
def Ctx.active (c : Ctx) : Bool := c.state == 1

/-- The context that owns a logical cluster (01 R21); a created context that is not ABSENT. -/
def State.ctxOfCluster (s : State) (n : Nat) : Option Nat :=
  (List.range 16).find? fun c => (s.getCtx c).state != 0 && (s.getCtx c).clusters.testBit n
def State.ctxOfCore (s : State) (n : Nat) : Option Nat := s.ctxOfCluster (n / 8)

/-- The logical clusters and cores of a context, ascending; an ABSENT context has released its clusters (14 R313). -/
def State.clustersOf (s : State) (c : Nat) : List Nat :=
  if (s.getCtx c).state = 0 then [] else bitsOf (s.getCtx c).clusters 64
def State.coresOf (s : State) (c : Nat) : List Nat := (s.clustersOf c).flatMap fun k => (List.range 8).map fun i => k * 8 + i

/-- Applies a change to every core of a context. -/
def State.eachCore (s : State) (c : Nat) (f : Core → Core) : State := (s.coresOf c).foldl (fun s n => s.modCore n f) s

/-- The contexts that are ACTIVE, as a mask. -/
def State.activeMask (s : State) : Nat := ((List.range 16).filter fun c => (s.getCtx c).active).foldl (fun m c => m + 2 ^ c) 0

/-- Whether a cut that has come, and is not yet carried out, keeps a context's event at a point from taking effect
(02 R50). -/
def State.cutCovers (s : State) (c : Nat) (p : Nat × Nat) : Bool :=
  s.cuts.any fun k => k.contexts.getLsbD c && decide (k.boundary ≤ s.time.boundaries
    ∧ (s.time.sweep + k.boundary - s.time.boundaries) * 1250 ≤ lin p)

/-- Schedules a Shutter cut of contexts at the next sweep boundary (15 R353). -/
def State.cutNext (s : State) (mask reason : Nat) : State :=
  if mask % 2 ^ 16 = 0 then s
  else { s with cuts := s.cuts ++ [⟨s.time.boundaries + 1, BitVec.ofNat 16 mask, reason⟩] }

def State.cutCtx (s : State) (c : Option Nat) (reason : Nat) : State :=
  match c with
  | some c => s.cutNext (2 ^ c) reason
  | none => s

/-- The weight version that a context uses (03 Table 03-4, code 0x07). -/
def State.versionOf (s : State) (c : Nat) : Nat := (s.getCtx c).version

/-- Counts one event in a context's sync bank (12 Table 12-2). -/
def State.countSync (s : State) (c : Option Nat) (k : Nat) : State :=
  match c with
  | some c => s.modCtx c fun x => { x with syncCounts := tblUpd w32z x.syncCounts k (fun v => BitVec.ofNat 32 (satAdd 32 v.toNat 1)) }
  | none => s

/-- A dump after the drain of the context's cut (12 R297); the first reason stands. -/
def State.dumpAfter (s : State) (c : Option Nat) (reason core ctr : Nat) : State :=
  match c with
  | some c => s.modCtx c fun x => match x.dumpDue with
    | none => { x with dumpDue := some (reason, core, ctr) }
    | some _ => x
  | none => s

/-! Sync counters (12 R281 to R286) -/
def Core.ctrVal (c : Core) (k : Nat) : Nat := (tblGet w32z c.ctr k).toNat
def Core.setCtr (c : Core) (k v : Nat) : Core := { c with ctr := tblSet w32z c.ctr k (BitVec.ofNat 32 v) }

/-- Latches a pending wait whose counter has reached its threshold (12 R286). -/
def Core.latchWait (c : Core) : Core :=
  match c.wait with
  | some w => if c.ctrVal w.ctr ≥ w.threshold then { c with wait := some { w with met := true } } else c
  | none => c

/-- Adds to a counter within a cycle, saturating (12 R284). -/
def State.ctrRaise (s : State) (core k n : Nat) : State :=
  let c := s.getCore core
  let v := c.ctrVal k + n
  if v < 2 ^ 32 then s.setCore core (c.setCtr k v)
  else
    (s.setCore core { c.setCtr k (2 ^ 32 - 1) with sat := c.sat ||| BitVec.ofNat 48 (2 ^ k) }).countSync (s.ctxOfCore core) 3

/-- Adds to a counter in a cycle of its own. -/
def State.ctrAdd (s : State) (core k n : Nat) : State := (s.ctrRaise core k n).modCore core Core.latchWait

/-- Subtracts from a counter a count that has been waited for (12 R282). -/
def State.ctrSub (s : State) (core k n : Nat) : State :=
  let c := s.getCore core
  s.setCore core (c.setCtr k (c.ctrVal k - n))

/-- The CTR increment of a completed operation; 0x3F names none (03 Table 03-5). -/
def State.ctrDone (s : State) (core k : Nat) : State := if k < 48 then s.ctrAdd core k 1 else s

/-! Core counters (17 Table 17-1), by offset in the bank -/
def Core.count (c : Core) (off n : Nat) : Core :=
  { c with counts := tblUpd w48z c.counts off (fun v => v + BitVec.ofNat 48 n) }

/-! Local memory (01 Table 01-6, 03 R58) -/

/-- Whether [a, a+n) lies in one range of Table 01-6. -/
def localOk (a n : Nat) : Bool :=
  decide (a + n ≤ 0x100000) || decide (0x100000 ≤ a ∧ a + n ≤ 0x140000)
  || decide (0x1000000 ≤ a ∧ a + n ≤ 0x1400000) || decide (0x2000000 ≤ a ∧ a + n ≤ 0x2080000)

/-- Whether [a, a+n) lies in one range of R58. -/
def r58Ok (a n : Nat) : Bool := decide (a + n ≤ 0x100000) || decide (0x100000 ≤ a ∧ a + n ≤ 0x140000)

/-- The same for a signed address. -/
def r58OkZ (a : Int) (n : Nat) : Bool := decide (0 ≤ a) && r58Ok a.toNat n

/-- The store key of a local address: the stores of a cluster are shared by its cores (01 R28). -/
def storeKey (core a : Nat) : Nat := (if a < 0x1000000 then core else core / 8 * 8) * 2 ^ 32 + a

def State.rdLocal (s : State) (core a n : Nat) : List Byte := rdBytes s.stores (storeKey core a) n
def State.wrLocal (s : State) (core a : Nat) (d : List Byte) : State :=
  { s with stores := wrBytes s.stores (storeKey core a) d }

/-! The long range's bytes (10 R224) -/
def State.rdLong (s : State) (off n : Nat) : List Byte := rdBytes s.lr off n
def State.wrLong (s : State) (off : Nat) (d : List Byte) : State := { s with lr := wrBytes s.lr off d }
/-- The 32 sidecar bytes of the 512-byte tile at an offset: 128 tiles a page (10 R224). -/
def sideKey (off : Nat) : Nat := off / 65536 * 4096 + off % 65536 / 512 * 32
def State.rdSide (s : State) (off n : Nat) : List Byte := rdBytes s.side (sideKey off) n
def State.wrSide (s : State) (off : Nat) (d : List Byte) : State := { s with side := wrBytes s.side (sideKey off) d }

/-! Global addresses (01 Table 01-4) -/
def gaModule (a : W64) : Nat := fld a 63 48
def gaSpace (a : W64) : Nat := fld a 47 44
def gaOffset (a : W64) : Nat := fld a 43 0

/-! Trace (17 R379 to R385) -/
def Cluster.tState (c : Cluster) : Nat := fld c.traceBank 244 243
def Cluster.tMode (c : Cluster) : Nat := fld c.traceBank 246 245

/-- A SYNC record of the running sweep. -/
def syncWord (s : State) : W128 :=
  traceWord (s.moduleId % 2 ^ 16 * 2 ^ 64 + s.time.sweep % 2 ^ 64) 10 1 (s.time.sweep * 22500)

/-- Counts a record of a cluster as lost. -/
def State.traceLose (s : State) (n : Nat) : State :=
  (s.modCluster n fun c => { c with traceBank := setFld c.traceBank 319 288 (fld c.traceBank 319 288 + 1) }).addOd 0x2900 2 1

/-- One LOSS record that counts every record dropped since the last, and a SYNC, once the buffer has room for them (17 R385). -/
def State.lossRecord (s : State) (n : Nat) : State :=
  s.modCluster n fun c =>
    if c.tState = 2 ∧ c.traceBufLost ≠ 0 ∧ c.traceBuf.length + 2 ≤ 16384 then
      let r := traceWord (c.traceBufLost % 2 ^ 32 * 2 ^ 48 + c.lossTime.toNat * 2 ^ 16) 10 11 s.epochCc
      { c with traceBuf := c.traceBuf ++ [r, syncWord s], traceBufLost := 0, lossTime := 0 }
    else c

/-- Records into the buffer, or counts it dropped when the drain is behind (17 R385); in WAITING the buffer is a ring, and behind the STOP of
a full region every record is lost (R383). -/
def State.tracePush (s0 : State) (n : Nat) (r : W128) : State :=
  let s := s0.lossRecord n
  let c := s.getCluster n
  if c.tState = 1 then s.setCluster n { c with traceBuf := (c.traceBuf ++ [r]).drop (c.traceBuf.length + 1 - 16384) }
  else if c.tState = 2 then
    if c.traceBuf.length < 16384 ∧ c.traceBufLost = 0 then s.setCluster n { c with traceBuf := c.traceBuf ++ [r] }
    else
      (s.setCluster n { c with
        traceBufLost := c.traceBufLost + 1,
        lossTime := if c.traceBufLost = 0 then BitVec.ofNat 32 (fld r 31 0) else c.lossTime }).traceLose n
  else if c.tState = 3 ∧ fld c.traceBank 447 384 ≤ fld c.traceBank 383 320 then s.traceLose n
  else s

/-- A record of a kind in a cluster's buffer. -/
def State.trace (s : State) (cluster source kind payload : Nat) : State :=
  s.tracePush cluster (traceWord payload source kind s.epochCc)

/-- Writes waiting records into the trace region until it is full (17 R383); `host` regions show in `hostOut`. -/
def drainRecords : Nat → List W128 → BitVec 512 → List Byte → BitVec 512 × List Byte × Nat
  | 0, l, b, acc => (b, acc, l.length)
  | _, [], b, acc => (b, acc, 0)
  | n + 1, r :: l, b, acc =>
    let w := fld b 383 320
    let size := fld b 447 384
    if fld b 244 243 ≠ 2 then (b, acc, l.length + 1)
    else if size - w ≤ 16 then
      (setFld (setFld b 383 320 (w + 16)) 244 243 3, acc ++ leBytes 16 (traceWord 0 10 12 (fld r 31 0)).toNat, l.length + 1)
    else drainRecords n l (setFld b 383 320 (w + 16)) (acc ++ leBytes 16 r.toNat)

/-- A trigger source fires in the clusters of a list whose bank passes a test (17 R384). -/
def State.fireIn (s : State) (l : List Nat) (ctx src : Nat) (p : BitVec 512 → Bool) : State :=
  l.foldl (fun s n =>
    let c := s.getCluster n
    if c.tMode = 2 ∧ (fld c.traceBank 237 232).testBit src ∧ p c.traceBank then
      if c.tState = 1 then
        let t := s.epochCc % 2 ^ 32
        let kept := c.traceBuf.filter fun r => decide ((fld r 31 0 + 2 ^ 32 - t) % 2 ^ 32 < 2 ^ 31)
        ((s.setCluster n { c with
          traceBank := setFld c.traceBank 244 243 2,
          traceBuf := (syncWord s :: traceWord (src * 2 ^ 72) 10 10 t :: kept).take 16384 }).addOd 0x2900 3 1).msixEvent ctx 3
      else if c.tState = 2 then s.addOd 0x2900 4 1 else s
    else s) s

/-- A trigger source fires in the clusters of a context. -/
def State.fireTrigger (s : State) (ctx : Nat) (src : Nat) : State := s.fireIn (s.clustersOf ctx) ctx src fun _ => true

/-- A BREAK record in some clusters and LAST_BREAK_SWEEP for an event of 02 R53. -/
def State.breakIn (s : State) (kind : Nat) (clusters : List Nat) : State :=
  let p := kind * 2 ^ 76 + s.time.sweep % 2 ^ 64 * 2 ^ 12
  (clusters.foldl (fun s n => s.trace n 10 8 p) s).setOd 0x2200 0xD s.time.sweep

/-- The same in every cluster of some contexts. -/
def State.breakEvent (s : State) (kind : Nat) (ctxs : List Nat) : State := s.breakIn kind (ctxs.flatMap s.clustersOf)

/-! Frames (11 Tables 11-3, 11-4) -/

end Sys2Proof.Machine

namespace Sys2Proof

open Machine

def Frame.dest (f : Frame) : Nat := fld f.hdr 255 240
def Frame.src (f : Frame) : Nat := fld f.hdr 239 224
def Frame.sweep16 (f : Frame) : Nat := fld f.hdr 223 208
def Frame.msg (f : Frame) : Nat := fld f.hdr 207 160
def Frame.addr (f : Frame) : Nat := fld f.hdr 159 112
def Frame.total (f : Frame) : Nat := fld f.hdr 111 80
def Frame.foffset (f : Frame) : Nat := fld f.hdr 79 48
def Frame.flen (f : Frame) : Nat := fld f.hdr 47 35
def Frame.sigCore (f : Frame) : Nat := fld f.hdr 34 26
def Frame.sigCtr (f : Frame) : Nat := fld f.hdr 25 20
def Frame.kind (f : Frame) : Nat := fld f.hdr 19 16
def Frame.tc (f : Frame) : Nat := fld f.hdr 15 14
def Frame.hops (f : Frame) : Nat := fld f.hdr 13 11
def Frame.sig (f : Frame) : Bool := flag f.hdr 10
def Frame.packed (f : Frame) : Bool := flag f.hdr 9
def Frame.sidecar (f : Frame) : Bool := flag f.hdr 8
def Frame.fmt (f : Frame) : Nat := fld f.hdr 7 0

end Sys2Proof

namespace Sys2Proof.Machine

/-- What a frame carries besides its destination, kind and class. -/
structure FrameArgs where
  msg : Nat := 0
  addr : Nat := 0
  total : Nat := 0
  foffset : Nat := 0
  sigCore : Nat := 0
  sigCtr : Nat := 0
  sig : Bool := false
  packed : Bool := false
  sidecar : Bool := false
  fmt : Nat := 0

/-- A frame of this module (11 Table 11-3): SRC is its ID and SWEEP16 its sweep count (02 R54); while no count is held the
field is the 0 that SWEEP_COUNT reads as (DESIGN CHOICE, log 117). -/
def State.mkFrame (s : State) (dest kind tc : Nat) (a : FrameArgs) (payload : List Byte) : Frame :=
  { hdr := BitVec.ofNat 256 (dest % 2 ^ 16 * 2 ^ 240 + s.moduleId % 2 ^ 16 * 2 ^ 224 + s.time.sweep % 2 ^ 16 * 2 ^ 208
      + a.msg % 2 ^ 48 * 2 ^ 160 + a.addr % 2 ^ 48 * 2 ^ 112 + a.total % 2 ^ 32 * 2 ^ 80 + a.foffset % 2 ^ 32 * 2 ^ 48
      + payload.length % 2 ^ 13 * 2 ^ 35 + a.sigCore % 512 * 2 ^ 26 + a.sigCtr % 64 * 2 ^ 20 + kind % 16 * 2 ^ 16
      + tc % 4 * 2 ^ 14 + (if a.sig then 2 ^ 10 else 0) + (if a.packed then 2 ^ 9 else 0)
      + (if a.sidecar then 2 ^ 8 else 0) + a.fmt % 256),
    payload := payload }

/-- Queues a frame to leave towards a module; `q` is the queue whose credit it uses, 65,536 none; `die` is the die on
which it is formed (01 R470). -/
def State.sendVia (s : State) (f : Frame) (q hop : Nat) (die : Option Nat) : State :=
  { s with txq := s.txq ++ [⟨f, q, hop, die⟩] }
/-- The same along the route of its own destination. -/
def State.send (s : State) (f : Frame) (q die : Nat) : State := s.sendVia f q f.dest (some die)

/-! Where an access or a frame that no core issues is formed or delivered (01 R470, Table 01-9) -/

/-- The hub die of the active management controller. -/
def State.hubDie (s : State) : Nat := if s.dict.controller = 0 then hubH0 else hubH1

/-- The die that holds a control-space structure: a core's bank, a cluster's solver window and trace bank, a die's shard
and Prism windows; every other structure lies on H0. -/
def ctlDie (off : Nat) : Nat :=
  if 0x08000000 ≤ off ∧ off < 0x0C000000 then coreDie ((off - 0x08000000) / 0x20000)
  else if 0x0C000000 ≤ off ∧ off < 0x0C040000 then (off - 0x0C000000) / 0x1000 / 8
  else if 0x0D000000 ≤ off ∧ off < 0x0D010000 then (off - 0x0D000000) % 0x8000 / 0x1000
  else if 0x0FB00000 ≤ off ∧ off < 0x0FB01000 then (off - 0x0FB00000) / 0x40 / 8
  else hubH0

/-- The home die of a page: the AFFINITY of its region (10 R232); C0 where no region holds it (DESIGN CHOICE, log 119). -/
def State.pageHome (s : State) (p : Nat) : Nat :=
  match s.long.region.find? fun e => flag e.2 148 && decide (fld e.2 207 180 ≤ p ∧ p < fld e.2 207 180 + fld e.2 179 152) with
  | some (_, r) => fld r 151 149
  | none => 0

/-- The die that serves an access at a space and offset. -/
def State.accessDie (s : State) (addr : Nat) : Nat :=
  let off := addr % 2 ^ 44
  if addr / 2 ^ 44 = 0 then s.pageHome (off / 65536)
  else if addr / 2 ^ 44 = 1 then coreDie (off / 2 ^ 32 % 512)
  else if addr / 2 ^ 44 = 2 then ctlDie off
  else hubH0

/-- The die to which a received frame is delivered, and on which its answer is formed. -/
def State.frameDie (s : State) (f : Frame) : Nat :=
  if f.kind = 7 ∨ f.kind = 8 ∨ f.kind = 9 then hubH0
  else if f.kind = 10 then s.hubDie
  else s.accessDie f.addr

/-- The ACK (KIND 0x5) or NACK (KIND 0x6) of a frame, with a status in FMT (11 R276). -/
def State.replyFrame (s : State) (f : Frame) (dest kind st : Nat) : Frame :=
  s.mkFrame dest kind f.tc
    { msg := f.msg, addr := f.addr, total := f.total, foffset := f.foffset, sigCore := f.sigCore, sigCtr := f.sigCtr,
      sig := f.sig, fmt := st } []

/-- Answers a frame to its source. -/
def State.reply (s : State) (f : Frame) (kind st : Nat) : State :=
  s.send (s.replyFrame f f.src kind st) 65536 (s.frameDie f)

/-- Discards a frame and counts it in 2510h sub 0Ah. -/
def State.discard (s : State) : State := s.addOd 0x2510 0xA 1

/-- A sweep from its 16-bit field (02 R54); none outside the window. -/
def State.fullSweep (s : State) (f : Nat) : Option Nat :=
  let local_ := s.time.sweep
  let diff := (f + 2 ^ 16 - local_ % 2 ^ 16) % 2 ^ 16
  if diff = 0x8000 then none
  else if diff < 0x8000 then some (local_ + diff)
  else if 2 ^ 16 - diff > local_ then none else some (local_ - (2 ^ 16 - diff))

/-- The window check of 02 R55: a module that holds no count applies none. -/
def State.inWindow (s : State) (f : Frame) : Bool := !s.time.held || (s.fullSweep f.sweep16).isSome

/-- A frame outside the window: NACK with SWEEP_WINDOW, counted in COUNT_ERRORS (02 R55). -/
def State.outsideWindow (s : State) (f : Frame) : State := (s.reply f 6 stWindow).addOd 0x2200 8 1

/-- Quiescence (18 R405). -/
def State.quiescent (s : State) : Bool :=
  ((List.range 16).all fun c =>
    let x := s.getCtx c
    (x.state == 0 || x.state == 2 || (x.state == 1 && !x.stepRun))
      && fld x.switch 9 8 != 1 && x.startAt.isNone
      && x.schedState.all fun e => e.2 == .done)
    && (s.barriers.all fun b => fld b.2 245 243 == 0)
    && (s.clusters.all fun c => c.2.solverQ.isEmpty && c.2.solverRun.isNone)
    && (s.dies.all fun d => d.2.shardQ.isEmpty && d.2.prismQ.isEmpty && d.2.prismRun.isNone)
    && s.boot.updating.isNone

/-! Non-finite values and replay (06 R147, 05 R124) -/

/-- Records `n` detections of a source in a core. -/
def State.nonfinite (s : State) (core pc src : Nat) : Nat → State
  | 0 => s
  | n + 1 =>
    State.nonfinite
      (let s1 := s.modCore core fun c => { c with stepNf := stepNfAdd c.stepNf pc src }
       match s.ctxOfCore core with
       | some x => s1.modCtx x fun c => { c with nfSources := c.nfSources ||| BitVec.ofNat 8 (2 ^ (src - 1)) }
       | none => s1) core pc src n

/-- Marks a context's step for replay. -/
def State.markReplay (s : State) (c : Option Nat) : State :=
  match c with
  | some c => s.modCtx c fun x => { x with replayMark := true }
  | none => s

end Sys2Proof.Machine
end

