-- ==== Sys2Proof/Machine/RepairOps.lean ====
section
/-!
DEFINITION. Witness, residue and store-error events, retirement, the reserve pools and faults beyond reserves
(05 R124, 16 R361 to R365, R371, R372).
-/

namespace Sys2Proof.Machine

/-- The physical unit number of a logical core: (die × 9 + physical cluster) × 9 + physical core (01 R14, log 18). -/
def State.physCore (s : State) (n : Nat) : Nat :=
  let d := n / 64
  (d * 9 + tblGet id0 (s.getDie d).clusterMap (n / 8 % 8)) * 9 + tblGet id0 (s.getCluster (n / 8)).coreMap (n % 8)

/-- The physical unit number of a logical cluster: die × 9 + physical cluster. -/
def State.physCluster (s : State) (k : Nat) : Nat := k / 8 * 9 + tblGet id0 (s.getDie (k / 8)).clusterMap (k % 8)

/-- A REPAIR record in a cluster and trigger source 2 of its context (17 Table 17-4, R384). -/
def State.repairRecord (s : State) (cluster kind cls unit : Nat) : State :=
  let s1 := s.trace cluster 10 6 (repairWord kind cls unit s.time.sweep * 2 ^ 16)
  match s.ctxOfCluster cluster with
  | some c => s1.fireTrigger c 2
  | none => s1

/-- A repair took place: LAST_REPAIR, EMCY FF20h and its record (16 Table 16-5). -/
def State.repaired (s : State) (cluster kind cls unit : Nat) : State :=
  let w := repairWord kind cls unit s.time.sweep
  ((s.setOd 0x2300 0x10 w).emcy 0xFF20 w).repairRecord cluster kind cls unit

/-- The remaining and initial count of a pool of Table 16-1, numbered from 0 in the order of the table. -/
def State.poolLeft (s : State) (p : Nat) : Nat :=
  if p = 0 then s.od 0x2300 1
  else if p = 1 then s.od 0x2300 2 % 256
  else if p = 2 then s.od 0x2300 3
  else if p = 3 then s.od 0x2300 4
  else if p = 4 then s.od 0x2300 5
  else if p = 5 then 1 - s.od 0x2300 6
  else if p = 6 then s.od 0x2300 7
  else 1 - s.dict.controller

def poolInit (p : Nat) : Nat :=
  if p = 0 then 64 else if p = 1 then 8 else if p = 2 then 32 else if p = 3 then 262144 else if p = 4 then 65536
  else if p = 5 then 1 else if p = 6 then 8 else 1

/-- A pool at its maintenance threshold: below half, or any reserve cluster in service (16 R372). -/
def State.maintenance (s : State) (p : Nat) : State :=
  let m := s.od 0x2300 8
  if (2 * s.poolLeft p < poolInit p ∨ (p = 1 ∧ s.repair.dieReserve ≠ 0)) ∧ !m.testBit p then
    let m := m + 2 ^ p
    (((s.setOd 0x2300 8 m).errOn 7).emcy 0xFF21 m).alertOn alMaintenance
  else s

/-- The kind of LAST_REPAIR that names a pool's units (Table 16-7); pools of whole stacks and controllers have none. -/
def poolKind (p : Nat) : Nat :=
  if p = 0 then 1 else if p = 1 then 2 else if p = 2 then 3 else if p = 3 then 4 else if p = 4 then 5
  else if p = 6 then 6 else 0

/-- A fault beyond reserves: cut of every ACTIVE context with reason 8, UNABLE, EMCY FF22h, ALERT_N, and a REPAIR
record in the clusters of those contexts (16 R371, Table 16-5). -/
def State.beyondReserves (s : State) (pool unit : Nat) : State :=
  let s1 : State := { s with cuts := s.cuts ++ [⟨s.time.boundaries + 1, BitVec.ofNat 16 s.activeMask, cutReserves⟩] }
  let s2 := (((s1.setOd 0x2300 9 1).errOn 7).emcy 0xFF22 pool).alertOn alUnable
  ((bitsOf s.activeMask 16).flatMap s.clustersOf).foldl (fun s k => s.repairRecord k (poolKind pool) 0 unit) s2

/-- Replaces a logical cluster from the next boundary, or goes beyond reserves (16 R365). -/
def State.retireCluster (s : State) (k : Nat) (fault : Option Nat) : State :=
  let s := s.markReplay (s.ctxOfCluster k)
  if s.repair.remaps.any fun r => r.cluster && r.core / 8 == k then s
  else if s.repair.dieReserve.getLsbD (k / 8) || s.repair.remaps.any fun r => r.cluster && r.core / 64 == k / 8 then
    s.beyondReserves 1 (s.physCluster k)
  else
    { s with repair := { s.repair with
        remaps := s.repair.remaps ++ [⟨k * 8, true, s.time.boundaries + 1, fault⟩] } }

/-- Retires the physical core behind a logical core (16 R364). -/
def State.retireCore (s : State) (n : Nat) : State :=
  let s := s.markReplay (s.ctxOfCore n)
  if s.repair.remaps.any fun r => r.core == n && !r.cluster then s
  else if (s.getCluster (n / 8)).reserveUsed || s.repair.remaps.any fun r => r.core / 8 == n / 8 then
    s.retireCluster (n / 8) (some (s.physCore n))
  else
    { s with repair := { s.repair with
        remaps := s.repair.remaps ++ [⟨n, false, s.time.boundaries + 1, some (s.physCore n)⟩] } }

/-- A witness or residue event of a unit (05 R124, 16 R361, R363, R364): the record names the physical unit, and where it has them
the engine, the slot and the instruction index; `key` names the unit in the history of events, and `retire` retires it. -/
def State.unitEvent (s : State) (key cluster unit : Nat) (residue : Bool) (at_ : EventPlace) (retire : State → State) : State :=
  let ctx := s.ctxOfCluster cluster
  let step := match ctx with
    | some c => (s.getCtx c).stepNo.toNat
    | none => 0
  let s1 := (s.addOd 0x2300 (if residue then 0xB else 0xA) 1).repairRecord cluster 1 0 unit
  let own := ctx.getD 16
  let inReplay := s.repair.firstEvent.contains ⟨key, own, step, true⟩
  let evs := (key, s.time.boundaries) :: s.repair.events
  let recent := (evs.filter fun e => e.1 == key && decide (s.time.boundaries < e.2 + s.od 0x2300 0x12)).length
  let s2 : State := { s1 with repair := { s1.repair with
    events := evs,
    eventLog := s.repair.eventLog ++ [⟨key, residue, at_, s.time.sweep⟩],
    firstEvent := if s.repair.firstEvent.any fun e => e.unit == key && e.ctx == own && e.step == step then s.repair.firstEvent
      else ⟨key, own, step, false⟩ :: s.repair.firstEvent } }
  let s3 := s2.markReplay ctx
  if inReplay || decide (recent ≥ s.od 0x2300 0x11) then retire s3 else s3

/-- An event of the physical core behind a logical core. -/
def State.coreEvent (s : State) (n : Nat) (residue : Bool) (at_ : EventPlace) : State :=
  s.unitEvent (s.physCore n) (n / 8) (s.physCore n) residue at_ fun s => s.retireCore n

/-- An event of a cluster's solver engine or update sequencer (16 R365). -/
def State.clusterEvent (s : State) (k : Nat) (residue : Bool) : State :=
  s.unitEvent (648 + s.physCluster k) k (s.physCluster k) residue ⟨none, none, none⟩ fun s => s.retireCluster k none

/-- A corrected error of a store (16 R362). -/
def State.storeCorrected (s : State) : State :=
  let w := s.od 0x2300 0xC
  s.setOd 0x2300 0xC (w / 65536 * 65536 + satAdd 16 (w % 65536) 1)

/-- The poison pattern of 16 R362 for 64 bytes. -/
def poison64 : List Byte := (List.range 16).flatMap fun _ => leBytes 4 0x7FC00000

/-- An uncorrectable error of a store (16 R362). -/
def State.storeUncorrectable (s : State) (core a : Nat) : State :=
  let w := s.od 0x2300 0xC
  let s1 := s.setOd 0x2300 0xC (satAdd 16 (w / 65536) 1 * 65536 + w % 65536)
  let s2 := s1.wrLocal core (a / 64 * 64) poison64
  if a < 0x1000000 then s2.retireCore core else s2.retireCluster (core / 8) none

/-- What the code of the stores found as a core's instruction read them (16 Table 16-2). -/
def State.hwEvent (s : State) (core : Nat) : HwEvent → State
  | .ok => s
  | .cubeFault _ _ => s
  | .witness _ => s
  | .residue => s
  | .storeCorrected => s.storeCorrected
  | .storeUncorrectable a => if localOk a.toNat 1 then s.storeUncorrectable core a.toNat else s
  | .memCorrected _ _ => s
  | .memUncorrectable _ => s
  | .memRow _ => s
  | .memChannel _ _ => s

/-- The same at the vector engine, whose results a residue checks (16 R361). -/
def State.vecEvent (s : State) (core : Nat) (hw : HwEvent) : State :=
  if hw = .residue then
    let c := s.getCore core
    s.coreEvent core true ⟨none, none, some (c.pc + c.pos)⟩
  else s.hwEvent core hw

end Sys2Proof.Machine
end

