-- ==== Sys2Proof/Machine/Access.lean ====
section
/-!
DEFINITION. Who may reach the control space (11 R268, 20 R445), and the common end of a structure write (00 R7).
-/

namespace Sys2Proof.Machine

/-- The mark that `resp` carries for an Unsupported Request of the host link (20 R448; log 14). -/
def urStatus : Nat := 0xF0

/-- Whether a module is on the TC3 allow-list (20 Table 20-2). -/
def State.allowed (s : State) (id : Nat) : Bool := tblGet false0 s.host.allow id

/-- The status that a control-space access of this origin meets before any check of the structure: another module
only by TC3 from the allow-list; a virtual function reaches no control space. -/
def State.originStatus (s : State) : Origin → Nat
  | .core _ => stOk
  | .firmware => stOk
  | .host => stOk
  | .vf _ => urStatus
  | .remote id => if s.allowed id.toNat then stOk else stDenied

/-- Counts an enforcement of the DMA, fabric or CAN limits (19 R442). -/
def State.denial (s : State) : State := s.addOd 0x2110 8 1

/-- Refuses an access: nothing changes but the status, and the count of an Aperture refusal. -/
def State.refuse (s : State) (o : Origin) (st : Nat) : State :=
  match o with
  | .remote _ => if st = stDenied then s.denial.status st else s.status st
  | _ => s.status st

/-- A write of a structure: origin, then the structure's own check, then its effect. -/
def State.structWrite (s : State) (o : Origin) (check : Nat) (effect : State → State) : State :=
  let st := s.originStatus o
  if st ≠ stOk then s.refuse o st
  else if check ≠ stOk then s.status check
  else (effect s).status stOk

/-! TDI states of the virtual functions (20 R457): 0 CONFIG_UNLOCKED, 1 CONFIG_LOCKED, 2 RUN, 3 ERROR -/

/-- The TDI state of the virtual function that serves a context. -/
def State.tdi (s : State) (c : Nat) : Nat := tblGet nat0 s.host.tdi c

/-- Whether the function's configuration is frozen. -/
def State.frozen (s : State) (c : Nat) : Bool := s.tdi c == 1 || s.tdi c == 2

/-- The TDI enters ERROR, and its context is cut as an FLR cuts it. -/
def State.tdiError (s : State) (c : Nat) : State :=
  ({ s with host := { s.host with tdi := tblSet nat0 s.host.tdi c 3 } } : State).cutNext (2 ^ c) cutRegister

/-- A write of a CTX_DESC by the physical function while the context's TDI freezes it: dropped, and ERROR. -/
def State.descWriteBy (s : State) (o : Origin) (c : Nat) (go : State) : State :=
  if o = .host ∧ s.frozen c then (s.tdiError c).status stDenied else go

/-- A core's origin is refused with APERTURE_DENIED (15 R353, 18 R414). -/
def originIsCore : Origin → Bool
  | .core _ => true
  | _ => false

end Sys2Proof.Machine
end

