-- ==== Sys2Proof/Machine/DictOps.lean ====
section
/-!
DEFINITION. Answers to dictionary accesses on their paths, and the frame of the rows that stand for a write of one entry with a
behaviour of its own (18 R401, R402, R414, R415, Table 18-4).
-/

namespace Sys2Proof.Machine

/-- OP of the response (R415). -/
def respOp (op : Nat) : Nat := if op = 1 then 3 else if op = 2 then 4 else op

/-- The 16 bytes of a response, Table 18-4. -/
def respHeader (r : DictReq) (ab len : Nat) : List Byte :=
  leBytes 16 (r.tag.toNat * 2 ^ 96 + ab * 2 ^ 64 + r.index.toNat * 2 ^ 48 + r.sub.toNat * 2 ^ 40
    + respOp r.op.toNat * 2 ^ 32 + len % 2 ^ 16 * 2 ^ 16)

/-- The mailbox takes a response (R414). -/
def State.mailAnswer (s : State) (r : DictReq) (ab len : Nat) (d : List Byte) : State :=
  { s with dict := { s.dict with
      mbReq := BitVec.ofNat 128 (leNat (respHeader r ab len)), mbData := wrBytes s.dict.mbData 0 d,
      mbBusy := false, mbDone := true } }

/-- A USDO response on a bus, which ends its session (R412; log 44). -/
def State.usdoAnswer (s : State) (bus : Nat) (r : DictReq) (ab len : Nat) (d : List Byte) : State :=
  let s1 := s.setBus bus { s.bus bus with session := none }
  s1.canQueue bus ⟨3, 0x580 + s.power.nodeId.toNat, respHeader r ab len ++ d⟩

/-- A MGMT response to the module that asked (R415; log 25). -/
def State.mgmtAnswer (s : State) (r : DictReq) (ab len : Nat) (d : List Byte) : State :=
  let body := respHeader r ab len ++ d
  s.send (s.mkFrame r.src.toNat 0xA 3 { msg := 508 * 2 ^ 39 + r.tag.toNat, total := body.length } body) 65536 s.hubDie

/-- Answers a request on the path that it came by. -/
def State.respond (s : State) (r : DictReq) (ab len : Nat) (d : List Byte) : State :=
  if r.path = 0 then s.mailAnswer r ab len d
  else if r.path = 3 then s.mgmtAnswer r ab len d
  else s.usdoAnswer (r.path.toNat - 1) r ab len d

/-- The key of a request's entry. -/
def reqKey (r : DictReq) : Nat := r.index.toNat * 256 + r.sub.toNat

/-- The request at the front of the queue, when a controller serves it: one is active, and no handover runs (R402, R424,
19 R435). -/
def State.served (s : State) : Option DictReq :=
  if s.dict.controller < 2 ∧ s.boot.handover.isNone then s.dict.queue.head? else none

/-- REQUESTS of 2001h: [63:32] mailbox, [31:0] fabric (Table 18-6). -/
def State.countRequest (s : State) (r : DictReq) : State :=
  let v := s.od 0x2001 0xB
  let part := if r.path = 0 then v / 2 ^ 32 else v % 2 ^ 32
  let n := if part + 1 < 2 ^ 32 then part + 1 else Config.counterOverflow 0x20010B v % 2 ^ 32
  if r.path = 0 then s.setOd 0x2001 0xB (n * 2 ^ 32 + v % 2 ^ 32)
  else if r.path = 3 then s.setOd 0x2001 0xB (v / 2 ^ 32 * 2 ^ 32 + n)
  else s

/-- Takes the front request off the queue. -/
def State.takeRequest (s : State) : State := { s with dict := { s.dict with queue := s.dict.queue.tail } }

/-- Answers the front request with what an access left in `resp`. -/
def State.finish (s : State) (r : DictReq) (len : Nat) : State :=
  (s.takeRequest.countRequest r).respond r s.resp.abort.toNat len s.resp.data

/-- Whether a request writes a value of `n` bytes to an entry. -/
def reqWrites (r : DictReq) (key n v : Nat) : Bool :=
  r.op == 2 && r.rsv == 0 && reqKey r == key && decide (r.length.toNat = n) && leNat (r.data.take n) == v

/-- In RECOVERY the boot ROM serves 2000h, 2020h and 2030h alone (19 R429). -/
def State.indexServed (s : State) (index : Nat) : Bool :=
  !s.boot.recovery || index == 0x2000 || index == 0x2020 || index == 0x2030

/-- A row that is the write of one entry: when the front request is that write, the row applies and answers it; otherwise the row is
the write itself, and its answer stands in `resp` (logs 14, 16). -/
def State.ownRow (s : State) (key n v : Nat) (effect : State → State) : State :=
  let s1 := if s.indexServed (key / 256) then effect s else s.abort abNoIndex
  match s.served with
  | some r => if reqWrites r key n v then s1.finish r 0 else s1
  | none => s1

end Sys2Proof.Machine
end

