-- ==== Sys2Proof/Machine/Operands.lean ====
section
/-!
DEFINITION. Operand forms: registers of an instruction, tile descriptors (03 R62, R63), formats and tile layouts
(04 R85, 05 Table 05-2), tensor-scale records (04 Table 04-2), decoding (04 R86, R87, R101) and conversion of
values into tiles (04 R92, R101, R102, R472).
-/

namespace Sys2Proof.Machine

/-! Registers of an instruction: 0x00 to 0x1F s, 0x20 to 0x2F a, 0x30 to 0x3F t (03 R61) -/
def isS (r : BitVec 6) : Bool := decide (r.toNat < 0x20)
def isA (r : BitVec 6) : Bool := decide (0x20 ≤ r.toNat ∧ r.toNat < 0x30)
def isT (r : BitVec 6) : Bool := decide (0x30 ≤ r.toNat)

/-- Registers as they stood before the group (03 R64). -/
def Core.rdS (c : Core) (r : BitVec 6) : W64 := tblGet w64z c.snapS r.toNat
def Core.rdA (c : Core) (r : BitVec 6) : W64 := tblGet w64z c.snapA (r.toNat - 0x20)
def Core.rdT (c : Core) (r : BitVec 6) : W128 := tblGet w128z c.snapT (r.toNat - 0x30)
def Core.wrS (c : Core) (r : Nat) (v : W64) : Core := { c with sreg := tblSet w64z c.sreg r v }
def Core.wrA (c : Core) (r : BitVec 6) (v : W64) : Core := { c with areg := tblSet w64z c.areg (r.toNat - 0x20) v }
def Core.wrT (c : Core) (r : BitVec 6) (v : W128) : Core := { c with treg := tblSet w128z c.treg (r.toNat - 0x30) v }

/-! Tile descriptors (03 Table 03-3) -/
def dFmt (d : W128) : Nat := fld d 127 120
def dScaled (d : W128) : Bool := flag d 119
def dWrap (d : W128) : Nat := fld d 111 96
def dIndex (d : W128) : Nat := fld d 95 80
def dStride (d : W128) : Int := sextN 32 (fld d 63 32)
def dBase (d : W128) : Nat := fld d 31 0
/-- Reserved bits of a descriptor are zero. -/
def dReservedOk (d : W128) : Bool := fld d 118 112 == 0 && fld d 79 64 == 0
/-- BASE and STRIDE are multiples of 32 (03 R63). -/
def dAligned (d : W128) : Bool := dBase d % 32 == 0 && fld d 63 32 % 32 == 0
/-- The address of the tile at a position of the walk (03 R62). -/
def dAddrAt (d : W128) (index : Nat) : Int := (dBase d : Int) + (index : Int) * dStride d
def dAddr (d : W128) : Int := dAddrAt d (dIndex d)
/-- The address of the tensor-scale record (04 R88). -/
def dRec (d : W128) : Int := (dBase d : Int) - 32

/-- INDEX after one step (03 R62). -/
def nextIndex (wrap index : Nat) : Nat :=
  let n := (index + 1) % 65536
  if wrap ≠ 0 ∧ n = wrap then 0 else n

/-- INDEX after `k` steps. -/
def stepIndex (wrap : Nat) : Nat → Nat → Nat
  | 0, i => i
  | k + 1, i => stepIndex wrap k (nextIndex wrap i)

/-- A live descriptor register advanced by `k` steps (03 R64). -/
def Core.advance (c : Core) (r : BitVec 6) (k : Nat) : Core :=
  let d := tblGet w128z c.treg (r.toNat - 0x30)
  c.wrT r (setFld d 95 80 (stepIndex (dWrap d) k (dIndex d)))

/-! Formats (04 Table 04-1, 05 Table 05-2) -/

/-- The element format of a code 0x01 to 0x0A. -/
def elemFmt (code : Nat) : FFmt :=
  if code = 1 then fp32 else if code = 2 then bf16 else if code = 3 then fp16
  else if code = 4 ∨ code = 6 then e4m3 else if code = 5 ∨ code = 7 then e5m2
  else if code = 8 then e2m3 else if code = 9 then e3m2 else e2m1

/-- MX formats, whose descriptors are SCALED (04 R88). -/
def isMx (code : Nat) : Bool := decide (6 ≤ code ∧ code ≤ 10)
/-- Formats a tile may have. -/
def tileFmt (code : Nat) : Bool := decide (1 ≤ code ∧ code ≤ 0xB)
/-- Elements of a line. -/
def lineElems (code : Nat) : Nat := if code ≤ 3 ∨ code = 0xB then 16 else if code = 0xA then 64 else 32
/-- Bytes of a line. -/
def lineBytes (code : Nat) : Nat :=
  if code = 1 then 64 else if code = 0xB then 128 else if code = 8 ∨ code = 9 then 24 else 32
/-- Footprint of a tile. -/
def footprint (code : Nat) : Nat :=
  if code = 1 then 1024 else if code = 0xB then 2048 else if isMx code then 544 else 512

/-! Elements and lines (04 R85, 05 R112) -/
def chunks {α : Type} (n : Nat) : Nat → List α → List (List α)
  | 0, _ => []
  | k + 1, l => l.take n :: chunks n k (l.drop n)

def unpack16 : List Byte → List Nat
  | a :: b :: r => (a.toNat + 256 * b.toNat) :: unpack16 r
  | _ => []
def unpack32 : List Byte → List Nat
  | a :: b :: c :: d :: r => leNat [a, b, c, d] :: unpack32 r
  | _ => []
def unpack6 : List Byte → List Nat
  | a :: b :: c :: r =>
    let w := leNat [a, b, c]
    w % 64 :: w / 64 % 64 :: w / 4096 % 64 :: w / 262144 % 64 :: unpack6 r
  | _ => []
def unpack4 : List Byte → List Nat
  | a :: r => a.toNat % 16 :: a.toNat / 16 :: unpack4 r
  | _ => []
def pack6 : List Nat → List Byte
  | a :: b :: c :: d :: r => leBytes 3 (a % 64 + b % 64 * 64 + c % 64 * 4096 + d % 64 * 262144) ++ pack6 r
  | _ => []
def pack4 : List Nat → List Byte
  | a :: b :: r => BitVec.ofNat 8 (a % 16 + b % 16 * 16) :: pack4 r
  | _ => []

/-- Patterns of the elements of a run of bytes; a doublet gives hi and lo as two FP32 patterns. -/
def unpackBytes (code : Nat) (l : List Byte) : List Nat :=
  if code = 1 ∨ code = 0xB then unpack32 l
  else if code = 2 ∨ code = 3 then unpack16 l
  else if code = 8 ∨ code = 9 then unpack6 l
  else if code = 0xA then unpack4 l else l.map BitVec.toNat

/-- Bytes of patterns. -/
def packBytes (code : Nat) (l : List Nat) : List Byte :=
  if code = 1 ∨ code = 0xB then l.flatMap (leBytes 4)
  else if code = 2 ∨ code = 3 then l.flatMap (leBytes 2)
  else if code = 8 ∨ code = 9 then pack6 l
  else if code = 0xA then pack4 l else l.map (BitVec.ofNat 8)

/-- The 16 lines of a tile's patterns, for a footprint of bytes. -/
def tileLines (code : Nat) (l : List Byte) : List (List Nat) :=
  (chunks (lineBytes code) 16 l).map (unpackBytes code)

/-- The block scale bytes of line `i`: one per 32 elements (05 R114). -/
def lineScales (code i : Nat) (l : List Byte) : List Nat :=
  let sc := l.drop 512
  if code = 0xA then [((sc.drop (2 * i)).headD 0).toNat, ((sc.drop (2 * i + 1)).headD 0).toNat]
  else [((sc.drop i).headD 0).toNat]

/-- An element with its block scale, as the cubes use it (04 R86, R90, 05 R110). -/
def scaledElem (code e pat : Nat) : FVal :=
  if e = 0xFF then .nan else FV.scale ((e : Int) - 127) (decodeF (elemFmt code) pat)

/-- The values of a line as the cubes use them. -/
def lineVals (code i : Nat) (l : List Byte) (pats : List Nat) : List FVal :=
  if isMx code then
    match lineScales code i l with
    | [e0, e1] => (pats.take 32).map (scaledElem code e0) ++ (pats.drop 32).map (scaledElem code e1)
    | e0 :: _ => pats.map (scaledElem code e0)
    | [] => []
  else pats.map (decodeF (elemFmt code))

def tileVals (code : Nat) (l : List Byte) : List (List FVal) :=
  (List.range 16).zip (tileLines code l) |>.map fun p => lineVals code p.1 l p.2

/-- A tile decoded into FP32: MX values are T × 2^(E−127) × e rounded once (04 R87, R101); others exactly. -/
def tileDecode (code : Nat) (t : FVal) (l : List Byte) : List (List W32) :=
  (tileVals code l).map fun r => r.map fun v => rne32 (if isMx code then FV.mul t v else v)

/-- Doublet lines as pairs. -/
def pairs : List Nat → List (W32 × W32)
  | a :: b :: r => (BitVec.ofNat 32 a, BitVec.ofNat 32 b) :: pairs r
  | _ => []
def tileDoublets (l : List Byte) : List (List (W32 × W32)) := (tileLines 0xB l).map pairs

/-! Tensor-scale records (04 Table 04-2) -/
structure Rec where
  ctrBase : W64
  rmode : Nat
  tensorId : W32
  nonfinite : Nat
  amax : W32
  inGain : W32
  tscale : W32
  reservedOk : Bool
  deriving DecidableEq, Repr

/-- The record of a descriptor, read at its address. -/
def State.rdRec (s : State) (core : Nat) (d : W128) : Rec :=
  let w := BitVec.ofNat 256 (leNat (s.rdLocal core (dRec d).toNat 32))
  { ctrBase := BitVec.ofNat 64 (fld w 255 192), rmode := fld w 161 160, tensorId := BitVec.ofNat 32 (fld w 159 128),
    nonfinite := fld w 127 96, amax := BitVec.ofNat 32 (fld w 95 64), inGain := BitVec.ofNat 32 (fld w 63 32),
    tscale := BitVec.ofNat 32 (fld w 31 0), reservedOk := fld w 191 162 == 0 && decide (fld w 161 160 < 2) }

/-- Writes NONFINITE and STAGED_AMAX of a record (04 R472). -/
def State.wrRec (s : State) (core : Nat) (d : W128) (r : Rec) : State :=
  s.wrLocal core ((dRec d).toNat + 8) (leBytes 4 r.amax.toNat ++ leBytes 4 r.nonfinite)

/-- Adds to NONFINITE, saturating. -/
def Rec.addNf (r : Rec) (n : Nat) : Rec := { r with nonfinite := satAdd 32 r.nonfinite n }
/-- Raises STAGED_AMAX to a finite magnitude. -/
def Rec.raise (r : Rec) (m : W32) : Rec := if lt32 r.amax m then { r with amax := m } else r

/-! Conversion (04 R92, R101, R102) -/

/-- How the elements of one tile round: nearest even, or stochastically with the source of R102. -/
structure Rounding where
  stoch : Bool
  seed : W64
  tensorId : W32
  base : W64        -- CTR_BASE + INDEX × 1,024
  deriving DecidableEq, Repr

def Rounding.mode (r : Rounding) (p : Nat) : RMode :=
  elemMode r.stoch r.seed r.tensorId (r.base + BitVec.ofNat 64 p)

def nearest : Rounding := ⟨false, 0, 0, 0⟩

/-- The rounding of a walk's record at a position (R102). -/
def recRounding (stoch : Bool) (seed : W64) (r : Rec) (index : Nat) : Rounding :=
  ⟨stoch, seed, r.tensorId, r.ctrBase + BitVec.ofNat 64 (index * 1024)⟩

/-- One MX block: its scale, its elements, what NONFINITE counts and what STAGED_AMAX is raised to (R92). -/
structure MxBlock where
  scale : Nat
  elems : List Nat
  nf : Nat
  amax : W32
  deriving DecidableEq, Repr

def nonfiniteBlock (m : Nat) (n : Nat) : MxBlock := ⟨0xFF, List.replicate n 0, m, 0⟩

/-- sig(a) > sig(b) for positive finite values. -/
def sigGt (a b : FVal) : Bool :=
  match a, b with
  | .fin _ m _, .fin _ n _ => decide (m * 2 ^ n.log2 > n * 2 ^ m.log2)
  | _, _ => false

/-- Converts a block of FP32 values into an MX format with tensor scale `t`; `p0` is the position of its first
element in the tile (R92). -/
def mxBlock (code : Nat) (t : W32) (rd : Rounding) (p0 : Nat) (v : List W32) : MxBlock :=
  let f := elemFmt code
  let nf := (v.filter nf32).length
  let tv := v32 t
  let tOk := !nf32 t && FV.lt (.fin false 0 0) tv
  if ¬ tOk then nonfiniteBlock v.length v.length
  else if nf > 0 then nonfiniteBlock nf v.length
  else
    let amax := v.foldl (fun m x => max32 m (abs32 x)) 0
    if zero32 amax then ⟨0x7F, List.replicate v.length 0, 0, 0⟩
    else
      let y := divRu32 amax t
      if nf32 y then nonfiniteBlock v.length v.length
      else
        let fm := decodeF f f.maxMag
        let k0 := FV.expo (v32 y) - FV.expo fm
        let k1 := if sigGt (v32 y) fm then k0 + 1 else k0
        if k1 > 127 then nonfiniteBlock v.length v.length
        else
          let k := max k1 (-127)
          ⟨(k + 127).toNat,
           ((List.range v.length).zip v).map fun px =>
             divF f (rd.mode (p0 + px.1)) (v32 px.2) (FV.scale k tv),
           0, amax⟩

/-- A converted tile: its bytes, what NONFINITE counts, the maximum for STAGED_AMAX, and how many non-finite
detections it makes. -/
structure TileOut where
  bytes : List Byte
  nf : Nat
  amax : W32
  deriving DecidableEq, Repr

/-- 16 lines of FP32 values into an MX tile (05 R112 to R114). -/
def mxTile (code : Nat) (t : W32) (rd : Rounding) (lines : List (List W32)) : TileOut :=
  let n := lineElems code
  let blocks := ((List.range 16).zip lines).map fun il =>
    if code = 0xA then [mxBlock code t rd (il.1 * n) (il.2.take 32), mxBlock code t rd (il.1 * n + 32) (il.2.drop 32)]
    else [mxBlock code t rd (il.1 * n) il.2]
  let payload := blocks.flatMap fun bs => packBytes code (bs.flatMap MxBlock.elems)
  let scales := blocks.flatMap fun bs => bs.map fun b => BitVec.ofNat 8 b.scale
  ⟨payload ++ zeroBytes (512 - payload.length) ++ scales ++ zeroBytes (32 - scales.length),
   (blocks.flatMap id).foldl (fun a b => a + b.nf) 0,
   (blocks.flatMap id).foldl (fun m b => max32 m b.amax) 0⟩

/-- 16 lines of FP32 values into a tile of any other format but doublet (R101, R472). -/
def plainTile (code : Nat) (rd : Rounding) (lines : List (List W32)) : TileOut :=
  let vs := lines.flatMap id
  let pats := ((List.range vs.length).zip vs).map fun pv =>
    encodeF (elemFmt code) (if code = 1 then .rne else rd.mode pv.1) (v32 pv.2)
  ⟨packBytes code pats, (vs.filter nf32).length,
   vs.foldl (fun m x => if nf32 x then m else max32 m (abs32 x)) 0⟩

/-- FP32 values into a tile of a format 0x01 to 0x0A. -/
def convTile (code : Nat) (t : W32) (rd : Rounding) (lines : List (List W32)) : TileOut :=
  if isMx code then mxTile code t rd lines else plainTile code rd lines

/-- Doublet pairs into a doublet tile; R472 counts their hi parts. `fl` flushes subnormal parts, as the matrix engines' drain stage
does (R98, Table 04-8 item 2). -/
def doubletTile (fl : W32 → W32) (ps : List (W32 × W32)) : TileOut :=
  let norm (p : W32 × W32) : W32 × W32 :=
    let q := if zero32 p.2 then (rne32 (v32 p.1), 0) else dblOfVal (dblVal p.1 p.2)
    (fl q.1, fl q.2)
  ⟨ps.flatMap fun p => leBytes 4 (norm p).1.toNat ++ leBytes 4 (norm p).2.toNat,
   (ps.filter fun p => nf32 p.1).length,
   ps.foldl (fun m p => if nf32 p.1 then m else max32 m (abs32 p.1)) 0⟩

end Sys2Proof.Machine
end

