-- ==== Sys2Proof/WellFormed.lean ====
section
/-!
DEFINITION. Which commands are well formed: the shapes that the rule of a row gives its operands. An instruction row does
nothing with an instruction of another CLASS or OP, a frame row nothing with a frame of another KIND or length (log 1).
-/

namespace Sys2Proof

open Machine

/-- A frame: at most 4,096 bytes of payload, as many as its header's FLEN says (11 R251, Table 11-3). -/
def Frame.wf (f : Frame) : Bool := decide (f.payload.length ≤ 4096) && decide (f.payload.length = fld f.hdr 47 35)

/-- The transfer classes of frames by KIND (11 Table 11-4). -/
def Frame.hasKind (f : Frame) (k : Nat) : Bool := f.wf && decide (fld f.hdr 19 16 = k)

/-- An instruction that an arm of a class and operation stands for (03 Table 03-6). -/
def Insn.isOp (i : Insn) (cls op : Nat) : Bool := decide (i.cls.toNat = cls) && decide (i.op.toNat = op)

/-- Well-formed commands. -/
def Instr.wf : Instr → Bool
  | .sysrefReturn _ => true
  | .beacon f cc => f.hasKind 7 && decide (cc < 22500)
  | .probe f cc => f.hasKind 8 && decide (cc < 22500)
  | .put f _ _ => f.hasKind 0
  | .getReq f _ => f.hasKind 1
  | .getData f => f.hasKind 2
  | .addFrame f _ => f.hasKind 3
  | .signal f _ => f.hasKind 4
  | .ack f => f.hasKind 5
  | .nack f => f.hasKind 6
  | .barrierArrive f => f.hasKind 9
  | .barrierComplete f => f.hasKind 9
  | .mgmt f => f.hasKind 10
  | .reservedKindDiscard f => f.wf && decide (11 ≤ fld f.hdr 19 16)
  | .frameForward f _ => f.wf
  | .add _ i => i.isOp 0 1
  | .sub _ i => i.isOp 0 2
  | .mul _ i => i.isOp 0 3
  | .and_ _ i => i.isOp 0 4
  | .or_ _ i => i.isOp 0 5
  | .xor_ _ i => i.isOp 0 6
  | .shl _ i => i.isOp 0 7
  | .shr _ i => i.isOp 0 8
  | .sra _ i => i.isOp 0 9
  | .cmplt _ i => i.isOp 0 0xA
  | .cmpeq _ i => i.isOp 0 0xB
  | .movi _ i => i.isOp 0 0x10
  | .lds _ i _ => i.isOp 0 0x11
  | .sts _ i => i.isOp 0 0x12
  | .srd _ i => i.isOp 0 0x13
  | .tld _ i _ => i.isOp 0 0x14
  | .tst _ i => i.isOp 0 0x15
  | .amov _ i => i.isOp 0 0x16
  | .br _ i => i.isOp 0 0x20
  | .brnz _ i => i.isOp 0 0x21
  | .loop _ i => i.isOp 0 0x22
  | .halt _ i => i.isOp 0 0x2F
  | .mma _ i _ => i.isOp 1 1
  | .mmaT _ i _ => i.isOp 1 2
  | .mmaD _ i _ => i.isOp 1 3
  | .drain _ i _ => i.isOp 1 8
  | .tap _ i => i.isOp 1 9
  | .vadd _ i _ => i.isOp 2 1
  | .vsub _ i _ => i.isOp 2 2
  | .vmul _ i _ => i.isOp 2 3
  | .vfma _ i _ => i.isOp 2 4
  | .vmax _ i _ => i.isOp 2 5
  | .vmin _ i _ => i.isOp 2 6
  | .vabsmax _ i _ => i.isOp 2 7
  | .vsum _ i _ => i.isOp 2 8
  | .vcvt _ i _ => i.isOp 2 0x10
  | .vexp _ i _ => i.isOp 2 0x20
  | .vlog _ i _ => i.isOp 2 0x21
  | .vrsqrt _ i _ => i.isOp 2 0x22
  | .vrcp _ i _ => i.isOp 2 0x23
  | .xput _ i => i.isOp 3 1
  | .xget _ i => i.isOp 3 2
  | .xadd _ i => i.isOp 3 3
  | .xsig _ i => i.isOp 3 4
  | .xfence _ i => i.isOp 3 5
  | .syncInc _ i => i.isOp 4 1
  | .syncDec _ i => i.isOp 4 2
  | .syncWait _ i => i.isOp 4 3
  | .mark _ i => i.isOp 5 1
  | .loupe _ i => i.isOp 5 2
  | .counterApply _ c => decide (c.ctr.toNat < 48)
  | .startupStage stage _ _ _ _ _ => decide (1 ≤ stage ∧ stage ≤ 10)
  | .sqTailDoorbell _ _ _ es _ => decide (es.length ≤ 65536)
  | .registerWrite _ _ _ d _ => decide (d.length ≤ 0x10000000)
  | .bar2Read _ _ n _ => decide (n.of ≤ 4096)
  | .bar2Write _ _ d _ => decide (d.length ≤ 4096)
  | .mailboxGo _ w => decide (fld w 63 3 = 0)
  | .usdoRequest _ r => decide (r.data.length ≤ 256)
  | _ => true

end Sys2Proof
end

