-- ==== Sys2Proof/Machine/Issue.lean ====
section
/-!
DEFINITION. The scalar sequencer: issue groups and lanes (03 R67, R68), the whole-group check with the causes of
Table 03-10 (R79), the waits that keep a group from issuing (R68, R77, 07 R156, 08 R171), and what happens after a
group: branches, loops and HALT (R69, R81).
-/

namespace Sys2Proof.Machine

end Sys2Proof.Machine

namespace Sys2Proof

open Machine

/-! Fields of instructions -/
def Insn.clsN (i : Insn) : Nat := i.cls.toNat
def Insn.opN (i : Insn) : Nat := i.op.toNat
def Insn.fmtN (i : Insn) : Nat := i.fmt.toNat
def Insn.engine (i : Insn) : Nat := i.dst.toNat / 32
def Insn.slot (i : Insn) : Nat := i.dst.toNat % 8
def Insn.flagB (i : Insn) (b : Nat) : Bool := i.flags.getLsbD b
def Insn.deriv (i : Insn) : Nat := fld i.flags 7 3
def Insn.count (i : Insn) : Nat := fld i.imm 15 0
def Insn.ctrN (i : Insn) : Nat := i.ctr.toNat
def Insn.immN (i : Insn) : Nat := i.imm.toNat
def Insn.isMma (i : Insn) : Bool := i.clsN == 1 && decide (1 ≤ i.opN ∧ i.opN ≤ 3)
def Insn.isTap (i : Insn) : Bool := i.clsN == 1 && i.opN == 9
def Insn.isVecArith (i : Insn) : Bool := decide (1 ≤ i.opN ∧ i.opN ≤ 6)
def Insn.isVecFunc (i : Insn) : Bool := decide (0x20 ≤ i.opN ∧ i.opN ≤ 0x23)

/-- The lane an instruction takes (R67). -/
def Insn.lane (i : Insn) : Nat :=
  if i.clsN = 1 then (if i.opN = 9 then 3 else i.engine) else if i.clsN = 2 then 2 else 3

/-- Cycles from issue until an instruction is complete (Table 03-6); a vector instruction over n tiles ends n − 1 occupancies later
(log 122). -/
def Insn.latency (i : Insn) : Nat :=
  let o := i.opN
  match i.clsN with
  | 0 => if o = 3 then 3 else if o = 0x11 ∨ o = 0x14 then 4 else 1
  | 1 =>
    if o = 3 then 150 else if o = 8 then (if i.fmtN = 0xB then 14 else 10)
    else if i.fmtN = 1 then 40 else if i.fmtN ≤ 3 then 12 else 14
  | 2 =>
    let more (occ : Nat) : Nat := (i.count - 1) * occ
    if o ≤ 6 ∨ o = 0x10 then 6 + more 2 else if o ≤ 8 then 8 + more 2 else 12 + more 4
  | 4 => 4
  | _ => 1

/-- The place of an instruction among the writers of one cycle: scalar sequencer, vector engine, matrix engines 0 and 1 (R60). -/
def Insn.rank (i : Insn) : Nat := if i.lane = 3 then 0 else if i.lane = 2 then 1 else 2 + i.lane

/-- Listed pairs of CLASS and OP (Table 03-6). -/
def Insn.listed (i : Insn) : Bool :=
  let o := i.opN
  match i.clsN with
  | 0 => decide ((1 ≤ o ∧ o ≤ 0xB) ∨ (0x10 ≤ o ∧ o ≤ 0x16) ∨ (0x20 ≤ o ∧ o ≤ 0x22) ∨ o = 0x2F)
  | 1 => decide ((1 ≤ o ∧ o ≤ 3) ∨ o = 8 ∨ o = 9)
  | 2 => decide ((1 ≤ o ∧ o ≤ 8) ∨ o = 0x10 ∨ (0x20 ≤ o ∧ o ≤ 0x23))
  | 3 => decide (1 ≤ o ∧ o ≤ 5)
  | 4 => decide (1 ≤ o ∧ o ≤ 3)
  | 5 => decide (1 ≤ o ∧ o ≤ 2)
  | _ => false

end Sys2Proof

namespace Sys2Proof.Machine

/-- What a field of an operation must be: of a kind, or zero because the operation does not use it (R66, R7). -/
inductive Use where
  | zero | s | a | t | sOrA | eng | any
  deriving DecidableEq, Repr

end Sys2Proof.Machine

namespace Sys2Proof

open Machine

/-- The uses of DST, SRC1, SRC2 and SRC3 (Table 03-6). -/
def Insn.uses (i : Insn) : Use × Use × Use × Use :=
  let o := i.opN
  match i.clsN with
  | 0 =>
    if o ≤ 0xB then (.s, .s, if i.flagB 0 then .zero else .s, .zero)
    else if o = 0x10 then (.sOrA, .zero, .zero, .zero)
    else if o = 0x11 then (.s, .s, .zero, .zero)
    else if o = 0x12 then (.zero, .s, .s, .zero)
    else if o = 0x13 then (.s, .zero, .zero, .zero)
    else if o = 0x14 then (.t, .s, .zero, .zero)
    else if o = 0x15 then (.zero, .s, .t, .zero)
    else if o = 0x16 then (.a, .s, .zero, .zero)
    else if o = 0x21 ∨ o = 0x22 then (.zero, .s, .zero, .zero)
    else (.zero, .zero, .zero, .zero)
  | 1 =>
    if o ≤ 3 then (.eng, .t, .t, .zero)
    else if o = 8 then
      (.eng, .t, if i.deriv ≠ 0 then .t else .zero, if i.deriv = 8 ∨ i.deriv = 0xA then .t else .zero)
    else (.any, .t, .zero, .zero)
  | 2 =>
    if o = 4 then (.t, .t, .t, .t)
    else if o ≤ 6 then (.t, .t, .t, .zero)
    else if o ≤ 8 then (.s, .t, .zero, .zero)
    else (.t, .t, .zero, .zero)
  | 3 =>
    if o ≤ 3 then (.zero, .a, .s, .zero)
    else if o = 4 then (.zero, .a, .zero, .zero)
    else (.zero, .zero, .zero, .zero)
  | 5 => if o = 2 then (.zero, .t, .zero, .zero) else (.zero, .zero, .zero, .zero)
  | _ => (.zero, .zero, .zero, .zero)

end Sys2Proof

namespace Sys2Proof.Machine

/-- The causes 0x02 and 0x0A of one register field. -/
def useCauses (u : Use) (r : BitVec 6) : List Nat :=
  match u with
  | .zero => if r = 0 then [] else [2]
  | .s => if isS r then [] else [0xA]
  | .a => if isA r then [] else [0xA]
  | .t => if isT r then [] else [0xA]
  | .sOrA => if isS r ∨ isA r then [] else [0xA]
  | .eng => if fld r 4 3 = 0 then [] else [2]
  | .any => []

end Sys2Proof.Machine

namespace Sys2Proof

open Machine

/-- Flags that an operation uses, as a mask over FLAGS (Table 03-7, Table 07-1). -/
def Insn.flagMask (i : Insn) : Nat :=
  match i.clsN with
  | 0 => if i.opN ≤ 0xB then 1 else 0
  | 1 => if i.opN ≤ 3 then 7 else if i.opN = 8 then 0xFF else 3
  | 2 => 7
  | 3 => if i.opN = 1 ∨ i.opN = 3 then 1 else 0
  | _ => 0

/-- Bits of IMM that an operation uses, as a mask. -/
def Insn.immMask (i : Insn) : Nat :=
  let o := i.opN
  let all := 2 ^ 64 - 1
  match i.clsN with
  | 0 => if o ≤ 0xB then (if i.flagB 0 then all else 0) else if o = 0x16 ∨ o = 0x2F then 0 else all
  | 1 => if o ≤ 3 then 0 else if o = 8 then (if i.flagB 2 then all else 0) else all - 0x3FF * 2 ^ 16
  | 2 => 0xFFFF
  | 3 =>
    if o = 4 ∨ ((o = 1 ∨ o = 3) ∧ i.flagB 0) then 2 ^ 54 - 1
    else if o = 5 then 0xFFFF * 2 ^ 32 else 2 ^ 48 - 1
  | 4 => if o = 3 then all else 2 ^ 32 - 1
  | _ => if o = 1 then 2 ^ 32 - 1 else 2 ^ 54 - 1

/-- Whether an operation takes a format code in FMT. -/
def Insn.usesFmt (i : Insn) : Bool :=
  match i.clsN with
  | 1 => true
  | 2 => i.isVecArith || i.isVecFunc
  | 3 => i.opN == 3
  | _ => false

/-- Causes 0x02 and 0x0A found in the word alone. -/
def Insn.wordCauses (i : Insn) : List Nat :=
  let (ud, u1, u2, u3) := i.uses
  useCauses ud i.dst ++ useCauses u1 i.src1 ++ useCauses u2 i.src2 ++ useCauses u3 i.src3
    ++ (if i.flags.toNat &&& i.flagMask = i.flags.toNat then [] else [2])
    ++ (if i.immN &&& i.immMask = i.immN then [] else [2])
    ++ (if i.usesFmt ∨ i.fmtN = 0 then [] else [2])
    ++ (if i.clsN = 2 ∧ fld i.flags 1 0 ≥ 2 then [2] else [])
    ++ (if i.clsN = 1 ∧ i.opN = 8 ∧ i.deriv ≥ 0xC then [2] else [])
    ++ (if i.isTap ∧ fld i.dst 4 0 ≠ 0 then [2] else [])
    ++ (if 48 ≤ i.ctrN ∧ (i.ctrN < 63 ∨ i.clsN = 4) then [0xA] else [])
    ++ (if i.clsN = 3 ∧ (i.opN = 4 ∨ ((i.opN = 1 ∨ i.opN = 3) ∧ i.flagB 0)) ∧ fld i.imm 53 48 ≥ 48 then [0xA] else [])

end Sys2Proof

namespace Sys2Proof.Machine

/-- Causes of a descriptor that an instruction uses: reserved bits, alignment, the SCALED rule of R88, the format. -/
def descCauses (d : W128) (fmtOk : Bool) : List Nat :=
  (if dReservedOk d then [] else [2]) ++ (if dAligned d then [] else [6])
    ++ (if tileFmt (dFmt d) && fmtOk && (dScaled d == isMx (dFmt d)) then [] else [9])

/-- Cause 0x04 of a footprint. -/
def rangeCauses (a : Int) (n : Nat) : List Nat := if r58OkZ a n then [] else [4]

/-- Causes of a record that must be read (04 R89). -/
def State.recCauses (s : State) (core : Nat) (d : W128) : List Nat :=
  if r58OkZ (dRec d) 32 then (if (s.rdRec core d).reservedOk then [] else [2]) else [4]

/-- Payload elements of an engine tile in a vector walk: 128 FP32, 64 doublets, otherwise 16 lines (03 R71). -/
def vecElems (code : Nat) : Nat := if code = 1 then 128 else if code = 0xB then 64 else 16 * lineElems code
/-- Bytes of such a tile. -/
def vecBytes (code : Nat) : Nat := if isMx code then 544 else 512

/-- Positions of `n` tiles of a walk. -/
def walk (d : W128) : Nat → Nat → List Int
  | 0, _ => []
  | n + 1, i => dAddrAt d i :: walk d n (nextIndex (dWrap d) i)

def walkCauses (d : W128) (n : Nat) : List Nat :=
  (walk d n (dIndex d)).flatMap fun a => rangeCauses a (vecBytes (dFmt d))

/-- Source tiles that a VCVT of `n` destination tiles reads (log 20). -/
def vcvtSrcTiles (dst src n : Nat) : Nat := cdiv (n * vecElems dst) (vecElems src)

/-- Formats that mix in an MMA's A and B (R72). -/
def mmaMix (a b : Nat) : Bool :=
  a == b || (decide (a = 4 ∨ a = 5) && decide (b = 4 ∨ b = 5)) || (decide (a = 6 ∨ a = 7) && decide (b = 6 ∨ b = 7))
    || (decide (a = 8 ∨ a = 9) && decide (b = 8 ∨ b = 9))

/-- The slots a DRAIN reads: the lowest slot and their number (05 R118). -/
def drainSlots (code slot : Nat) : Nat × Nat :=
  if code ≤ 3 then (slot, 1) else if code = 0xA then (slot / 4 * 4, 4) else (slot / 2 * 2, 2)

/-- Whether a slot of a DRAIN's group holds a SCALED product since INIT (04 R89). -/
def Core.drainScaled (c : Core) (i : Insn) : Bool :=
  let (g, n) := drainSlots i.fmtN i.slot
  (List.range n).any fun q => tblGet false0 c.accScaled (i.engine * 8 + g + q)

/-- Whether a DRAIN reads its destination's record (04 R89). -/
def Core.drainReadsRec (c : Core) (i : Insn) (d : W128) : Bool :=
  dScaled d || c.drainScaled i || (decide (2 ≤ i.fmtN ∧ i.fmtN ≤ 0xA)) || i.flagB 2

/-- Formats of a saved input (06 R132). -/
def savedFmt (code : Nat) : Bool := decide (1 ≤ code ∧ code ≤ 9)

/-- Causes of a saved-input descriptor of a DRAIN. -/
def State.savedCauses (s : State) (core : Nat) (d : W128) (cols : Nat) : List Nat :=
  descCauses d (savedFmt (dFmt d) && decide (cols ≤ lineElems (dFmt d)))
    ++ rangeCauses (dAddr d) (footprint (dFmt d)) ++ s.recCauses core d

/-- Token blocks of a micro-batch (07 R151). -/
def Ctx.tokenBlocks (x : Ctx) : Nat := fld x.stage 927 904 / 32
def Ctx.mbCount (x : Ctx) : Nat := fld x.stage 943 928

end Sys2Proof.Machine

namespace Sys2Proof

open Machine

/-- Fields of a TAP (07 Tables 07-1, 07-2). -/
def Insn.tapSide (i : Insn) : Bool := i.flagB 0
def Insn.tapPart (i : Insn) : Bool := i.flagB 1
def Insn.tapJ (i : Insn) : Nat := fld i.imm 63 45
def Insn.tapRow (i : Insn) : Nat := fld i.imm 44 29
def Insn.tapShift (i : Insn) : Nat := fld i.imm 28 26
def Insn.tapMb (i : Insn) : Nat := fld i.imm 15 0

end Sys2Proof

namespace Sys2Proof.Machine

/-- Whether a token block is sampled, and its ordinal k in the step (07 R151). -/
def tapSample (seed : W64) (tid : W32) (step : W64) (j0 m j sh : Nat) : Bool × Nat :=
  let q := j / 2 ^ sh
  let len := min (2 ^ sh) (j0 - q * 2 ^ sh)
  let key := seed ^^^ 0x5441500000000000#64 ^^^ mix64 step
  let o := srand key tid (BitVec.ofNat 64 (m * 2 ^ 20 + q)) % len
  let per := (j0 + 2 ^ sh - 1) / 2 ^ sh
  (j - q * 2 ^ sh == o, m * per + q)

/-- Taps of a tensor are on: TAP_ENABLE is set and its mode is not OFF (07 R150, R168). -/
def State.tapsOn (s : State) (x : Ctx) (tid : Nat) : Bool := s.od 0x2B00 1 != 0 && x.setting 0 tid 2 != 0

/-- The addresses of the tiles a TAP writes, by the sample it takes (07 R154, R155). -/
def State.tapTiles (s : State) (core : Nat) (i : Insn) (d : W128) : List Int :=
  let x := s.getCtx ((s.ctxOfCore core).getD 16)
  let (sampled, k) := tapSample x.seed (s.rdRec core d).tensorId x.stepNo x.tokenBlocks i.tapMb i.tapJ i.tapShift
  let hit := s.tapsOn x (s.rdRec core d).tensorId.toNat && sampled
  let at_ (r : Nat) : Int := (dBase d : Int) + (r : Int) * dStride d + (k * 544 : Nat)
  if ¬ hit then [] else if i.tapSide then [at_ i.tapRow]
  else if i.tapPart then [at_ i.tapRow, at_ (i.tapRow + 1)] else []

/-- Causes of an s register or of a descriptor register: none where the field is not of its kind, which is a cause of the word. -/
def Core.sCauses (c : Core) (r : BitVec 6) (f : W64 → List Nat) : List Nat := if isS r then f (c.rdS r) else []
def Core.tCauses (c : Core) (r : BitVec 6) (f : W128 → List Nat) : List Nat := if isT r then f (c.rdT r) else []

/-- Causes that need registers, descriptors and records. A scalar load or store reaches every range of R58, the reservoir among
them, although Table 03-1 lists only the core store at the scalar sequencer's port (log 123). -/
def State.operandCauses (s : State) (core : Nat) (c : Core) (i : Insn) : List Nat :=
  let o := i.opN
  match i.clsN with
  | 0 =>
    if o = 0x11 ∨ o = 0x12 then c.sCauses i.src1 fun v => rangeCauses (((v + i.imm).toNat : Nat) : Int) 8
    else if o = 0x14 ∨ o = 0x15 then c.sCauses i.src1 fun v => rangeCauses (((v + i.imm).toNat : Nat) : Int) 16
    else if o = 0x13 then (if i.immN > 7 then [1] else []) ++ (if i.immN = 0 ∧ i.dst = 31 then [0xA] else [])
    else if o = 0x22 then (if c.loops.length ≥ 4 then [0xB] else [])
    else []
  | 1 =>
    if o ≤ 3 then
      let want := if o = 3 then i.fmtN == 0xB else decide (1 ≤ i.fmtN ∧ i.fmtN ≤ 0xA)
      let tile (d : W128) : List Nat := rangeCauses (dAddr d) (footprint (dFmt d)) ++ (if dScaled d then s.recCauses core d else [])
      (if want then [] else [9]) ++ (if o = 3 ∧ i.slot % 2 = 1 then [5] else [])
        ++ (c.tCauses i.src1 fun d => descCauses d (dFmt d == i.fmtN) ++ tile d)
        ++ (c.tCauses i.src2 fun d => descCauses d (!isT i.src1 || mmaMix (dFmt (c.rdT i.src1)) (dFmt d)) ++ tile d)
    else if o = 8 then
      let (_, n) := drainSlots i.fmtN i.slot
      let cols := if i.fmtN = 0xB then 16 else 16 * n
      (c.tCauses i.src1 fun d =>
        let res := decide (0x100000 ≤ dAddr d ∧ dAddr d + (footprint (dFmt d) : Int) ≤ 0x140000)
        descCauses d (dFmt d == i.fmtN) ++ rangeCauses (dAddr d) (footprint (dFmt d))
          ++ (if c.drainReadsRec i d then s.recCauses core d else [])
          ++ (if i.flagB 0 ∧ ¬ (res ∧ dFmt d = 1) then [4] else []))
        ++ (if i.deriv ≠ 0 then
              (if i.fmtN = 0xB then [9] else []) ++ c.tCauses i.src2 fun d => s.savedCauses core d cols
            else [])
        ++ (if i.deriv = 8 ∨ i.deriv = 0xA then c.tCauses i.src3 fun d => s.savedCauses core d cols else [])
    else
      let x := s.getCtx ((s.ctxOfCore core).getD 16)
      (if i.fmtN = 6 ∨ i.fmtN = 7 then [] else [9]) ++ (if i.tapShift = 7 then [2] else [])
        ++ (if i.tapSide ∧ i.tapPart then [2] else [])
        ++ (if i.tapJ ≥ x.tokenBlocks ∨ i.tapMb ≥ x.mbCount then [2] else [])
        ++ (c.tCauses i.src1 fun d => descCauses d (dFmt d == i.fmtN) ++ s.recCauses core d
          ++ (s.tapTiles core i d).flatMap (fun a => rangeCauses a 544))
  | 2 =>
    let n := i.count
    let plain (d : W128) : List Nat := descCauses d (dFmt d == i.fmtN) ++ walkCauses d n
    let round1 (d : W128) : List Nat := if fld i.flags 1 0 = 1 ∧ n ≠ 0 then s.recCauses core d else []
    if i.isVecArith ∨ i.isVecFunc then
      (if i.fmtN = 1 ∨ i.fmtN = 2 then [] else [9])
        ++ (c.tCauses i.dst fun d => plain d ++ round1 d) ++ c.tCauses i.src1 plain
        ++ (if i.isVecArith then c.tCauses i.src2 plain else []) ++ (if i.opN = 4 then c.tCauses i.src3 plain else [])
    else if o = 0x10 then
      (c.tCauses i.dst fun d => descCauses d true ++ walkCauses d n
        ++ (if n ≠ 0 ∧ (dScaled d ∨ fld i.flags 1 0 = 1) then s.recCauses core d else []))
        ++ (c.tCauses i.src1 fun a => descCauses a true
          ++ c.tCauses i.dst (fun d => walkCauses a (vcvtSrcTiles (dFmt d) (dFmt a) n))
          ++ (if n ≠ 0 ∧ dScaled a then s.recCauses core a else []))
    else c.tCauses i.src1 fun a => descCauses a (decide (dFmt a = 1 ∨ dFmt a = 2)) ++ walkCauses a n
  | 3 =>
    let n := fld i.imm 31 0
    (if o ≤ 3 ∧ n ≠ 0 then c.sCauses i.src2 fun v => rangeCauses (v.toNat : Int) n else [])
      ++ (if o = 3 ∧ ¬ (i.fmtN = 1 ∨ i.fmtN = 2 ∨ i.fmtN = 0x10) then [9] else [])
  | 5 =>
    if o = 2 then
      c.tCauses i.src1 fun d => descCauses d true ++ rangeCauses (dAddr d) (footprint (dFmt d)) ++ s.recCauses core d
    else []
  | _ => []

/-- The causes that instruction number `k` of a group meets. -/
def State.causes (s : State) (core : Nat) (c : Core) (grp : List (Nat × Insn)) (k : Nat) (i : Insn) : List Nat :=
  if ¬ i.listed then [1]
  else
    let lanes := if (grp.take k).any fun j => j.2.lane == i.lane then [3] else []
    let tap := if i.isTap ∧ ¬ (grp.any fun j => j.2.isMma && j.2.engine == i.engine) then [3] else []
    i.wordCauses ++ lanes ++ tap ++ s.operandCauses core c i

/-- Least of a list of causes; 0 for none. -/
def leastCause : List Nat → Nat
  | [] => 0
  | [a] => a
  | a :: r => min a (leastCause r)

/-! Instruction memory and groups -/

/-- The instruction at an index of a core's instruction memory (R66). -/
def State.insnAt (s : State) (core k : Nat) : Insn :=
  decodeInsn (BitVec.ofNat 128 (leNat (rdImem s.imem (core * 65536 + k * 16) 16)))

/-- The group at an index: up to END; a fifth instruction shares a lane with another and stops the search. -/
def State.groupFrom (s : State) (core : Nat) : Nat → Nat → List (Nat × Insn)
  | 0, _ => []
  | n + 1, k =>
    if k > 4095 then []
    else
      let i := s.insnAt core k
      if i.last then [(k, i)] else (k, i) :: s.groupFrom core n (k + 1)

def State.groupAt (s : State) (core k : Nat) : List (Nat × Insn) := s.groupFrom core 5 k

/-- A group that reaches index 4,095 without END (R79). -/
def groupRunsOut (g : List (Nat × Insn)) : Bool :=
  match g.getLast? with
  | some (k, i) => k == 4095 && !i.last
  | none => true

/-- Whether an index is the first of a group (R69). -/
def State.groupStart (s : State) (core k : Nat) : Bool := k == 0 || (s.insnAt core (k - 1)).last

/-! Faults -/

/-- A fault is taken: the first is recorded and cuts the context, every later one is only traced (R79). -/
def State.takeFault (s : State) (core pc lane cause : Nat) : State :=
  let st := causeStatus cause
  let ctx := s.ctxOfCore core
  let s1 := s.trace (core / 8) (core % 8) 7 (cause * 2 ^ 72 + st * 2 ^ 64 + pc % 4096 * 2 ^ 52 + lane * 2 ^ 50)
  let s2 := match ctx with
    | some c => s1.fireTrigger c 1
    | none => s1
  if (s.getCore core).faulted then s2
  else
    let s3 := s2.modCore core fun c =>
      { c with faulted := true, faultInfo := faultInfoWord pc lane st cause, pos := 0, taken := none, loopNew := none }
    let s4 := s3.cutCtx ctx (if cause = 8 then cutSync else cutFault)
    if cause = 8 then (s4.countSync ctx 0) else s4

/-- The first instruction of a group that meets a cause: its index, lane and cause. -/
def State.groupFault (s : State) (core : Nat) (c : Core) (g : List (Nat × Insn)) : Option (Nat × Nat × Nat) :=
  ((List.range g.length).zip g).findSome? fun p =>
    let l := leastCause (s.causes core c g p.1 p.2.2)
    if l = 0 then none else some (p.2.1, p.2.2.lane, l)

/-! Waits before a group issues -/

/-- Operations of a core in flight (R77). -/
def State.inFlight (s : State) (core : Nat) : Nat := (s.ops.filter fun x => x.core == core && x.kind != .fence).length

/-- Tap writes that a TAP adds to its engine's path (07 R156). -/
def State.tapAdds (s : State) (core : Nat) (c : Core) (i : Insn) : Nat := (s.tapTiles core i (c.rdT i.src1)).length

/-- The cause of Table 17-2 that keeps a group waiting: 1 lent engine, 3 transfer limit, 4 tap write buffer. -/
def State.groupWait (s : State) (core : Nat) (c : Core) (g : List (Nat × Insn)) : Option Nat :=
  if g.any fun p => p.2.clsN == 1 && c.lent.getLsbD p.2.engine then some 1
  else if (g.any fun p => p.2.clsN == 3) && decide (s.inFlight core ≥ 2048) then some 3
  else if g.any fun p => p.2.isTap &&
      decide ((if p.2.engine = 0 then c.tapQ0 else c.tapQ1).length + s.tapAdds core c p.2 > 4) then some 4
  else none

/-- The first cause of Table 17-2 that keeps a running core from issuing now (17 R377); the interlocks within the cycles of a tick
(causes 5 and 6) are not modelled (log 3). -/
def State.stallCause (s : State) (core : Nat) : Option Nat :=
  let c := s.getCore core
  let g := if c.pos = 0 then s.groupWait core { c with snapS := c.sreg, snapA := c.areg, snapT := c.treg } (s.groupAt core c.pc) else none
  if c.hold then some 0 else if g = some 1 then g else if c.wait.isSome then some 2 else g

/-- A tick of a running core: cycles run and stalled, and ticks waited (17 R376, R377). -/
def Core.runTick (c : Core) (stall : Option Nat) : Core :=
  let c1 := c.count 0x400 18
  let c2 := match stall with
    | some k => c1.count (0x568 + 8 * k) 18
    | none => c1
  { c2 with wait := c2.wait.map fun w => { w with ticks := w.ticks + 1 } }

/-! After the group -/

/-- Loop frames at the end of the group that ends at `e`: the next index and the frames left (R69). -/
def loopBack (e : Nat) : List LoopFrame → Nat × List LoopFrame
  | [] => (e + 1, [])
  | f :: r =>
    if f.last = e then
      if f.left > 1 then (f.first, { f with left := f.left - 1 } :: r) else loopBack e r
    else (e + 1, f :: r)

/-- Goes on at an index, or faults where that lies past 4,095 (R79). -/
def State.goTo (s : State) (core k : Nat) : State :=
  if k ≤ 4095 then s.modCore core fun c => { c with pc := k, pos := 0, taken := none, loopNew := none }
  else s.takeFault core 4095 (s.insnAt core 4095).lane 7

/-- A LOOP's body-end index is legal (R69). -/
def State.loopOk (s : State) (core e last : Nat) : Bool :=
  match (s.groupAt core (e + 1)).getLast? with
  | some (k, _) => decide (last ≤ 4095 ∧ k ≤ last) && (s.insnAt core last).last
  | none => false

/-- Ends the group whose first index is `pc`: HALT, a taken branch, a LOOP, or the next group (R69, R81). A LOOP of no passes goes on
as at the end of its body, which may end an enclosing loop's body too. Two points are the model's choice (DESIGN CHOICE, log 124): a
LOOP in the group that ends an enclosing loop's body starts the new loop, and the enclosing loop does not go back at that group; a
taken branch out of a body keeps the loop's frame. -/
def State.endGroup (s : State) (core : Nat) : State :=
  let c := s.getCore core
  let g := s.groupAt core c.pc
  let e := c.pc + g.length - 1
  let l3 := (g.find? fun p => p.2.clsN == 0 && decide (0x20 ≤ p.2.opN)).map Prod.fst |>.getD e
  if g.any fun p => p.2.clsN == 0 && p.2.opN == 0x2F then
    s.modCore core fun c => { c with run := .halted, pc := min 4095 (e + 1), pos := 0, taken := none, loopNew := none }
  else match c.taken, c.loopNew with
    | some t, _ =>
      if t > 4095 then s.takeFault core l3 3 7
      else if ¬ s.groupStart core t then s.takeFault core l3 3 0xC
      else s.goTo core t
    | none, some f =>
      if ¬ s.loopOk core e f.last then s.takeFault core l3 3 0xC
      else if f.left = 0 then
        let (k, ls) := loopBack f.last c.loops
        (s.modCore core fun c => { c with loops := ls }).goTo core k
      else (s.modCore core fun c => { c with loops := { f with first := e + 1 } :: c.loops }).goTo core (e + 1)
    | none, none =>
      let (k, ls) := loopBack e c.loops
      (s.modCore core fun c => { c with loops := ls }).goTo core k

/-- A descriptor register advanced at the end of the group (R64); a TLD of the same group writes it later (Table 03-6). -/
def State.advance (s : State) (core : Nat) (r : BitVec 6) (k : Nat) : State :=
  let c := s.getCore core
  if (s.groupAt core c.pc).any fun p => p.2.clsN == 0 && p.2.opN == 0x14 && p.2.dst == r then s
  else s.setCore core (c.advance r k)

/-- A counter change on its way (12 R283). -/
def Core.pend (c : Core) (ctr : Nat) (dec : Bool) (amount pc latency : Nat) : Core :=
  { c with ctrPend := c.ctrPend ++ [⟨c.issued, ctr, dec, amount, pc, latency⟩] }

/-- The CTR increment of an instruction whose completion no later command shows (Table 03-5). -/
def State.ctrField (s : State) (core : Nat) (i : Insn) : State :=
  if i.ctrN < 48 then s.modCore core fun c => c.pend i.ctrN false 1 c.pc i.latency else s

/-- Whether the sequencer can issue (R81, 12 R286, 16 R366). -/
def Core.canIssue (c : Core) : Bool := c.run == .running && !c.faulted && !c.hold && c.wait.isNone

/-- Opens a group: its registers are read as they stand (R64). -/
def State.openGroup (s : State) (core : Nat) : State :=
  (s.draw).modCore core fun c =>
    { c with snapS := c.sreg, snapA := c.areg, snapT := c.treg, groupLog := [], issued := c.issued + 1 }.count 0x408 1

/-! The accesses of one group (R60; log 125). The instructions of a group issue in one cycle: each reads the on-die stores as they
stood before the group, and a byte that several of them write holds the value of the latest writer by rank. -/

/-- Ranges of its core's stores that an instruction writes, by key and length. -/
def Core.writes (core : Nat) (c : Core) (i : Insn) : List (Nat × Nat) :=
  let o := i.opN
  match i.clsN with
  | 0 =>
    let a := (c.rdS i.src1 + i.imm).toNat
    if o = 0x12 then [(storeKey core a, 8)] else if o = 0x15 then [(storeKey core a, 16)] else []
  | 1 => if o = 8 then [(storeKey core (dAddr (c.rdT i.src1)).toNat, footprint i.fmtN)] else []
  | 2 =>
    if o = 7 ∨ o = 8 then []
    else (walk (c.rdT i.dst) i.count (dIndex (c.rdT i.dst))).map fun a => (storeKey core a.toNat, vecBytes (dFmt (c.rdT i.dst)))
  | _ => []

/-- The record fields that an instruction updates, by key and length: NONFINITE and STAGED_AMAX of its destination's record (04 R472).
Every update counts, those of two instructions of one group too: a record is not undone. -/
def Core.recWrites (core : Nat) (c : Core) (i : Insn) : List (Nat × Nat) :=
  let at_ (d : W128) : List (Nat × Nat) := [(storeKey core ((dRec d).toNat + 8), 8)]
  if i.clsN = 1 ∧ i.opN = 8 then (if c.drainReadsRec i (c.rdT i.src1) then at_ (c.rdT i.src1) else [])
  else if i.clsN = 2 ∧ i.opN = 0x10 then
    (if (dScaled (c.rdT i.dst) || fld i.flags 1 0 == 1) && i.count != 0 then at_ (c.rdT i.dst) else [])
  else []

/-- FP32 additions of a DRAIN with ACCUM, each sum rounded and flushed (R74). -/
def accumSums (old new : List Byte) : List W32 :=
  List.zipWith (fun a b => rnd (FV.add (v32 (BitVec.ofNat 32 a)) (v32 (BitVec.ofNat 32 b)))) (unpack32 old) (unpack32 new)

/-- The stores as they stood before the writes of a group. -/
def undoWrites (l : List GroupWrite) (m : Tbl Byte) : Tbl Byte := l.foldl (fun m w => wrBytes m w.key w.old) m

/-- One write of a group. -/
def GroupWrite.run (w : GroupWrite) (m : Tbl Byte) : Tbl Byte :=
  wrBytes m w.key (if w.add then (accumSums (rdBytes m w.key w.data.length) w.data).flatMap fun x => leBytes 4 x.toNat else w.data)

/-- The writes of a group in the order of the writers. -/
def redoWrites (l : List GroupWrite) (m : Tbl Byte) : Tbl Byte :=
  ((List.range 4).flatMap fun r => l.filter fun w => w.rank == r).foldl (fun m w => w.run m) m

/-- The state as the instructions of the issuing group read it. -/
def State.groupBefore (s : State) (core : Nat) : State :=
  let c := s.getCore core
  if c.pos = 0 then s else { s with stores := undoWrites c.groupLog s.stores }

/-- Runs an instruction's effect within its group. `add` gives the addends of a DRAIN with ACCUM. -/
def State.inGroup (s : State) (core : Nat) (i : Insn) (add : State → List Byte) (body : State → State) : State :=
  let c := s.getCore core
  let ws := c.writes core i
  if c.groupLog = [] ∧ (i.last ∨ ws = []) then body s
  else
    let v : State := { s with stores := undoWrites c.groupLog s.stores }
    let t := body v
    if ws = [] then { t with stores := s.stores }
    else
      let acc := i.clsN == 1 && i.flagB 0
      let new := ws.map fun p =>
        (⟨i.rank, p.1, rdBytes v.stores p.1 p.2, if acc then add v else rdBytes t.stores p.1 p.2, acc⟩ : GroupWrite)
      let log := c.groupLog ++ new
      let m := if c.groupLog = [] then t.stores else redoWrites log (undoWrites log t.stores)
      let b := if c.groupLog = [] then t.stores else s.stores
      let done := (ws ++ c.recWrites core i).foldl (fun b p => wrBytes b p.1 (rdBytes m p.1 p.2)) b
      ({ t with stores := done } : State).modCore core fun c => { c with groupLog := log }

/-- Issues instruction `i` of a core: nothing when the sequencer is not there, waits, or goes on with another
instruction; a fault of its group; or its effect, and with the last instruction the end of the group. `ev` is what the checks on the
hardware find first. -/
def issue (core : Nat) (i : Insn) (body : State → State) (s : State) (ev : State → State := fun s => s)
    (add : State → List Byte := fun _ => []) : Out :=
  let c := s.getCore core
  if ¬ c.canIssue then .next s
  else
    let opening := c.pos == 0
    let cs := if opening then { c with snapS := c.sreg, snapA := c.areg, snapT := c.treg } else c
    let g := s.groupAt core c.pc
    let fault := if opening then
        (match s.groupFault core cs g with
         | some f => some f
         | none => if groupRunsOut g then some (4095, (s.insnAt core 4095).lane, 7) else none)
      else none
    match fault with
    | some (pc, lane, cause) => .next ((s.draw).takeFault core pc lane cause)
    | none =>
      if s.insnAt core (c.pc + c.pos) ≠ i then .next s
      else if opening ∧ (s.groupWait core cs g).isSome then .next s
      else
        let s1 := if opening then s.openGroup core else s
        let s2 := (ev s1).inGroup core i add body
        if i.last then .next (s2.endGroup core)
        else .next (s2.modCore core fun c => { c with pos := c.pos + 1 })

/-- The row of one class and operation: it says nothing of another instruction (03 Table 03-6). -/
def issueOp (cls op core : Nat) (i : Insn) (body : State → State) (s : State) (ev : State → State := fun s => s)
    (add : State → List Byte := fun _ => []) : Out :=
  if i.isOp cls op then issue core i body s ev add else .next s

end Sys2Proof.Machine
end

