-- ==== Sys2Proof/Machine/CoreScalar.lean ====
section
/-!
DEFINITION. The core control bank's START, and the scalar and control instructions (03 R65, R69, R71, R81).
-/

namespace Sys2Proof.Machine

/-! START (03 Tables 03-11, 03-12, R81) -/

/-- The status of a CORE_CTL write. -/
def State.startStatus (s : State) (n : Nat) (w : W64) : Nat :=
  let c := s.getCore n
  if fld w 63 28 ≠ 0 ∨ fld w 15 1 ≠ 0 then stAccess
  else if ¬ flag w 0 then stOk
  else if c.run = .armed ∨ c.run = .running then stAccess
  else s.pointStatus (c.startSweep.toNat, c.startTick.toNat)

/-- What START clears (03 R61): registers and accumulator slots; counters keep their values. -/
def Core.armed (c : Core) (entry : Nat) (p : Nat × Nat) : Core :=
  { c with
    sreg := [], areg := [], treg := [], acc := [], accScaled := [], witness := [], witnessN := [],
    run := .armed, entry := entry, pc := entry, pos := 0, taken := none, loopNew := none, loops := [],
    faultInfo := 0, faulted := false, wait := none, armedAt := some p }

/-- A write of CORE_CTL. -/
def State.writeCoreCtl (s : State) (n : Nat) (w : W64) : State :=
  let c := s.getCore n
  if flag w 0 then s.setCore n (c.armed (fld w 27 16) (c.startSweep.toNat, c.startTick.toNat))
  else s.setCore n { c with entry := fld w 27 16 }

def execStart (o : Origin) (core : Fin 512) (w : BitVec 64) (s : State) : Out :=
  .next (s.structWrite o (s.startStatus core w) fun s => s.writeCoreCtl core w)

/-! Scalar arithmetic (03 R71) -/

/-- The second operand of a scalar operation: SRC2, or IMM with flag I. -/
def Core.op2 (c : Core) (i : Insn) : W64 := if i.flagB 0 then i.imm else c.rdS i.src2

/-- Writes a function of both operands into DST. -/
def scalarBody (core : Nat) (i : Insn) (f : W64 → W64 → W64) (s : State) : State :=
  (s.modCore core fun c => c.wrS i.dst.toNat (f (c.rdS i.src1) (c.op2 i))).ctrField core i

def bit64 (b : Bool) : W64 := if b then 1 else 0
def shl64 (x n : W64) : W64 := if n.toNat ≥ 64 then 0 else x <<< n.toNat
def shr64 (x n : W64) : W64 := if n.toNat ≥ 64 then 0 else x >>> n.toNat
def sra64 (x n : W64) : W64 := x.sshiftRight (min n.toNat 64)

def execAdd (core : Fin 512) (i : Insn) (s : State) : Out := issueOp 0 1 core i (scalarBody core i (· + ·)) s
def execSub (core : Fin 512) (i : Insn) (s : State) : Out := issueOp 0 2 core i (scalarBody core i (· - ·)) s
def execMul (core : Fin 512) (i : Insn) (s : State) : Out := issueOp 0 3 core i (scalarBody core i (· * ·)) s
def execAnd (core : Fin 512) (i : Insn) (s : State) : Out := issueOp 0 4 core i (scalarBody core i (· &&& ·)) s
def execOr (core : Fin 512) (i : Insn) (s : State) : Out := issueOp 0 5 core i (scalarBody core i (· ||| ·)) s
def execXor (core : Fin 512) (i : Insn) (s : State) : Out := issueOp 0 6 core i (scalarBody core i (· ^^^ ·)) s
def execShl (core : Fin 512) (i : Insn) (s : State) : Out := issueOp 0 7 core i (scalarBody core i shl64) s
def execShr (core : Fin 512) (i : Insn) (s : State) : Out := issueOp 0 8 core i (scalarBody core i shr64) s
def execSra (core : Fin 512) (i : Insn) (s : State) : Out := issueOp 0 9 core i (scalarBody core i sra64) s
def execCmplt (core : Fin 512) (i : Insn) (s : State) : Out :=
  issueOp 0 0xA core i (scalarBody core i fun x y => bit64 (x.slt y)) s
def execCmpeq (core : Fin 512) (i : Insn) (s : State) : Out :=
  issueOp 0 0xB core i (scalarBody core i fun x y => bit64 (x == y)) s

/-- Writes an s or an a register. -/
def Core.wrSA (c : Core) (r : BitVec 6) (v : W64) : Core := if isS r then c.wrS r.toNat v else c.wrA r v

def moviBody (core : Nat) (i : Insn) (s : State) : State :=
  (s.modCore core fun c => c.wrSA i.dst i.imm).ctrField core i
def execMovi (core : Fin 512) (i : Insn) (s : State) : Out := issueOp 0 0x10 core i (moviBody core i) s

def amovBody (core : Nat) (i : Insn) (s : State) : State :=
  (s.modCore core fun c => c.wrA i.dst (c.rdS i.src1)).ctrField core i
def execAmov (core : Fin 512) (i : Insn) (s : State) : Out := issueOp 0 0x16 core i (amovBody core i) s

/-! Loads and stores of registers: SRC1 + IMM, modulo 2^64 (03 R71) -/
def Core.scalarAddr (c : Core) (i : Insn) : Nat := (c.rdS i.src1 + i.imm).toNat

def ldsBody (core : Nat) (i : Insn) (s1 : State) : State :=
  let a := (s1.getCore core).scalarAddr i
  (s1.modCore core fun c => c.wrS i.dst.toNat (BitVec.ofNat 64 (leNat (s1.rdLocal core a 8)))).ctrField core i
def execLds (core : Fin 512) (i : Insn) (hw : HwEvent) (s : State) : Out := issueOp 0 0x11 core i (ldsBody core i) s (fun s => s.hwEvent core hw)

def stsBody (core : Nat) (i : Insn) (s : State) : State :=
  let c := s.getCore core
  (s.wrLocal core (c.scalarAddr i) (leBytes 8 (c.rdS i.src2).toNat)).ctrField core i
def execSts (core : Fin 512) (i : Insn) (s : State) : Out := issueOp 0 0x12 core i (stsBody core i) s

def tldBody (core : Nat) (i : Insn) (s1 : State) : State :=
  let a := (s1.getCore core).scalarAddr i
  (s1.modCore core fun c => c.wrT i.dst (BitVec.ofNat 128 (leNat (s1.rdLocal core a 16)))).ctrField core i
def execTld (core : Fin 512) (i : Insn) (hw : HwEvent) (s : State) : Out := issueOp 0 0x14 core i (tldBody core i) s (fun s => s.hwEvent core hw)

def tstBody (core : Nat) (i : Insn) (s : State) : State :=
  let c := s.getCore core
  (s.wrLocal core (c.scalarAddr i) (leBytes 16 (c.rdT i.src2).toNat)).ctrField core i
def execTst (core : Fin 512) (i : Insn) (s : State) : Out := issueOp 0 0x15 core i (tstBody core i) s

/-! SRD (03 Table 03-4) -/

/-- The special value of a code 0x00 to 0x07; code 0x00 gives the sweep here. -/
def State.special (s : State) (core code : Nat) : W64 :=
  let ctx := s.ctxOfCore core
  BitVec.ofNat 64
    (if code = 0 then s.time.sweep
     else if code = 1 then s.cycle
     else if code = 2 then s.epochCc
     else if code = 3 then core
     else if code = 4 then ctx.getD 0
     else if code = 5 then s.moduleId
     else match ctx with
       | some c => if code = 6 then (s.getCtx c).stepNo.toNat else s.versionOf c
       | none => 0)

def srdBody (core : Nat) (i : Insn) (s : State) : State :=
  let v := s.special core i.immN
  (s.modCore core fun c =>
    let c1 := c.wrS i.dst.toNat v
    if i.immN = 0 then c1.wrS (i.dst.toNat + 1) (BitVec.ofNat 64 s.time.tick) else c1).ctrField core i
def execSrd (core : Fin 512) (i : Insn) (s : State) : Out := issueOp 0 0x13 core i (srdBody core i) s

/-! Control (03 R69, R81) -/
def brBody (core : Nat) (i : Insn) (s : State) : State :=
  (s.modCore core fun c => { c with taken := some i.immN }).ctrField core i
def execBr (core : Fin 512) (i : Insn) (s : State) : Out := issueOp 0 0x20 core i (brBody core i) s

def brnzBody (core : Nat) (i : Insn) (s : State) : State :=
  (s.modCore core fun c => if c.rdS i.src1 = 0 then c else { c with taken := some i.immN }).ctrField core i
def execBrnz (core : Fin 512) (i : Insn) (s : State) : Out := issueOp 0 0x21 core i (brnzBody core i) s

def loopBody (core : Nat) (i : Insn) (s : State) : State :=
  (s.modCore core fun c => { c with loopNew := some ⟨0, i.immN, (c.rdS i.src1).toNat⟩ }).ctrField core i
def execLoop (core : Fin 512) (i : Insn) (s : State) : Out := issueOp 0 0x22 core i (loopBody core i) s

/-- HALT takes effect with its group (`endGroup`). -/
def execHalt (core : Fin 512) (i : Insn) (s : State) : Out := issueOp 0 0x2F core i (fun s => s.ctrField core i) s

end Sys2Proof.Machine
end

