-- ==== Sys2Proof/Machine/LongOps.lean ====
section
/-!
DEFINITION. The long range: regions and the checks of an access (10 R228 to R231, 14 R314), locations and migrations
(10 R232 to R236), the wear governor (R223), poisoned pages (R245), and the start of a recovery ladder (R243).
-/

namespace Sys2Proof.Machine

/-! Region descriptors (10 Table 10-2) -/
def rgReplica (r : BitVec 256) : Nat := fld r 255 240
def rgMaster (r : BitVec 256) : Nat := fld r 239 228
def rgShare (r : BitVec 256) : Nat := fld r 227 212
def rgCtx (r : BitVec 256) : Nat := fld r 211 208
def rgBase (r : BitVec 256) : Nat := fld r 207 180
def rgPages (r : BitVec 256) : Nat := fld r 179 152
def rgAffinity (r : BitVec 256) : Nat := fld r 151 149
def rgValid (r : BitVec 256) : Bool := flag r 148
def rgRemote (r : BitVec 256) : Bool := flag r 147
def rgPin (r : BitVec 256) : Bool := flag r 146
def rgHomeFlash (r : BitVec 256) : Bool := flag r 145
def rgWorking (r : BitVec 256) : Bool := flag r 143

/-- Whether a region holds a page. -/
def rgHolds (r : BitVec 256) (p : Nat) : Bool := rgValid r && decide (rgBase r ≤ p ∧ p < rgBase r + rgPages r)

/-- The valid region of a page (R227). -/
def State.regionOf (s : State) (p : Nat) : Option (Nat × BitVec 256) := s.long.region.find? fun e => rgHolds e.2 p

/-- Sum of the pages of the valid regions that a test selects. -/
def State.pagesWhere (s : State) (f : BitVec 256 → Bool) : Nat :=
  s.long.region.foldl (fun n e => if rgValid e.2 ∧ f e.2 then n + rgPages e.2 else n) 0

def State.mappedPages (s : State) : Nat := s.pagesWhere fun _ => true
def State.pinnedPages (s : State) (c : Nat) : Nat := s.pagesWhere fun r => rgPin r && rgCtx r == c

/-- HBM frames in service (R218, Table 10-6). -/
def State.hbmFrames (s : State) : Nat := s.od 0x2400 1
/-- The limit of mapped pages (R227). -/
def State.mapLimit (s : State) : Nat := s.hbmFrames + 112915915 - 1024
/-- The frame budget of a context (R233). -/
def State.frameBudget (s : State) (c : Nat) : Nat := s.od 0x2401 (c + 1)

/-- Whether a page sits in an HBM frame: pinned pages always do; a page that is not pinned starts in flash, where a
page of zeros takes no sector (R241; log 31). -/
def State.pageInHbm (s : State) (p : Nat) : Bool :=
  match s.regionOf p with
  | some (_, r) => rgPin r || (s.getPage p).inHbm
  | none => false

/-- The owning context of a page. -/
def State.pageCtx (s : State) (p : Nat) : Option Nat := (s.regionOf p).map fun r => rgCtx r.2

/-- Frames that the pages of a context occupy (R233). -/
def State.framesUsed (s : State) (c : Nat) : Nat :=
  s.pinnedPages c + (s.long.page.filter fun e => e.2.inHbm && s.pageCtx e.1 == some c
    && !((s.regionOf e.1).any fun r => rgPin r.2)).length

/-- Frames that hold no page. -/
def State.framesFree (s : State) : Nat :=
  s.hbmFrames - ((List.range 16).map s.framesUsed).sum

/-- Who makes an access to the long range: a context of this module; one that is checked as the region's own context
(20 R449); another module (10 R231). -/
inductive Who where
  | ctx (c : Nat)
  | owner
  | remote
  | nobody
  deriving DecidableEq, Repr

/-- A context whose cut has drained (15 Table 15-11). -/
def State.ctxClosed (s : State) (c : Nat) : Bool := (s.getCtx c).state == 2 && !(s.getCtx c).draining

/-- Fields of SLOT v (14 Table 14-3). -/
def slotVersion (w : W128) : Nat := fld w 127 96
def slotRefs (w : W128) : Nat := fld w 95 64
def slotRegion (w : W128) : Nat := fld w 63 52
def slotState (w : W128) : Nat := fld w 51 50
def Ctx.getSlot (x : Ctx) (v : Nat) : W128 := tblGet w128z x.slot v
def Ctx.setSlot (x : Ctx) (v : Nat) (w : W128) : Ctx := { x with slot := tblSet w128z x.slot v w }
def Ctx.vslots (x : Ctx) : Nat := fld x.desc 346 344

/-- A generator slot's region takes writes only while the slot is WRITING (14 R314). -/
def State.slotAllows (s : State) (r : Nat) (w : BitVec 256) : Bool :=
  let x := s.getCtx (rgCtx w)
  x.state == 0 || x.role != 2
    || (List.range x.vslots).all fun v => slotRegion (x.getSlot v) != r || slotState (x.getSlot v) == 1

/-- Whether an access to one page passes the checks of R231 and R314. -/
def State.pageOk (s : State) (who : Who) (write : Bool) (p : Nat) : Bool :=
  match s.regionOf p with
  | none => false
  | some (r, w) =>
    (match who with
     | .ctx c => rgCtx w == c || (!write && (rgShare w).testBit c)
     | .owner => true
     | .remote => rgRemote w && !s.ctxClosed (rgCtx w)
     | .nobody => false)
      && (!write || s.slotAllows r w)

/-- The pages of `n` bytes from an offset. -/
def pagesOf (off n : Nat) : List Nat :=
  if n = 0 then [] else (List.range ((off + n - 1) / 65536 - off / 65536 + 1)).map (off / 65536 + ·)

/-- Whether an access passes, page by page (R231). -/
def State.longOk (s : State) (who : Who) (write : Bool) (off n : Nat) : Bool :=
  decide (off + n ≤ 2 ^ 44) && (pagesOf off n).all (s.pageOk who write)

/-! Migration (R232 to R236) -/

/-- The 4 KiB units of a page and of its sidecar that are not all zeros (R241). -/
def State.pageUnits (s : State) (p : Nat) : List (List Byte) :=
  (((List.range 16).map fun k => s.rdLong (p * 65536 + k * 4096) 4096) ++ [rdBytes s.side (p * 4096) 4096]).filter fun u =>
    !(u.all (· == 0))

/-- Sectors that a page takes when it is written to flash: none when it is all zeros, otherwise at most one for each unit that is not,
by a fixed code that the manual does not give (R241; log 23). -/
def State.pageSectors (s : State) (p : Nat) : Nat :=
  let us := s.pageUnits p
  if us.isEmpty then 0 else Config.codedSectors us.flatten % us.length + 1

/-- Pages of a context on their way into HBM. -/
def State.migratingIn (s : State) (c : Nat) : Nat :=
  (s.long.page.filter fun e => e.2.moving == some true && s.pageCtx e.1 == some c).length

/-- The page of a context that is evicted: the oldest access among those neither pinned nor protected (R233). -/
def State.victim (s : State) (c : Nat) : Option Nat :=
  ((s.long.page.filter fun e => e.2.inHbm && !e.2.prot && e.2.moving.isNone && s.pageCtx e.1 == some c).foldl
    (fun m e => match m with
      | none => some (e.1, e.2.age)
      | some (p, a) => if e.2.age < a then some (e.1, e.2.age) else some (p, a)) none).map Prod.fst

/-- Makes room in a context's budget, if it is full, by starting an eviction (R233). -/
def State.makeRoom (s : State) (c : Nat) : State :=
  if s.framesUsed c + s.migratingIn c ≤ s.frameBudget c then s
  else match s.victim c with
    | some v => s.setPage v { s.getPage v with moving := some false }
    | none => s

/-- Pages of a context that an eviction is taking out of HBM. -/
def State.migratingOut (s : State) (c : Nat) : Nat :=
  (s.long.page.filter fun e => e.2.inHbm && e.2.moving == some false && s.pageCtx e.1 == some c).length

/-- Starts evictions until a context's pages fit its frame budget again (R233). -/
def State.fitBudget (s : State) (c : Nat) : Nat → State
  | 0 => s
  | n + 1 =>
    if s.framesUsed c ≤ s.frameBudget c + s.migratingOut c then s
    else match s.victim c with
      | some v => (s.setPage v { s.getPage v with moving := some false }).fitBudget c n
      | none => s

/-- A page that a fetch needs stays in its frame: its eviction ends without effect (R239; log 133). -/
def State.keepPage (s : State) (p : Nat) : State :=
  let g := s.getPage p
  if g.inHbm ∧ g.moving = some false then
    let s1 := s.setPage p { g with moving := none }
    { s1 with long := { s1.long with heldWrites := s1.long.heldWrites.filter fun h => h.2 != some p } }
  else s

/-- Starts a page's migration into HBM (R233). -/
def State.migrateIn (s : State) (p die : Nat) : State :=
  let g := s.getPage p
  if s.pageInHbm p ∨ g.moving.isSome then s
  else
    let s1 := s.setPage p { g with moving := some true, die := die }
    match s1.pageCtx p with
    | some c => s1.makeRoom c
    | none => s1

/-- An access to a page: its age, the demand accesses and their BREAK records (R233, R236). -/
def State.touch (s : State) (write : Bool) (p : Nat) : State :=
  let n := s.long.accesses + 1
  let s1 : State := { s with long := { s.long with accesses := n } }
  let g := s1.getPage p
  let s2 := s1.setPage p { g with age := n, dirty := g.dirty || write }
  if s.pageInHbm p then s2
  else ((s2.addOd 0x2400 0xA 1).breakEvent 4 ((s.pageCtx p).toList)).migrateIn p 8

def State.touchRange (s : State) (write : Bool) (off n : Nat) : State := (pagesOf off n).foldl (fun s p => s.touch write p) s

/-! The wear governor (R223) -/

/-- Lets a write of user sectors through, or holds it; `p` is the page whose eviction it is. -/
def State.flashWrite (s : State) (sectors : Nat) (p : Option Nat) : State :=
  let n := 4096 * sectors
  if n ≤ s.long.governor then
    let s1 : State := { s with long := { s.long with governor := s.long.governor - n } }
    let s2 := s1.addOd 0x2400 6 n
    match p with
    | some p => s2.setPage p { s2.getPage p with inHbm := false, dirty := false, moving := none }
    | none => s2
  else
    ({ s with long := { s.long with heldWrites := s.long.heldWrites ++ [(sectors, p)] } } : State).addOd 0x2400 8 1

/-- A record of the start-up journal, newest first (19 Table 19-2); it takes one sector of the system area through the governor (R223;
log 27). -/
def State.journal (s : State) (stage unit result alt detail timeMs : Nat) : State :=
  ({ s with boot := { s.boot with
    journal := ⟨s.boot.boot, timeMs, detail, stage, result, alt, unit⟩ :: s.boot.journal } } : State).flashWrite 1 none

/-! Poisoned pages (R245) -/

/-- Joins an interval [a, e) to a sorted list of disjoint intervals. -/
def coverAdd : Nat × Nat → List (Nat × Nat) → List (Nat × Nat)
  | i, [] => [i]
  | (a, e), (b, f) :: r =>
    if e < b then (a, e) :: (b, f) :: r
    else if f < a then (b, f) :: coverAdd (a, e) r
    else coverAdd (min a b, max e f) r

/-- A write into a poisoned page: one that covers all 64 KiB clears the mark. `op` names the operation that a frame carries a part of:
the parts of one write count together, those of different writes do not. -/
def State.coverPage (s : State) (op : Option (Nat × Nat)) (off n p : Nat) : State :=
  let g := s.getPage p
  if g.poison then
    let a := max off (p * 65536) - p * 65536
    let e := min (off + n) (p * 65536 + 65536) - p * 65536
    let old := match op with
      | some k => ((g.cover.find? fun x => x.1 == k).map Prod.snd).getD []
      | none => []
    let c := coverAdd (a, e) old
    if c = [(0, 65536)] then s.setPage p { g with poison := false, cover := [] }
    else match op with
      | some k => s.setPage p { g with cover := (g.cover.filter fun x => x.1 != k) ++ [(k, c)] }
      | none => s
  else s

/-- Whether a read meets a poisoned page. -/
def State.readPoison (s : State) (off n : Nat) : Bool := (pagesOf off n).any fun p => (s.getPage p).poison

/-- Writes payload bytes of the long range, with what a write does to its pages. -/
def State.longWrite (s : State) (off : Nat) (d : List Byte) (op : Option (Nat × Nat) := none) : State :=
  let s1 := s.touchRange true off d.length
  ((pagesOf off d.length).foldl (fun s p => s.coverPage op off d.length p) s1).wrLong off d

/-- Byte `k` of the pattern 0x7FC0_0000. -/
def poisonByte (k : Nat) : Byte := BitVec.ofNat 8 (0x7FC00000 / 256 ^ (k % 4))

/-! Sidecar placement (R225): byte `p` of a stream of 544-byte footprints -/
def sideStream (p : Nat) : Bool := decide (p % 544 ≥ 512)

/-- Reads `n` bytes of the stream that starts at an offset, from stream byte `p`. -/
def State.rdStream (s : State) (off : Nat) : Nat → Nat → List Byte
  | _, 0 => []
  | p, n + 1 =>
    let t := off + p / 544 * 512
    (if sideStream p then rdByte s.side (sideKey t + (p % 544 - 512)) else rdByte s.lr (t + p % 544))
      :: s.rdStream off (p + 1) n

/-- Writes bytes of the stream. -/
def State.wrStream (s : State) (off : Nat) : Nat → List Byte → State
  | _, [] => s
  | p, b :: r =>
    let t := off + p / 544 * 512
    let s1 : State :=
      if sideStream p then { s with side := wrByte s.side (sideKey t + (p % 544 - 512)) b }
      else { s with lr := wrByte s.lr (t + p % 544) b }
    s1.wrStream off (p + 1) r

/-- The payload range that `n` stream bytes from `p` name. -/
def streamRange (off p n : Nat) : Nat × Nat :=
  let a := off + p / 544 * 512
  (a, if n = 0 then 0 else off + ((p + n - 1) / 544 + 1) * 512 - a)

/-- Writes stream bytes with what a write does to its pages. -/
def State.longWriteStream (s : State) (off p : Nat) (d : List Byte) (op : Option (Nat × Nat) := none) : State :=
  let (a, n) := streamRange off p d.length
  let s1 := s.touchRange true a n
  ((pagesOf a n).foldl (fun s q => s.coverPage op a n q) s1).wrStream off p d

/-! Repair of the memories (R217, R218) -/

/-- A repair of a channel or row: pool, kind of LAST_REPAIR and unit. -/
def State.memRepaired (s : State) (pool sub kind unit : Nat) : State :=
  let w := repairWord kind 0 unit s.time.sweep
  ((s.subOd 0x2300 sub 1).setOd 0x2300 0x10 w).maintenance pool

/-- A channel is retired without a spare (R218): its pages move to other frames, and where a context has no frame left for them to
flash; then its frames leave service. Where too few would be left, it is not retired, and the fault is beyond reserves (16 Table 16-4). -/
def State.retireChannel (s : State) (stack ch : Nat) : State :=
  let left := s.hbmFrames - 32256
  let budgets := ((List.range 16).map s.frameBudget).sum
  let pinned := ((List.range 16).map s.pinnedPages).sum
  if left < budgets ∨ left < pinned then
    ({ s with repair := { s.repair with lostCh := s.repair.lostCh ++ [(stack, ch)] } } : State).beyondReserves 2 (stack * 34 + ch)
  else
    let s1 := (List.range 16).foldl (fun s c => s.fitBudget c s.long.page.length) s
    ({ s1 with repair := { s1.repair with retiredCh := s1.repair.retiredCh ++ [(stack, ch)] } } : State).setOd 0x2400 1 left

/-- Soft post-package repair of a row of a stack at once; hard repair follows at the next start-up (R217). -/
def State.rowRepair (s : State) (stack : Nat) : State :=
  ({ s with repair := { s.repair with softRows := s.repair.softRows ++ [stack] } } : State).memRepaired 3 4 4 stack

/-- A channel passes its threshold or fails: a copy into a spare begins (R217), or it is retired. -/
def State.channelFail (s : State) (stack ch : Nat) : State :=
  if s.repair.retiredCh.contains (stack, ch) ∨ s.repair.lostCh.contains (stack, ch) ∨ (s.repair.copies.any fun c => c.1 == stack && c.2.1 == ch) then s
  else if tblGet nat0 s.repair.chSpares stack < 2 then
    { s with repair := { s.repair with
        copies := s.repair.copies ++ [(stack, ch, none)], chSpares := tblUpd nat0 s.repair.chSpares stack (· + 1) } }
  else s.retireChannel stack ch

/-- A corrected error of a channel; the count is of the running hour (log 24). -/
def State.channelError (s : State) (stack ch : Nat) : State :=
  let k := stack * 32 + ch
  let s1 : State := { s with repair := { s.repair with chErrors := tblUpd nat0 s.repair.chErrors k (· + 1) } }
  if tblGet nat0 s1.repair.chErrors k > s.od 0x2300 0xF then s1.channelFail stack ch else s1

/-! Ladders (R243, R244) -/

/-- The die whose tier manager owns a page's location (R232). -/
def State.homeDie (s : State) (p : Nat) : Nat :=
  match s.regionOf p with
  | some (_, r) => rgAffinity r
  | none => 0

/-- The die whose stacks hold a page: the home die, or the one that a FETCH_HBM entry has named (R232). -/
def State.pageDie (s : State) (p : Nat) : Nat :=
  let d := (s.getPage p).die
  if d = 8 then s.homeDie p else d

/-- The stack whose frames hold a page: the first of its die's pair for an even page number, the second for an odd one (R232). -/
def State.pageStack (s : State) (p : Nat) : Nat := 2 * s.pageDie p + p % 2

def State.ladderOf (s : State) (p : Nat) : Option Ladder := s.long.ladders.find? fun l => l.page == p

/-- Ladders and held requests of a die. -/
def State.dieLadders (s : State) (d : Nat) : List Ladder := s.long.ladders.filter fun l => s.homeDie l.page == d
def State.dieHeld (s : State) (d : Nat) : Nat := ((s.dieLadders d).map fun l => l.held.length).sum

/-- A read that the codes cannot correct enters a ladder for its page, unless the die runs 16 already. -/
def State.ladderStart (s : State) (p : Nat) : State :=
  if (s.ladderOf p).isSome ∨ (s.dieLadders (s.homeDie p)).length ≥ 16 ∨ (s.regionOf p).isNone then s
  else
    (({ s with long := { s.long with ladders := s.long.ladders ++ [⟨p, 1, s.time.boundaries, []⟩] } } : State).addOd
      0x2400 0xB 1).breakEvent 3 ((s.pageCtx p).toList)

/-- The pages of an access that a ladder holds, first one. -/
def State.heldAt (s : State) (off n : Nat) : Option Nat := (pagesOf off n).find? fun p => (s.ladderOf p).isSome

/-- A die holds no more than 8,192 requests: a further one waits at its source. -/
def State.holdFull (s : State) (p : Nat) : Bool := decide (s.dieHeld (s.homeDie p) ≥ 8192)

/-- Whether a read that a command finds uncorrectable would need a ladder beyond the 16 of its die: the request waits at its
source, and nothing changes (R243). -/
def State.ladderFull (s : State) : HwEvent → Bool
  | .memUncorrectable p =>
    (s.ladderOf p.toNat).isNone && (s.regionOf p.toNat).isSome && decide ((s.dieLadders (s.homeDie p.toNat)).length ≥ 16)
  | _ => false

/-- Holds a request at a ladder. -/
def State.holdAt (s : State) (p : Nat) (r : HeldReq) : State :=
  if s.holdFull p then s
  else { s with long := { s.long with ladders := s.long.ladders.map fun l =>
    if l.page = p then { l with held := l.held ++ [r] } else l } }

/-- An engine's write of the long range: a ladder that holds one of its pages holds it too (R243). -/
def State.writeOrHold (s : State) (off : Nat) (d : List Byte) : State :=
  match s.heldAt off d.length with
  | some p =>
    { s with long := { s.long with ladders := s.long.ladders.map fun l =>
      if l.page = p then { l with held := l.held ++ [⟨none, s.moduleId, none, 16, some (off, d)⟩] } else l } }
  | none => s.longWrite off d

/-- What the codes of HBM and flash found during a command (R216, R217, R243). -/
def State.hbmEvent (s : State) : HwEvent → State
  | .memCorrected st ch => s.channelError st ch
  | .memUncorrectable p => s.ladderStart p.toNat
  | .memRow st => s.rowRepair st
  | .memChannel st ch => s.channelFail st ch
  | .storeCorrected => s
  | .storeUncorrectable _ => s
  | .cubeFault _ _ => s
  | .witness _ => s
  | .residue => s
  | .ok => s

/-- What the checks of the memories found during a command; `core` is the core whose store is concerned. -/
def State.memEvent (s : State) (core : Nat) (hw : HwEvent) : State :=
  match hw with
  | .storeCorrected => s.storeCorrected
  | .storeUncorrectable a => if localOk a.toNat 1 then s.storeUncorrectable core a.toNat else s
  | _ => s.hbmEvent hw

/-! The trace DMA (17 R383) -/

/-- Whether a cluster's trace region takes `n` bytes at the write position: an address of this module in pages that its context may write
(R231), or a DMA window. -/
def State.traceOk (s : State) (n : Nat) (b : BitVec 512) (len : Nat) : Bool :=
  let base := BitVec.ofNat 64 (fld b 511 448)
  flag b 247 || (gaModule base == s.moduleId && gaSpace base == 0
    && s.longOk (match s.ctxOfCluster n with
        | some c => .ctx c
        | none => .nobody) true (gaOffset base + fld b 383 320) len)

/-- Drains a cluster's buffer into its region (17 R383). Records that the region's pages refuse are dropped and counted in LOST (log 132);
they wait while a ladder holds a page of them (R243). -/
def State.traceDrain (s : State) (n : Nat) : State :=
  let c := s.getCluster n
  if c.tState = 2 ∧ c.traceBuf ≠ [] then
    let w0 := fld c.traceBank 383 320
    let (b, out, lost) := drainRecords c.traceBuf.length c.traceBuf c.traceBank []
    let base := fld b 511 448 % 2 ^ 44
    let host := flag b 247
    if ¬ host ∧ (s.heldAt (base + w0) out.length).isSome then s
    else if ¬ s.traceOk n c.traceBank out.length then
      let k := c.traceBuf.length
      (s.setCluster n { c with
        traceBank := setFld c.traceBank 319 288 (fld c.traceBank 319 288 + k), traceBuf := [] }).addOd 0x2900 2 k
    else
      let b := setFld b 319 288 (fld b 319 288 + lost)
      let s1 := s.setCluster n { c with traceBank := b, traceBuf := [] }
      let s2 := if host then { s1 with host := { s1.host with hostOut := out } } else s1.longWrite (base + w0) out
      let s3 := if lost = 0 then s2 else s2.addOd 0x2900 2 lost
      match s.ctxOfCluster n with
      | some x => if fld b 244 243 = 3 then s3.msixEvent x 3 else s3
      | none => s3
  else s

end Sys2Proof.Machine
end

