-- ==== Sys2Proof/Machine/SampleOps.lean ====
section
/-!
DEFINITION. Mirror digests of tiles (15 R344 to R346) and samples of the Spectrum recorder (17 R394).
-/

namespace Sys2Proof.Machine

/-! CRC-64 (15 R344): polynomial 0x42F0_E1EB_A9EA_3693, reflected -/
def crcBit (r : W64) : W64 := if r.getLsbD 0 then (r >>> 1) ^^^ 0xC96C5795D7870F42#64 else r >>> 1

def crcByte (r : W64) (b : Byte) : W64 :=
  crcBit (crcBit (crcBit (crcBit (crcBit (crcBit (crcBit (crcBit (r ^^^ BitVec.ofNat 64 b.toNat))))))))

def crc64 (l : List Byte) : W64 := (l.foldl crcByte 0xFFFFFFFFFFFFFFFF#64) ^^^ 0xFFFFFFFFFFFFFFFF#64

/-- The digest of one tile. -/
def tileDigest (tid row col fmt : Nat) (foot : List Byte) : W64 :=
  crc64 (leBytes 4 tid ++ leBytes 4 row ++ leBytes 4 col ++ leBytes 1 fmt ++ zeroBytes 3 ++ foot)

/-- Fields of a context's digest bank (15 Table 15-5). -/
def Ctx.dTable (x : Ctx) : Nat := fld x.digest 511 448 % 2 ^ 44
def Ctx.dDirectory (x : Ctx) : Nat := fld x.digest 447 384 % 2 ^ 44
def Ctx.dDirCount (x : Ctx) : Nat := fld x.digest 383 352
def Ctx.dSlots (x : Ctx) : Nat := fld x.digest 351 336
def Ctx.dGroup (x : Ctx) : Nat := fld x.digest 335 320
def Ctx.dMembers (x : Ctx) : Nat := fld x.digest 319 315
def Ctx.dIndex (x : Ctx) : Nat := fld x.digest 314 311
def Ctx.dCmpCore (x : Ctx) : Nat := fld x.digest 310 302
def Ctx.dCmpCtr (x : Ctx) : Nat := fld x.digest 301 296
def Ctx.dOutCmp (x : Ctx) : Bool := flag x.digest 295

/-- Adds a digest to field `k` of a slot record: 0 OUT, 1 MASTER, 2 WORK (15 Table 15-6); slots in use only (log 21). -/
def State.addDigest (s : State) (c slot k : Nat) (d : W64) : State :=
  let x := s.getCtx c
  if slot < x.dSlots then
    let a := x.dTable + slot * 32 + k * 8
    s.wrLong a (leBytes 8 ((BitVec.ofNat 64 (leNat (s.rdLong a 8))) + d).toNat)
  else s

/-- Sets field `k` of a slot record. -/
def State.setDigest (s : State) (c slot k v : Nat) : State :=
  s.wrLong ((s.getCtx c).dTable + slot * 32 + k * 8) (leBytes 8 v)

/-- The digest slot of a tensor by the context's directory; none where it is not listed (15 R347). -/
def State.digestSlot (s : State) (c : Nat) (tid : Nat) : Option Nat :=
  let x := s.getCtx c
  ((List.range x.dDirCount).find? fun k => leNat (s.rdLong (x.dDirectory + 8 * k + 4) 4) == tid).map fun k =>
    leNat (s.rdLong (x.dDirectory + 8 * k) 2)

/-! Spectrum recorder (17 Tables 17-9, 17-11, R393, R394) -/
def Channel.source (c : Channel) : Nat := fld c.defn 155 152
def Channel.context (c : Channel) : Nat := fld c.defn 159 156
def Channel.tensor (c : Channel) : Nat := fld c.defn 255 224
def Channel.sentinelN (c : Channel) : Nat := fld c.defn 191 176
def Channel.binLo (c : Channel) : Int := sextN 8 (fld c.defn 175 168)

/-- Whether a channel lies in a valid window (17 R393). -/
def State.chanLive (s : State) (ch : Nat) : Bool :=
  s.obs.window.any fun w => flag w.2 69 && decide (fld w.2 127 116 ≤ ch ∧ ch < fld w.2 127 116 + fld w.2 115 103)

def sat48 (n : Nat) : Nat := min (2 ^ 48 - 1) n

/-- One sample: its FP32 value and the exponent that selects its bin (17 R394). -/
def Channel.sample (c : Channel) (x : W32) (e : Int) : Channel :=
  if nf32 x then { c with nonfinite := sat48 (c.nonfinite + 1), stepCount := c.stepCount + 1 }
  else
    let c1 := { c with count := sat48 (c.count + 1), stepCount := c.stepCount + 1 }
    if zero32 x then { c1 with zeros := sat48 (c1.zeros + 1), stepZeros := c1.stepZeros + 1 }
    else
      let k0 := (e - c.binLo + 1).toNat
      let k := if k0 > 31 then 31 else k0
      { c1 with
        bins := tblUpd nat0 c1.bins k (fun n => sat48 (n + 1)),
        min := if c.any then (if lt32 x c.min then x else c.min) else x,
        max := if c.any then (if lt32 c.max x then x else c.max) else x,
        any := true }

/-- The exponent of a sample: −127 for a subnormal (17 R394). -/
def sampleExp (x : W32) : Int := (x.toNat / 2 ^ 23 % 256 : Nat) - 127

/-- Samples of a source and tensor of a context, into every live channel that takes them. -/
def State.sampleTensor (s : State) (ctx : Option Nat) (source tid : Nat) (xs : List W32) : State :=
  match ctx with
  | none => s
  | some c =>
    s.obs.chan.foldl (fun s ch =>
      if ch.2.source = source ∧ ch.2.context = c ∧ ch.2.tensor = tid ∧ s.chanLive ch.1 then
        s.setChan ch.1 (xs.foldl (fun c x => c.sample x (sampleExp x)) ch.2)
      else s) s

end Sys2Proof.Machine
end

