-- ==== Sys2Proof/Machine/Xfer.lean ====
section
/-!
DEFINITION. Transfer operations (11 R258 to R279, 12 R471): bindings, packing, byte-counted signals, completion,
fences, and the transfer and sync instructions of a core.
-/

namespace Sys2Proof.Machine

/-! Queue bindings (11 Table 11-5) -/
def bDest (b : W128) : Nat := fld b 127 112
def bCtx (b : W128) : Nat := fld b 111 108
def bTc (b : W128) : Nat := fld b 107 106
def bValid (b : W128) : Bool := flag b 105
def bPack (b : W128) : Nat := fld b 104 103
def bSide (b : W128) : Bool := flag b 102
def bHalt (b : W128) : Bool := flag b 101
def bCredit (b : W128) : Nat := fld b 100 89
def bSigCore (b : W128) : Nat := fld b 88 80

/-! Group entries (11 Table 11-10) -/
def grParent (g : BitVec 256) : Nat := fld g 255 240
def grChildren (g : BitVec 256) : Nat := fld g 239 224
def grMembers (g : BitVec 256) : Nat := fld g 223 208
def grCtx (g : BitVec 256) : Nat := fld g 207 204
def grKind (g : BitVec 256) : Nat := fld g 203 202
def grValid (g : BitVec 256) : Bool := flag g 201
def grChildList (g : BitVec 256) : Nat := fld g 175 132
def grMemberList (g : BitVec 256) : Nat := fld g 131 88
def grDest (g : BitVec 256) : Nat := fld g 87 40
def grSeg (g : BitVec 256) : Nat := fld g 39 8

/-- Whether an ID names a group (R252). -/
def isGroup (id : Nat) : Bool := decide (id ≥ 0xC000)
/-- The entry of a group ID. -/
def State.groupOf (s : State) (id : Nat) : BitVec 256 := s.group (id - 0xC000)

/-- `n` 16-bit module IDs at a long-range offset. -/
def State.idList (s : State) (off n : Nat) : List Nat := (List.range n).map fun k => leNat (s.rdLong (off + 2 * k) 2)

def State.treeChildren (s : State) (g : BitVec 256) : List Nat := s.idList (grChildList g) (grChildren g)
/-- Parent and children of this module in a group's tree. -/
def State.treeNeighbours (s : State) (g : BitVec 256) : List Nat :=
  (if grParent g = 0xFFFF then [] else [grParent g]) ++ s.treeChildren g

/-- Whether a module has a VALID route entry (R253). -/
def State.hasRoute (s : State) (m : Nat) : Bool := flag (s.route m) 31

/-! Packing (06 Table 06-2) -/
def packPayload (m : Nat) : Nat := if m = 1 then 512 else 384
def packSize (m : Nat) : Nat := packPayload m + 16

/-- Packs `k` tiles of 544 bytes. -/
def packTiles (m : Nat) : Nat → List Byte → List Byte
  | 0, _ => []
  | k + 1, l => l.take (packPayload m) ++ (l.drop 512).take 16 ++ packTiles m k (l.drop 544)

/-- Unpacks `k` tiles. -/
def unpackTiles (m : Nat) : Nat → List Byte → List Byte
  | 0, _ => []
  | k + 1, l =>
    l.take (packPayload m) ++ zeroBytes (512 - packPayload m) ++ (l.drop (packPayload m)).take 16 ++ zeroBytes 16
      ++ unpackTiles m k (l.drop (packSize m))

/-- Bytes of an operation as they are written at a destination (R258). -/
def wireLen (pack n : Nat) : Nat := if pack = 0 then n else n / 544 * packSize pack
def wireBytes (pack : Nat) (l : List Byte) : List Byte := if pack = 0 then l else packTiles pack (l.length / 544) l

/-- Where byte `p` of a returned packed stream is written in the local destination. -/
def unpackAt (m p : Nat) : Nat :=
  let r := p % packSize m
  p / packSize m * 544 + (if r < packPayload m then r else 512 + (r - packPayload m))

/-- Writes returned bytes into the local destination from stream byte `p`; the last byte of a packed tile also writes
zeros into the bytes that packing omits (06 R136). -/
def State.wrReturned (s : State) (core laddr pack : Nat) : Nat → List Byte → State
  | _, [] => s
  | p, b :: r =>
    let s1 := s.wrLocal core (laddr + unpackAt pack p) [b]
    let t := laddr + p / packSize pack * 544
    let s2 := if p % packSize pack + 1 = packSize pack then
        (s1.wrLocal core (t + packPayload pack) (zeroBytes (512 - packPayload pack))).wrLocal core (t + 528) (zeroBytes 16)
      else s1
    s2.wrReturned core laddr pack (p + 1) r

/-- Returned bytes written at a core: contiguous, or unpacked. -/
def State.writeReturned (s : State) (core laddr pack p : Nat) (d : List Byte) : State :=
  if pack = 0 then s.wrLocal core (laddr + p) d else s.wrReturned core laddr pack p d

/-! Signals (R274, R275) -/

/-- Applies a signal at a core: the increment, and RECV records of classes in XFER_TC. -/
def State.applySignal (s : State) (src msg core ctr cls amount : Nat) : State :=
  let s1 := s.ctrAdd core ctr amount
  let k := core / 8
  if (fld (s.getCluster k).traceBank 242 239).testBit cls then
    s1.trace k (core % 8) 4 (msg % 2 ^ 48 * 2 ^ 32 + src % 2 ^ 16 * 2 ^ 16 + core % 512 * 2 ^ 7 + ctr % 64 * 2)
  else s1

/-- Bytes of a signalled operation written or refused at this module; true when the pending table had no room. -/
def State.sigBytes (s : State) (src msg total core ctr cls written refused : Nat) : State × Bool :=
  let k := core / 64
  let d := s.getDie k
  match d.pendLost.find? fun e => e.1 == src && e.2.1 == msg with
  | some e =>
    let left := e.2.2 - (written + refused)
    let rest := d.pendLost.filter fun e => !(e.1 == src && e.2.1 == msg)
    ((s.setDie k { d with pendLost := if left = 0 then rest else rest ++ [(src, msg, left)] }).addOd 0x2510 6 1, true)
  | none =>
    let old := d.pendSig.find? fun e => e.src == src && e.msg == msg
    if old.isNone ∧ d.pendSig.length ≥ 4096 then
      let left := total - (written + refused)
      ((s.setDie k { d with pendLost := if left = 0 then d.pendLost else d.pendLost ++ [(src, msg, left)] }).addOd
        0x2510 6 1, true)
    else
      let e := old.getD ⟨src, msg, total, 0, 0, core, ctr, s.time.sweep⟩
      let e := { e with written := e.written + written, refused := e.refused + refused }
      let rest := d.pendSig.filter fun x => !(x.src == src && x.msg == msg)
      let n := rest.length + 1
      let s0 := if n > s.od 0x2510 7 then s.setOd 0x2510 7 n else s
      if e.written + e.refused < e.total then (s0.setDie k { d with pendSig := rest ++ [e] }, false)
      else
        let s1 := s0.setDie k { d with pendSig := rest }
        (if e.refused = 0 then s1.applySignal src msg core ctr cls 1 else s1, false)

/-! Completion (R267, R276 to R278) -/

/-- Records a completion's status in the queue status (Table 11-6). -/
def State.queueStatus (s : State) (q msg st : Nat) : State :=
  let w := tblGet w128z s.qstatus q
  if isError st then
    let w1 := if fld w 63 32 = 0 then setFld (setFld w 127 80 msg) 79 72 st else w
    { s with qstatus := tblSet w128z s.qstatus q (setFld w1 63 32 (satAdd 32 (fld w 63 32) 1)) }
  else if st = stRecovered then
    { s with qstatus := tblSet w128z s.qstatus q (setFld w 31 0 (satAdd 32 (fld w 31 0) 1)) }
  else s

/-- An operation's status: the first error, RECOVERED, or OK (R276). -/
def Xfer.final (x : Xfer) : Nat := if x.status ≠ 0 then x.status else if x.recovered then stRecovered else stOk

/-- Folds a frame's status into an operation. -/
def Xfer.fold (x : Xfer) (st : Nat) : Xfer :=
  if isError st then (if x.status = 0 then { x with status := st } else x)
  else if st = stRecovered then { x with recovered := true } else x

/-- Marks the command of a host queue that an operation carries out as done. -/
def State.hostDone (s : State) (q seq st bytes : Nat) : State :=
  let h := s.getQ q
  s.setQ q { h with cmds := h.cmds.map fun c =>
    if c.seq % 2 ^ 24 = seq ∧ c.started ∧ c.done.isNone then { c with done := some (st, bytes) } else c }

/-- The message ID of a host queue's command: counts above 2^38 of core 511, which no core reaches while an operation
with the same ID is in flight (log 25). -/
def hostMsg (q seq : Nat) : Nat := 511 * 2 ^ 39 + 2 ^ 38 + q * 2 ^ 24 + seq % 2 ^ 24

/-- Rank of a Prism job's status: the first of ACCESS_FAULT, POISON, DEADLINE_MISS that applies (14 R326). -/
def prismRank (st : Nat) : Nat :=
  if st = stAccess then 3 else if st = stPoison then 2 else if st = stDeadline then 1 else 0

/-- A status that ends a running Prism job, at a placement. -/
def PrismRun.fails (r : PrismRun) (st n : Nat) : PrismRun :=
  { r with
    status := if prismRank st > prismRank r.status then st else r.status,
    fail := some (match r.fail with
      | some m => Nat.min m n
      | none => n),
    stopped := true }

/-- The message ID of a Prism placement: counts above 2^38 of core 510 (log 25). -/
def prismMsg (die n : Nat) : Nat := 510 * 2 ^ 39 + 2 ^ 38 + die * 2 ^ 33 + n % 2 ^ 32

/-- A placement's XPUT has ended (14 R326). -/
def State.prismDone (s : State) (die n st : Nat) : State :=
  s.modDie die fun d => match d.prismRun with
    | some r => { d with prismRun := some (if prismRank st > 1 then r.fails st n
        else if st = stRecovered then { r with recovered := true } else r) }
    | none => d

/-- What a completion does at the source, whatever its status: CTR, byte counters, queue status, and the cut. -/
def State.complete (s : State) (x : Xfer) (forced : Bool) : State :=
  let st := x.final
  let s1 := if x.queue < 65536 then s.queueStatus x.queue x.msg st else s
  if x.core < 512 then
    let s2 := s1.ctrDone x.core x.ctr
    let s3 := if x.len = 0 ∨ x.kind = .sig ∨ x.kind = .fence then s2
      else s2.modCore x.core fun c => c.count (0x540 + 8 * x.served) (cdiv x.len 64)
    if isError st ∧ (forced ∨ bHalt (s.binding x.queue)) then s3.cutCtx (s.ctxOfCore x.core) cutTransfer else s3
  else if x.core = 512 then
    let s2 := s1.hostDone x.laddr (x.msg % 2 ^ 24) st x.moved
    if isError st ∧ bHalt (s.binding x.queue) ∧ x.queue < 65536 then s2.cutNext (2 ^ bCtx (s.binding x.queue)) cutTransfer
    else s2
  else if x.core ≤ 520 then
    let s2 := s1.prismDone (x.core - 513) (x.msg % 2 ^ 32) st
    if isError st ∧ (forced ∨ bHalt (s.binding x.queue)) then s2.cutNext (2 ^ bCtx (s.binding x.queue)) cutTransfer else s2
  else s1

/-- Whether an operation that precedes a fence in the list is one it waits for. -/
def Xfer.precedes (x f : Xfer) : Bool := x.core == f.core && x.queue == f.queue

/-- The first fence that waits for nothing. -/
def readyFence : List Xfer → List Xfer → Option Xfer
  | _, [] => none
  | before, x :: r =>
    if x.kind = .fence ∧ !(before.any fun y => y.precedes x) then some x else readyFence (before ++ [x]) r

/-- Completes every fence that waits for nothing. -/
def State.fences : Nat → State → State
  | 0, s => s
  | n + 1, s =>
    match readyFence [] s.ops with
    | some f => State.fences n ((({ s with ops := s.ops.erase f } : State)).complete f false)
    | none => s

/-- Ends an operation. -/
def State.finishOp (s : State) (x : Xfer) : State :=
  let ops := s.ops.filter fun y => !(y.msg == x.msg && y.core == x.core)
  State.fences ops.length (({ s with ops := ops } : State).complete x false)

/-- Changes an operation in flight, and ends it when nothing of it is outstanding. -/
def State.setOp (s : State) (x : Xfer) : State :=
  if !x.own ∧ x.awaited = 0 then s.finishOp x
  else { s with ops := s.ops.map fun y => if y.msg = x.msg ∧ y.core = x.core then x else y }

/-- Whether a fence issued earlier on the queue holds an operation (R271 item 4). -/
def heldByFence (ops : List Xfer) (q msg : Nat) : Bool :=
  match ops with
  | [] => false
  | y :: r => if y.msg = msg then false else (y.kind == .fence && y.queue == q) || heldByFence r q msg

/-! Frames of an operation (R258) -/

/-- Pieces of 4,096 bytes with their offsets. -/
def pieces : Nat → Nat → List Byte → List (Nat × List Byte)
  | 0, _, _ => []
  | n + 1, off, l => if l.isEmpty then [] else (off, l.take 4096) :: pieces n (off + 4096) (l.drop 4096)

def framePieces (l : List Byte) : List (Nat × List Byte) := pieces (cdiv l.length 4096) 0 l

/-- Sends the frames of an operation's data to a destination, along the routes of `hops`. -/
def State.sendData (s : State) (dest kind tc q : Nat) (a : FrameArgs) (d : List Byte) (hops : List Nat) (die : Nat) : State :=
  (framePieces d).foldl (fun s p =>
    let f := s.mkFrame dest kind tc { a with total := d.length, foffset := p.1 } p.2
    hops.foldl (fun s h => s.sendVia f q h (some die)) s) s

/-! Issue (R261 to R273, R279) -/

/-- What an operation asks for. -/
structure Request where
  who : Nat            -- issuing core; 512 a host queue; 513 + die a Prism
  ctx : Option Nat     -- its context
  msg : Nat
  kind : XKind
  ctr : Nat
  queue : Nat
  gaddr : W64
  laddr : Nat
  len : Nat
  fmt : Nat
  sig : Bool
  sigCtr : Nat
  sigAt : Option Nat := none -- the core signalled, where the request names it (20 Table 20-6)
  deriving DecidableEq, Repr

/-- The queue checks of R262. -/
def State.queueRefuses (s : State) (r : Request) : Bool :=
  let b := s.binding r.queue
  let d := bDest b
  !bValid b || r.ctx != some (bCtx b) || (r.kind != .fence && gaModule r.gaddr != d)
    || (if isGroup d then !grValid (s.groupOf d) else d != s.moduleId && !s.hasRoute d)

/-- Element bytes of an XADD format. -/
def addElem (fmt : Nat) : Nat := if fmt = 2 then 2 else 4

/-- The status that ends an operation before any frame is sent (R23, R225, 06 R135, R265, R269, R270, R273). -/
def State.sourceStatus (s : State) (r : Request) : Nat :=
  let b := s.binding r.queue
  let d := bDest b
  let sp := gaSpace r.gaddr
  let off := gaOffset r.gaddr
  let g := s.groupOf d
  if r.kind = .fence then stOk
  else if sp ≥ 3 then stAccess
  else if isGroup d ∧ grKind g = 1 ∧ (r.kind = .add ∨ r.kind = .get) then stAccess
  else if isGroup d ∧ grKind g = 2 ∧ (r.kind ≠ .add ∨ sp ≠ 0) then stAccess
  else if isGroup d ∧ grKind g ≠ 1 ∧ grKind g ≠ 2 then stAccess
  else if r.kind = .sig ∧ ¬ (sp = 1 ∧ fld r.gaddr 31 0 = 0 ∧ fld r.gaddr 43 41 = 0) then stAccess
  else if r.kind = .add ∧ (sp = 2 ∨ (r.len ≠ 0 ∧ (off % addElem r.fmt ≠ 0 ∨ r.len % addElem r.fmt ≠ 0))) then stAccess
  else if (r.kind = .put ∨ r.kind = .get) ∧ r.len ≠ 0 ∧ bSide b ∧ sp = 0 ∧ (r.len % 544 ≠ 0 ∨ off % 512 ≠ 0) then stAccess
  else if (r.kind = .put ∨ r.kind = .get) ∧ r.len ≠ 0 ∧ bPack b ≠ 0 ∧ r.len % 544 ≠ 0 then stAccess
  else if bTc b = 3 ∧ d ≠ s.moduleId ∧ !s.allowed d then stDenied
  else stOk

/-- The core that a signal of an operation names (R270). -/
def State.sigTarget (s : State) (r : Request) : Nat :=
  match r.sigAt with
  | some c => c
  | none => if gaSpace r.gaddr = 1 then fld r.gaddr 40 32 else bSigCore (s.binding r.queue)

/-- The pieces of a reduce-scatter (R273): for each owner its target address and the bytes of the vector it takes. -/
def reducePieces (g : BitVec 256) (off : Nat) (d : List Byte) : List (Nat × Nat × List Byte) :=
  let seg := grSeg g
  let n := grMembers g
  let ix := (List.range d.length).zip d
  ((List.range n).map fun rank =>
    let mine := ix.filter fun p => (off + p.1) / seg % n == rank
    let x := off + ((mine.head?.map Prod.fst).getD 0)
    (rank, grDest g + x / seg / n * seg + x % seg, mine.map Prod.snd)).filter fun p => !p.2.2.isEmpty

/-- The die on which the frames of an issuer are formed: a core's, an engine's, H0 for a host queue (01 R470). -/
def issuerDie (who : Nat) : Nat := if who < 512 then coreDie who else if 513 ≤ who ∧ who ≤ 520 then who - 513 else hubH0

/-- The operation that a request starts, before its own part and its frames are counted. -/
def State.newOp (s : State) (r : Request) (d : List Byte) : Xfer :=
  let b := s.binding r.queue
  let sp := gaSpace r.gaddr
  let plain := r.kind = .put ∨ r.kind = .get
  { msg := r.msg, core := r.who, queue := r.queue, kind := r.kind, ctr := r.ctr, gaddr := r.gaddr, laddr := r.laddr,
    len := r.len, fmt := r.fmt, sig := r.sig, sigCore := s.sigTarget r, sigCtr := r.sigCtr, moved := 0, awaited := 0,
    own := false, ownAddr := r.gaddr.toNat % 2 ^ 48, ownPos := 0, data := d, pack := if plain then bPack b else 0, side := decide plain && bSide b && sp == 0,
    status := 0, recovered := false,
    served := if bDest b ≠ s.moduleId then 4 else if sp = 0 then 1 else if sp = 1 then 0 else 3 }

/-- Sends one SIGNAL frame (R270, R279). -/
def State.sendSignal (s : State) (x : Xfer) (dest amount : Nat) (hops : List Nat) : State :=
  let f := s.mkFrame dest 4 (bTc (s.binding x.queue))
    { msg := x.msg, addr := x.gaddr.toNat % 2 ^ 48, total := amount, sigCore := x.sigCore, sigCtr := x.sigCtr, sig := true } []
  hops.foldl (fun s h => s.sendVia f x.queue h (some (issuerDie x.core))) s

/-- A signal towards a core of this module that no operation waits for (R279). -/
def State.looseSignal (s : State) (x : Xfer) : State :=
  { s with ops := s.ops ++ [{ x with core := 1024, kind := .sig, ctr := 63, len := 1, own := true, data := [] }] }

/-- The members of a REDUCE group in rank order. -/
def State.reduceMembers (s : State) (g : BitVec 256) : List Nat := s.idList (grMemberList g) (grMembers g)

/-- A request of length zero (03 R78, R279): at once OK, with its signal. -/
def State.zeroLength (s : State) (r : Request) : State :=
  let x := s.newOp r []
  let d := bDest (s.binding r.queue)
  if r.kind = .sig ∨ r.kind = .get ∨ !r.sig then s
  else if isGroup d then
    let g := s.groupOf d
    if grKind g = 1 then (s.sendSignal x d 1 (s.treeNeighbours g)).looseSignal x
    else (s.reduceMembers g).foldl (fun s m => if m = s.moduleId then s.looseSignal x else s.sendSignal x m 1 [m]) s
  else if d = s.moduleId then s.looseSignal x
  else s.sendSignal x d 1 [d]

/-- Starts an operation that moves something: frames to other modules, a part inside the package. -/
def State.startOp (s : State) (r : Request) (src : List Byte) : State :=
  let b := s.binding r.queue
  let d := bDest b
  let x := s.newOp r (wireBytes (if r.kind = .put then bPack b else 0) src)
  let a : FrameArgs :=
    { msg := x.msg, addr := x.gaddr.toNat % 2 ^ 48, sigCore := x.sigCore, sigCtr := x.sigCtr,
      sig := x.sig, packed := decide (x.pack ≠ 0), sidecar := x.side, fmt := if r.kind = .add then r.fmt else 0 }
  let die := issuerDie r.who
  let push (s : State) (x : Xfer) : State := { s with ops := s.ops ++ [x] }
  if r.kind = .fence then
    if s.ops.any fun y => y.precedes x then push s { x with own := true }
    else s.complete x false
  else if isGroup d then
    let g := s.groupOf d
    if grKind g = 2 then
      (reducePieces g (gaOffset r.gaddr) x.data).foldl (fun s p =>
        let m := (s.reduceMembers g).getD p.1 0
        let core := if p.2.1 / 2 ^ 44 = 1 then p.2.1 / 2 ^ 32 % 512 else x.sigCore
        let upd (s : State) (own : Bool) (k : Nat) : State := { s with ops := s.ops.map fun y =>
          if y.msg = x.msg ∧ y.core = x.core then
            { y with awaited := y.awaited + k, own := y.own || own,
                     ownAddr := if own then p.2.1 else y.ownAddr,
                     sigCore := if own then core else y.sigCore,
                     data := if own then p.2.2 else y.data } else y }
        if m = s.moduleId then upd s true 0
        else upd (s.sendData m 3 (bTc b) r.queue { a with addr := p.2.1, sigCore := core } p.2.2 [m] die) false
            (framePieces p.2.2).length)
        (push s { x with data := [], served := 4 })
    else
      let hops := s.treeNeighbours g
      if r.kind = .sig then
        push (s.sendSignal x d r.len hops) { x with own := true, awaited := hops.length }
      else
        push (s.sendData d 0 (bTc b) r.queue a x.data hops die)
          { x with own := true, awaited := hops.length * (framePieces x.data).length }
  else if d = s.moduleId then push s { x with own := true }
  else if r.kind = .sig then push (s.sendSignal x d r.len [d]) { x with awaited := 1 }
  else if r.kind = .get then
    push (s.send (s.mkFrame d 1 (bTc b) { a with total := wireLen x.pack r.len } []) r.queue die) { x with awaited := 1 }
  else
    push (s.sendData d (if r.kind = .put then 0 else 3) (bTc b) r.queue a x.data [d] die)
      { x with awaited := (framePieces x.data).length }

/-- Runs a request: its checks, and its start or its completion at once (R262, R276 to R279). -/
def State.request (s : State) (r : Request) (src : List Byte) : State :=
  let refused := s.queueRefuses r
  let st := if refused then stAccess else s.sourceStatus r
  if st ≠ stOk then
    let s1 := if st = stDenied then s.denial else s
    s1.complete { s.newOp r [] with status := st } refused
  else if r.len = 0 ∧ r.kind ≠ .fence then
    let s1 := s.zeroLength r
    if r.who < 512 then s1.modCore r.who fun c => if r.ctr < 48 then c.pend r.ctr false 1 c.pc 1 else c
    else s1.complete (s1.newOp r []) false
  else s.startOp r src

/-- The code of a transfer kind in Table 17-1. -/
def kindCode : XKind → Nat
  | .put => 0
  | .get => 1
  | .add => 2
  | .sig => 3
  | .fence => 4

/-- Issue of a transfer instruction: its counters, its message ID, its SEND record and its operation (R259). -/
def xferBody (k : XKind) (core : Nat) (i : Insn) (s : State) : State :=
  let c := s.getCore core
  let q := fld i.imm 47 32
  let b := s.binding q
  let msg := core * 2 ^ 39 + c.msgCount % 2 ^ 39
  let s1 := s.modCore core fun c => { c with msgCount := c.msgCount + 1 }.count (0x4A0 + 32 * kindCode k + 8 * bTc b) 1
  let s2 := if (fld (s.getCluster (core / 8)).traceBank 242 239).testBit (bTc b) then
      s1.trace (core / 8) (core % 8) 3 (msg * 2 ^ 32 + bDest b * 2 ^ 16 + q)
    else s1
  let n := if k = .fence then 0 else fld i.imm 31 0
  let l := (c.rdS i.src2).toNat
  let r : Request :=
    { who := core, ctx := s.ctxOfCore core, msg := msg, kind := k, ctr := i.ctrN, queue := q,
      gaddr := c.rdA i.src1, laddr := l, len := n, fmt := i.fmtN, sig := decide (k = .sig) || i.flagB 0,
      sigCtr := fld i.imm 53 48 }
  s2.request r (if k = .put ∨ k = .add then s.rdLocal core l n else [])

def execXput (core : Fin 512) (i : Insn) (s : State) : Out := issueOp 3 1 core i (xferBody .put core i) s
def execXget (core : Fin 512) (i : Insn) (s : State) : Out := issueOp 3 2 core i (xferBody .get core i) s
def execXadd (core : Fin 512) (i : Insn) (s : State) : Out := issueOp 3 3 core i (xferBody .add core i) s
def execXsig (core : Fin 512) (i : Insn) (s : State) : Out := issueOp 3 4 core i (xferBody .sig core i) s
def execXfence (core : Fin 512) (i : Insn) (s : State) : Out := issueOp 3 5 core i (xferBody .fence core i) s

/-! Sync (12 R283 to R287) -/

def syncIncBody (core : Nat) (i : Insn) (s : State) : State :=
  s.modCore core fun c => c.pend i.ctrN false (fld i.imm 31 0) c.pc i.latency
def execSyncInc (core : Fin 512) (i : Insn) (s : State) : Out := issueOp 4 1 core i (syncIncBody core i) s

def syncDecBody (core : Nat) (i : Insn) (s : State) : State :=
  s.modCore core fun c => c.pend i.ctrN true (fld i.imm 31 0) (c.pc + c.pos) i.latency
def execSyncDec (core : Fin 512) (i : Insn) (s : State) : Out := issueOp 4 2 core i (syncDecBody core i) s

/-- Decrements of one group, in order; one larger than the counter's value faults (R285). -/
def State.applyDecs (s : State) (core : Nat) : List CtrChange → State
  | [] => s
  | d :: r =>
    let s1 := if d.amount > (s.getCore core).ctrVal d.ctr then
        let ctx := s.ctxOfCore core
        let first := !(s.getCore core).faulted
        let s2 := s.takeFault core d.pc 3 8
        if first then s2.dumpAfter ctx 2 core d.ctr else s2
      else s.ctrSub core d.ctr d.amount
    s1.applyDecs core r

/-- Splits the pending changes of a counter into those whose places a list names and the rest. -/
def pickChanges (ctr : Nat) (picks : List Nat) : Nat → List CtrChange → List CtrChange × List CtrChange
  | _, [] => ([], [])
  | n, x :: r =>
    if x.ctr = ctr then
      let p := pickChanges ctr picks (n + 1) r
      if picks.contains n then (x :: p.1, p.2) else (p.1, x :: p.2)
    else
      let p := pickChanges ctr picks n r
      (p.1, x :: p.2)

/-- Whether changes can reach their counter in one cycle, and no later than those that stay behind: a change of the same or an
earlier group with no longer a latency comes before, and changes of one group meet where their latencies agree (R283, 03 R68). -/
def sameCycle (now later : List CtrChange) : Bool :=
  !now.isEmpty
    && (now.all fun y => later.all fun x => !(x.ctr == y.ctr && decide (x.group ≤ y.group ∧ x.latency ≤ y.latency)))
    && (now.all fun y => now.all fun x =>
        if x.group = y.group then x.latency == y.latency else decide (x.group < y.group ↔ y.latency < x.latency))

/-- Changes of a counter reach it in one cycle: increments, then decrements; a wait tests the value at the cycle's end (R283, R286).
`picks` names them among the counter's pending changes, oldest first; the cycles between groups are not modelled (log 3). -/
def execCounterApply : Fin 512 → CtrPicks → State → Out
  | core, ⟨ctr, picks⟩, s =>
    let c := s.getCore core
    let p := pickChanges ctr.toNat picks 0 c.ctrPend
    if ¬ sameCycle p.1 p.2 then .next s
    else
      let s1 := s.setCore core { c with ctrPend := p.2 }
      let s2 := s1.ctrRaise core ctr.toNat ((p.1.filter fun x => !x.dec).foldl (fun n x => n + x.amount) 0)
      .next ((s2.applyDecs core (p.1.filter CtrChange.dec)).modCore core Core.latchWait)

def syncWaitBody (core : Nat) (i : Insn) (s : State) : State :=
  s.modCore core fun c =>
    { c with wait := some ⟨i.ctrN, fld i.imm 31 0, fld i.imm 63 32, s.time.sweep, s.time.boundaries, false, false, 0⟩ }.latchWait
def execSyncWait (core : Fin 512) (i : Insn) (s : State) : Out := issueOp 4 3 core i (syncWaitBody core i) s

/-- ⌊log₂ x⌋ sample of a wait (13 R304, 17 R394): its cycles as FP32. -/
def waitSample (n : Nat) : W32 := rne32 (FV.ofNat n)

/-- The cycles that a wait has lasted: what its ticks allow, and within it the operand (R304; log 3). -/
def Wait.cycles (w : Wait) (cc : Nat) : Nat := if w.ticks = 0 then cc % 18 else (w.ticks - 1) * 18 + 1 + cc % 35

/-- The recorder channels to which a stage's wait goes: its credit counter's, its slot counter's, or both (13 R304). -/
def stallChannels (stage : BitVec 1024) (ctr : Nat) : List Nat :=
  let base := fld stage 791 780
  (if ctr = fld stage 797 792 then [base] else []) ++ (if ctr = fld stage 803 798 then [base + 1] else [])

/-- Delivers a wait's cycles to a channel. -/
def State.stallSample (s : State) (ctx n k : Nat) : State :=
  let h := s.getChan k
  if h.source = 4 ∧ h.context = ctx ∧ s.chanLive k then s.setChan k (h.sample (waitSample n) (Nat.log2 n : Nat)) else s

/-- A wait is met (R286); its cycles go to the stage's recorder channels (13 R304). -/
def execWaitMet (core : Fin 512) (cc : Nat) (s : State) : Out :=
  let c := s.getCore core
  match c.wait with
  | none => .next s
  | some w =>
    if ¬ w.met ∨ w.timedOut ∨ c.run ≠ .running then .next s
    else
      let s1 := s.setCore core { c with wait := none }
      match s.ctxOfCore core with
      | none => .next s1
      | some x =>
        let st := (s.getCtx x).stage
        if ¬ flag st 779 then .next s1
        else .next ((stallChannels st w.ctr).foldl (fun s k => s.stallSample x (w.cycles cc) k) s1)

/-- A wait that no value has met by its boundary times out (R287). -/
def execWaitTimeout (core : Fin 512) (s : State) : Out :=
  let c := s.getCore core
  match c.wait with
  | none => .next s
  | some w =>
    if w.met ∨ w.timedOut ∨ c.run ≠ .running ∨ w.timeout = 0 ∨ s.time.boundaries < w.boundary + w.timeout + 1 ∨ s.time.tick ≠ 0 then .next s
    else
      let ctx := s.ctxOfCore core
      let s1 := s.setCore core { c with wait := some { w with timedOut := true } }
      .next (((s1.cutCtx ctx cutSync).countSync ctx 1).dumpAfter ctx 1 core w.ctr)

end Sys2Proof.Machine
end

