-- ==== Sys2Proof/Machine/Records.lean ====
section
/-!
DEFINITION. Shard records (09 R208, R209, Tables 09-5 and 09-6), completion records, and the accesses of an engine
through a global address (08 R169).
-/

namespace Sys2Proof.Machine

/-! Shard record headers -/
def hMagic (h : BitVec 1024) : Nat := fld h 31 0
def hVersion (h : BitVec 1024) : Nat := fld h 47 32
def hFmt (h : BitVec 1024) : Nat := fld h 55 48
def hRank (h : BitVec 1024) : Nat := fld h 63 56
def hTensor (h : BitVec 1024) : Nat := fld h 95 64
def hWeightVersion (h : BitVec 1024) : Nat := fld h 127 96
def hLength (h : BitVec 1024) : Nat := fld h 255 192
def hTscale (h : BitVec 1024) : Nat := fld h 287 256
def hLayout (h : BitVec 1024) : Nat := fld h 303 288
def hFull (h : BitVec 1024) (d : Nat) : Nat := fld h (320 + 96 * d + 31) (320 + 96 * d)
def hOffset (h : BitVec 1024) (d : Nat) : Nat := fld h (320 + 96 * d + 63) (320 + 96 * d + 32)
def hExtent (h : BitVec 1024) (d : Nat) : Nat := fld h (320 + 96 * d + 95) (320 + 96 * d + 64)

def setDim (h : BitVec 1024) (d full off ext : Nat) : BitVec 1024 :=
  setFld (setFld (setFld h (320 + 96 * d + 31) (320 + 96 * d) full) (320 + 96 * d + 63) (320 + 96 * d + 32) off)
    (320 + 96 * d + 95) (320 + 96 * d + 64) ext

/-- A header (Table 09-5) without dimensions. -/
def mkHeader (layout tscale len step version tid rank fmt : Nat) : BitVec 1024 :=
  BitVec.ofNat 1024 (layout % 2 ^ 16 * 2 ^ 288 + tscale % 2 ^ 32 * 2 ^ 256 + len % 2 ^ 64 * 2 ^ 192
    + step % 2 ^ 64 * 2 ^ 128 + version % 2 ^ 32 * 2 ^ 96 + tid % 2 ^ 32 * 2 ^ 64 + rank % 256 * 2 ^ 56
    + fmt % 256 * 2 ^ 48 + 2 ^ 32 + 0x44585348)

/-- Bytes of an element of a format (00 Table 00-3). -/
def elemBytes (fmt : Nat) : Nat :=
  if fmt = 0xB ∨ fmt = 0xC then 8 else if fmt = 1 ∨ fmt = 0x10 then 4 else if fmt = 2 ∨ fmt = 3 then 2 else 1

/-- Product of the extents of the first `n` dimensions. -/
def hProduct (h : BitVec 1024) (n : Nat) : Nat := (List.range n).foldl (fun p d => p * hExtent h d) 1
def hRows (h : BitVec 1024) : Nat := hProduct h (hRank h - 1)
def hCols (h : BitVec 1024) : Nat := if hRank h = 0 then 1 else hExtent h (hRank h - 1)

/-- PAYLOAD_LENGTH (Table 09-6). -/
def payloadLength (h : BitVec 1024) : Nat :=
  let l := hLayout h
  if l = 0 then hProduct h (hRank h) * elemBytes (hFmt h)
  else if l = 1 then cdiv (hRows h) 16 * cdiv (hCols h) (lineElems (hFmt h)) * footprint (hFmt h)
  else if l = 2 then cdiv (hRows h) 16 * cdiv (hCols h) (lineElems (hFmt h)) * (if hFmt h ≤ 7 then 528 else 400)
  else if l = 3 then cdiv (hExtent h 0) 16 * cdiv (hExtent h 0) 16 * 256 * elemBytes (hFmt h)
  else cdiv (hProduct h (hRank h)) 128 * 68

/-- The formats and ranks that a layout allows (Table 09-6). -/
def layoutOk (h : BitVec 1024) : Bool :=
  let f := hFmt h
  let l := hLayout h
  if l = 0 then decide ((1 ≤ f ∧ f ≤ 5) ∨ f = 0xB ∨ f = 0xC ∨ f = 0x10)
  else if l = 1 then decide (1 ≤ f ∧ f ≤ 0xB ∧ hRank h ≥ 2)
  else if l = 2 then decide (6 ≤ f ∧ f ≤ 9 ∧ hRank h ≥ 2)
  else if l = 3 then decide ((f = 1 ∨ f = 0xB) ∧ hRank h = 2 ∧ hExtent h 0 = hExtent h 1)
  else decide (l = 4 ∧ f = 0)

/-- Whether a header keeps Table 09-5, R209 and Table 09-6, its length apart. -/
def headerOk (h : BitVec 1024) : Bool :=
  hMagic h == 0x44585348 && hVersion h == 1 && fld h 1023 896 == 0 && fld h 319 304 == 0 && decide (hRank h ≤ 6)
    && (List.range 6).all (fun d =>
        if d < hRank h then decide (hOffset h d + hExtent h d ≤ hFull h d) else fld h (320 + 96 * d + 95) (320 + 96 * d) == 0)
    && layoutOk h

/-! Accesses of an engine -/

/-- What an engine's read gives. -/
structure EngineRead where
  data : List Byte
  fault : Bool
  poison : Bool
  deriving DecidableEq, Repr

/-- As whom an engine's access is checked: its context; for a job that no context submitted (16), as each region's own context, the
check of a host access (20 R449; log 26); as nobody for the solver engine of a cluster that no context owns (17; 08 R169). -/
def engineWho (ctx : Nat) : Who := if ctx < 16 then .ctx ctx else if ctx = 16 then .owner else .nobody

/-- The ranges of the long range among global addresses and lengths. -/
def State.ownRanges (s : State) (l : List (W64 × Nat)) : List (Nat × Nat) :=
  (l.filter fun r => gaModule r.1 == s.moduleId && gaSpace r.1 == 0).map fun r => (gaOffset r.1, r.2)

/-- What a unit's reads of the long range meet first: what the codes find during them (10 R216), the ladders, and the touch of every
mapped page (R236). `false` where a ladder holds a page, or its die can take no further one: the reads wait (R243). -/
def State.unitReads (s : State) (core : Nat) (hw : HwEvent) (l : List (Nat × Nat)) : State × Bool :=
  if s.ladderFull hw then (s, false)
  else
    let s1 := s.memEvent core hw
    if l.any fun r => (s1.heldAt r.1 r.2).isSome then (s1, false)
    else ((l.flatMap fun r => pagesOf r.1 r.2).foldl (fun s p => if (s.regionOf p).isSome then s.touch false p else s) s1, true)

/-- A ladder holds a page of some of these ranges. -/
def State.rangesHeld (s : State) (l : List (W64 × Nat)) : Bool := (s.ownRanges l).any fun r => (s.heldAt r.1 r.2).isSome

/-- `n` bytes at a global address, read for a context. A group or a reserved SPACE is refused (01 R23, R25). Bytes of another module come from outside: they are a free
value (log 26). -/
def State.engineRead (s : State) (ctx : Nat) (a : W64) (n : Nat) : EngineRead :=
  if n = 0 then ⟨[], false, false⟩
  else if 0xC000 ≤ gaModule a ∨ 3 ≤ gaSpace a then ⟨[], true, false⟩
  else if gaModule a ≠ s.moduleId then
    ⟨(List.range n).map fun k => (Config.freeWord2 s.freeCtr (a.toNat + k)).truncate 8, false, false⟩
  else if gaSpace a = 0 then
    if s.longOk (engineWho ctx) false (gaOffset a) n then
      if s.readPoison (gaOffset a) n then ⟨(List.range n).map poisonByte, false, true⟩
      else ⟨s.rdLong (gaOffset a) n, false, false⟩
    else ⟨[], true, false⟩
  else if gaSpace a = 1 ∧ fld a 43 41 = 0 ∧ localOk (fld a 31 0) n then
    ⟨s.rdLocal (fld a 40 32) (fld a 31 0) n, false, false⟩
  else ⟨[], true, false⟩

/-- Whether an engine may write `n` bytes at a global address. -/
def State.engineOk (s : State) (ctx : Nat) (a : W64) (n : Nat) : Bool :=
  if gaModule a ≠ s.moduleId then decide (gaSpace a ≤ 1) && s.hasRoute (gaModule a)
  else if gaSpace a = 0 then s.longOk (engineWho ctx) true (gaOffset a) n
  else decide (gaSpace a = 1) && fld a 43 41 == 0 && localOk (fld a 31 0) n

/-- Writes bytes for a context; nothing where it may not. Bytes for another module leave in PUT frames (TC2), formed on the
die of the engine that writes (01 R470). -/
def State.engineWrite (s : State) (ctx : Nat) (a : W64) (d : List Byte) (die : Nat := hubH0) : State :=
  if ¬ s.engineOk ctx a d.length then s
  else if gaModule a ≠ s.moduleId then
    s.sendData (gaModule a) 0 2 65536 { addr := a.toNat % 2 ^ 48 } d [gaModule a] die
  else if gaSpace a = 0 then s.writeOrHold (gaOffset a) d
  else s.wrLocal (fld a 40 32) (fld a 31 0) d

/-- The counter that a job's end increments; 0x3F names none. -/
def State.doneCtr (s : State) (core ctr : Nat) : State := s.ctrDone core ctr

/-- A 16-byte completion record with BYTES, a middle field and STATUS (09 R210, 14 R326). -/
def completion16 (bytes mid st : Nat) : List Byte :=
  leBytes 16 (bytes % 2 ^ 64 * 2 ^ 64 + mid % 2 ^ 32 * 2 ^ 32 + st % 256)

end Sys2Proof.Machine
end

