-- ==== Sys2Proof/Machine/Observe.lean ====
section
/-!
DEFINITION. Observability (17): MARK and LOUPE, snapshots, trace banks, watches, the Spectrum recorder and its
sentinel.
-/

namespace Sys2Proof.Machine

/-! MARK (R379, R384) -/
def markBody (core : Nat) (i : Insn) (s : State) : State :=
  let k := core / 8
  let c := s.getCore core
  let tag := fld i.imm 31 0
  let s1 := if flag (s.getCluster k).traceBank 238 then
      let s1 := s.trace k (core % 8) 2 (tag * 2 ^ 48 + (c.pc + c.pos) % 4096 * 2 ^ 36)
      match s1.ctxOfCore core with
      | some x => s1.fireIn (s1.clustersOf x) x 0 fun b => fld b 287 256 == tag
      | none => s1
    else s
  s1.ctrField core i

def execMark (core : Fin 512) (i : Insn) (s : State) : Out := issueOp 5 1 core i (markBody core i) s

/-! LOUPE (R389 to R391) -/
def wDest (w : BitVec 512) : Nat := fld w 511 448
def wState (w : BitVec 512) : Nat := fld w 27 26

/-- Whether a tile matches an ACTIVE watch. -/
def watchMatches (w : BitVec 512) (ctx tid row col : Nat) : Bool :=
  wState w == 2 && fld w 31 28 == ctx && fld w 255 224 == tid
    && (!flag w 23 || (decide (fld w 223 200 ≤ row ∧ row ≤ fld w 199 176) && decide (fld w 175 152 ≤ col ∧ col ≤ fld w 151 128)))

/-- The header of a Loupe record (R391). -/
def loupeHeader (w : BitVec 512) (fmt tscale step version tid row col : Nat) : BitVec 1024 :=
  let n := lineElems fmt
  let h := mkHeader 1 tscale (footprint fmt) step version tid 2 fmt
  let d0 := setDim h 0 (fld w 127 96) (16 * row) (min 16 (fld w 127 96 - 16 * row))
  setDim d0 1 (fld w 95 64) (col * n) (min n (fld w 95 64 - col * n))

/-- Writes a record for a watch, or counts it as one that does not fit. -/
def State.watchRecord (s : State) (n : Nat) (core ctx : Nat) (hdr : BitVec 1024) (tile : List Byte) : State :=
  let w := s.watch n
  let used := fld w 383 320
  let size := roundUp (128 + tile.length) 128
  if used + size > fld w 447 384 then (s.setWatch n (setFlag w 22 true)).addOd 0x2A00 3 1
  else
    let off := wDest w % 2 ^ 44 + used
    if ¬ s.longOk (.ctx ctx) true off size then s
    else
      let s1 := s.longWrite off (leBytes 128 hdr.toNat ++ tile ++ zeroBytes (size - 128 - tile.length))
      let s2 := s1.setWatch n (setFld (setFld w 383 320 (used + size)) 63 32 (fld w 63 32 + 1))
      let s3 := (s2.addOd 0x2A00 2 1).trace (core / 8) (core % 8) 5 (hTensor hdr * 2 ^ 48 + n * 2 ^ 42)
      s3.fireTrigger ctx 3

def loupeBody (core : Nat) (i : Insn) (s : State) : State :=
  let c := s.getCore core
  let d := c.rdT i.src1
  let rec_ := s.rdRec core d
  let n := fld i.imm 5 0
  let row := fld i.imm 29 6
  let col := fld i.imm 53 30 + dIndex d
  let s1 := match s.ctxOfCore core with
    | none => s
    | some x =>
      let w := s.watch n
      if watchMatches w x rec_.tensorId.toNat row col then
        let tile := s.rdLocal core (dAddr d).toNat (footprint (dFmt d))
        s.watchRecord n core x
          (loupeHeader w (dFmt d) rec_.tscale.toNat (s.getCtx x).stepNo.toNat (s.versionOf x) rec_.tensorId.toNat row col) tile
      else s
  s1.ctrField core i

def execLoupe (core : Fin 512) (i : Insn) (s : State) : Out := issueOp 5 2 core i (loupeBody core i) s

/-! Watches (R387, R388) -/

/-- Read-only bits of a watch. -/
def watchRo : Nat := (2 ^ 64 - 1) * 2 ^ 320 + (2 ^ 32 - 1) * 2 ^ 32 + 15 * 2 ^ 24 + 2 ^ 22

/-- A word with the bits of a mask kept from the old value. -/
def keepBits {n : Nat} (old new : BitVec n) (mask : Nat) : BitVec n :=
  (old &&& BitVec.ofNat n mask) ||| (new &&& ~~~(BitVec.ofNat n mask))

def State.watchCheck (s : State) (n : Nat) (w : BitVec 512) : Nat :=
  let old := s.watch n
  let x := s.getCtx (fld w 31 28)
  let writable := (w &&& ~~~(BitVec.ofNat 512 watchRo)).toNat
  if fld w 19 0 ≠ 0 then stAccess
  else if wState old = 1 ∨ wState old = 2 then (if writable = 2 ^ 20 then stOk else stAccess)
  else if flag w 21 ∧ (x.stepNo.toNat > fld w 319 256 ∨ (x.stepNo.toNat = fld w 319 256 ∧ x.stepRun)) then stAccess
  else stOk

def State.watchWrite (s : State) (n : Nat) (w : BitVec 512) : State :=
  let old := s.watch n
  if wState old = 1 ∨ wState old = 2 then s.setWatch n (setFld old 27 26 0)
  else
    let v := setFld (keepBits old w watchRo) 21 20 0
    let v1 := if flag w 21 then setFld (setFld (setFld (setFlag v 22 false) 383 320 0) 63 32 0) 27 24 4 else v
    s.setWatch n (if flag w 20 then setFld v1 27 26 0 else v1)

def execWatchArm (o : Origin) (watch : Fin 64) (w : BitVec 512) (s : State) : Out :=
  .next (s.structWrite o (s.watchCheck watch w) fun s => s.watchWrite watch w)
def execWatchCancel (o : Origin) (watch : Fin 64) (w : BitVec 512) (s : State) : Out :=
  .next (s.structWrite o (s.watchCheck watch w) fun s => s.watchWrite watch w)

/-- ARMED watches whose step starts become ACTIVE (R388). -/
def State.watchesStart (s : State) (ctx : Nat) : State :=
  s.obs.watch.foldl (fun s e =>
    if wState e.2 = 1 ∧ fld e.2 31 28 = ctx ∧ fld e.2 319 256 = (s.getCtx ctx).stepNo.toNat then
      s.setWatch e.1 (setFld e.2 27 26 2)
    else s) s

/-- ACTIVE watches of a context become DONE with an outcome: 0 a cut, 1 COMMIT, 2 DISCARD, 3 REPLAY. -/
def State.watchesDone (s : State) (ctx outcome : Nat) : State :=
  s.obs.watch.foldl (fun s e =>
    if wState e.2 = 2 ∧ fld e.2 31 28 = ctx then
      (s.setWatch e.1 (setFld (setFld e.2 27 26 3) 25 24 outcome)).msixEvent ctx 4
    else s) s

/-! Snapshots (R378) -/
def State.snapshotDue (s : State) : Bool := s.time.held && s.time.tick == 0 && s.time.sweep % s.od 0x2900 1 == 0

def execCounterSnapshot (s : State) : Out :=
  if s.snapshotDue then
    .next ((List.range 512).foldl (fun s n =>
      s.modCore n fun c => { c with shadow := c.counts, shadowSweep := BitVec.ofNat 64 s.time.sweep }) s)
  else .next s

/-! Trace banks (R382 to R385) -/

/-- Read-only bits of a trace bank. -/
def traceRo : Nat := (2 ^ 64 - 1) * 2 ^ 320 + (2 ^ 32 - 1) * 2 ^ 288 + 3 * 2 ^ 243

/-- Whether a host region lies in its DMA window with WRITE permission (20 R451). -/
def State.windowHolds (s : State) (n off len : Nat) : Bool :=
  let w := tblGet w128z s.host.windows n
  decide (n < 64) && flag w 40 && flag w 41 && decide (off + len ≤ fld w 75 48 * 4096)

def State.traceCheck (s : State) (n : Nat) (w : BitVec 512) : Nat :=
  let old := (s.getCluster n).traceBank
  let st := fld old 244 243
  let writable := (w &&& ~~~(BitVec.ofNat 512 traceRo)).toNat
  if fld w 228 0 ≠ 0 ∨ fld w 246 245 = 3 then stAccess
  else if st = 1 ∨ st = 2 then (if writable = 2 ^ 230 ∨ writable = 2 ^ 229 then stOk else stAccess)
  else if flag w 231 ∧ (fld w 511 448 % 4096 ≠ 0 ∨ fld w 447 384 % 4096 ≠ 0 ∨ fld w 447 384 < 8192) then stAccess
  else if flag w 231 ∧ flag w 247 ∧ ¬ s.windowHolds (fld w 255 248) (fld w 511 448) (fld w 447 384) then stDenied
  else stOk

/-- Fires trigger source 5 for a cluster's context, or in the cluster alone. -/
def State.hostTrigger (s : State) (n : Nat) : State :=
  match s.ctxOfCluster n with
  | some x => s.fireTrigger x 5
  | none => s.fireIn [n] 16 5 fun _ => true

def State.traceWrite (s : State) (n : Nat) (w : BitVec 512) : State :=
  let c := s.getCluster n
  let old := c.traceBank
  let st := fld old 244 243
  if st = 1 ∨ st = 2 then
    if flag w 230 then s.hostTrigger n
    else
      let s1 := s.traceDrain n
      let c1 := s1.getCluster n
      s1.setCluster n { c1 with traceBank := setFld c1.traceBank 244 243 3, traceBuf := [] }
  else
    let v := setFld (keepBits old w traceRo) 231 229 0
    let mode := fld w 246 245
    if flag w 231 then
      let v := setFld (setFld v 383 320 0) 319 288 0
      let next := if mode = 1 then 2 else if mode = 2 then 1 else 0
      s.setCluster n { c with
        traceBank := setFld v 244 243 next, traceBufLost := 0,
        traceBuf := if mode = 1 then [syncWord s] else [] }
    else s.setCluster n { c with traceBank := v }

/-- What a write of a trace bank answers when its host region has no window also counts as a denial (19 R442). -/
def State.traceDenial (s : State) (n : Nat) (w : BitVec 512) : State :=
  if s.traceCheck n w = stDenied then s.denial else s

def execTraceStart (o : Origin) (cluster : Fin 64) (w : BitVec 512) (s : State) : Out :=
  .next ((s.traceDenial cluster w).structWrite o (s.traceCheck cluster w) fun s => s.traceWrite cluster w)
def execTraceTrigger (o : Origin) (cluster : Fin 64) (w : BitVec 512) (s : State) : Out :=
  .next (s.structWrite o (s.traceCheck cluster w) fun s => s.traceWrite cluster w)
def execTraceHalt (o : Origin) (cluster : Fin 64) (w : BitVec 512) (s : State) : Out :=
  .next (s.structWrite o (s.traceCheck cluster w) fun s => s.traceWrite cluster w)

/-- One LOSS record and a SYNC when space has returned (R385). -/
def execTraceLossRecord (cluster : Fin 64) (s : State) : Out :=
  .next (s.lossRecord cluster)

/-! Recorder windows and channels (R392 to R397) -/
def wnFirst (w : W128) : Nat := fld w 127 116
def wnCount (w : W128) : Nat := fld w 115 103
def wnLength (w : W128) : Nat := fld w 102 71
def wnSweeps (w : W128) : Bool := flag w 70
def wnValid (w : W128) : Bool := flag w 69
def wnChannels (w : W128) : List Nat := (List.range (wnCount w)).map (wnFirst w + ·)

/-- Whether a channel's context has a step running. -/
def State.chanBusy (s : State) (ch : Nat) : Bool := (s.getCtx (s.getChan ch).context).stepRun

def State.windowCheck (s : State) (n : Nat) (w : W128) : Nat :=
  if fld w 68 0 ≠ 0 ∨ (wnValid w ∧ wnCount w = 0) ∨ wnFirst w + wnCount w > 4096 then stAccess
  else if s.obs.window.any fun e => e.1 != n && wnValid e.2 &&
      decide (wnFirst e.2 < wnFirst w + wnCount w ∧ wnFirst w < wnFirst e.2 + wnCount e.2) then stAccess
  else if (wnChannels w ++ wnChannels (s.window n)).any s.chanBusy then stAccess
  else stOk

/-- A channel that starts again from zero (R395). -/
def Channel.fresh (c : Channel) (sweep : Nat) : Channel :=
  { c with count := 0, zeros := 0, nonfinite := 0, min := 0, max := 0, any := false, bins := [], winStart := sweep,
           attempts := 0, uncommitted := 0 }

def State.windowWrite (s : State) (n : Nat) (w : W128) : State :=
  let s1 : State := { s with obs := { s.obs with
    window := tblSet w128z s.obs.window n w, winCount := tblSet nat0 s.obs.winCount n 0 } }
  if wnValid w then (wnChannels w).foldl (fun s ch => s.setChan ch ((s.getChan ch).fresh s.time.sweep)) s1 else s1

def execRecorderWindow (o : Origin) (window : Fin 256) (w : BitVec 128) (s : State) : Out :=
  .next (s.structWrite o (s.windowCheck window w) fun s => s.windowWrite window w)

/-- A write of a channel definition (Table 17-9). -/
def State.chanCheck (s : State) (ch : Nat) (w : BitVec 256) : Nat :=
  if fld w 167 160 ≠ 0 ∨ fld w 151 0 ≠ 0 ∨ fld w 155 152 > 4 then stAccess
  else if s.chanBusy ch ∨ (s.getCtx (fld w 159 156)).stepRun then stAccess
  else stOk
def State.chanWrite (s : State) (ch : Nat) (w : BitVec 256) : State := s.setChan ch { s.getChan ch with defn := w }

/-- The words of a record of Table 17-12. -/
def Channel.record (c : Channel) (ch seq endSweep : Nat) (valid : Bool) : BitVec 2048 :=
  let bins := (List.range 32).foldl (fun n k => n + tblGet nat0 c.bins k % 2 ^ 48 * 2 ^ (48 * k)) 0
  BitVec.ofNat 2048 ((if valid then 0x53504543 else 0) * 2 ^ 2016 + seq % 2 ^ 48 * 2 ^ 1968 + c.winStart % 2 ^ 64 * 2 ^ 1904
    + endSweep % 2 ^ 64 * 2 ^ 1840 + c.count % 2 ^ 48 * 2 ^ 1792 + c.zeros % 2 ^ 48 * 2 ^ 1744
    + c.nonfinite % 2 ^ 48 * 2 ^ 1696 + c.min.toNat * 2 ^ 1664 + c.max.toNat * 2 ^ 1632 + ch % 4096 * 2 ^ 1620
    + c.context * 2 ^ 1616 + c.source * 2 ^ 1612 + fld c.defn 175 168 * 2 ^ 1604 + Nat.min 65535 c.attempts * 2 ^ 1588
    + Nat.min 65535 c.uncommitted * 2 ^ 1572 + bins)

/-- Records that the partition holds (R396). -/
def spectrumFull : Nat := 268435456

/-- Puts a record into the partition through the governor, into the staging, or loses it (R396, R397; log 27). -/
def State.spectrumPut (s : State) (r : BitVec 2048) : State :=
  if s.od 0x2800 2 + s.obs.staging.length ≥ spectrumFull then (s.addOd 0x2800 3 1).setOd 0x2800 1 1
  else if s.long.governor ≥ 256 ∧ s.obs.staging.isEmpty then
    let s1 : State := { s with
      long := { s.long with governor := s.long.governor - 256 },
      obs := { s.obs with spectrum := r :: s.obs.spectrum } }
    let s2 := (s1.addOd 0x2400 6 256).addOd 0x2800 2 1
    if s2.od 0x2800 2 ≥ spectrumFull then s2.setOd 0x2800 1 1 else s2
  else if s.obs.staging.length < 4096 then
    let s1 : State := { s with obs := { s.obs with staging := s.obs.staging ++ [r] } }
    s1.addOd 0x2400 8 1
  else s.addOd 0x2800 3 1

/-- One channel of a closing window: its record, its SEQ, and again from zero. -/
def State.closeChannel (s : State) (ch : Nat) : State :=
  let c := s.getChan ch
  (s.setChan ch { c.fresh s.time.sweep with seq := c.seq + 1 }).spectrumPut (c.record ch c.seq s.time.sweep true)

/-- A window has counted LENGTH + 1 outcomes or boundaries (R395). -/
def State.windowDue (s : State) (n : Nat) : Bool := wnValid (s.window n) && decide (wnLength (s.window n) < tblGet nat0 s.obs.winCount n)

/-- Such a window closes. -/
def execWindowClose (window : Fin 256) (s : State) : Out :=
  let w := s.window window
  if s.windowDue window then
    let s1 := (wnChannels w).foldl (fun s ch => s.closeChannel ch) s
    .next { s1 with obs := { s1.obs with winCount := tblSet nat0 s1.obs.winCount window 0 } }
  else .next s

/-- The status of a write of 1 to a self-clearing rwq entry: its value, then quiescence (18 R404, R405). -/
def State.oneShot (s : State) (v : Nat) : Nat := if ¬ s.quiescent then abState else if v > 1 then abRange else 0

/-- CLEAR empties the partition and returns the recorder to RECORDING (R397). -/
def State.writeClear (s : State) (v : Nat) : State :=
  let ab := s.oneShot v
  if ab ≠ 0 ∨ v = 0 then s.abort ab
  else
    let s1 : State := { s with obs := { s.obs with spectrum := [] } }
    ((s1.setOd 0x2800 1 0).setOd 0x2800 2 0).abort 0

def execSpectrumClear (v : BitVec 8) (s : State) : Out := .next (s.ownRow 0x280004 1 v.toNat fun s => s.writeClear v.toNat)

/-! Outcomes of a step (R395, R399) -/

/-- ⌈ZERO_FRAC × samples⌉ for a ZERO_FRAC in (0, 1]. -/
def zeroTarget (frac : W32) (n : Nat) : Nat :=
  match v32 frac with
  | .fin false m e => if e ≥ 0 then m * 2 ^ e.toNat * n else cdiv (m * n) (2 ^ (-e).toNat)
  | _ => n + 1

/-- The sentinel judges a committed step of a GRADIENT channel (R399). -/
def State.sentinel (s : State) (ch : Nat) : State :=
  let c := s.getChan ch
  if c.source ≠ 2 ∨ c.sentinelN = 0 ∨ c.stepCount = 0 then s
  else if c.stepZeros ≥ zeroTarget (BitVec.ofNat 32 (fld c.defn 223 192)) c.stepCount then
    let run := c.silent + 1
    if run ≥ c.sentinelN ∧ ¬ c.alarmed then
      let word := ch % 4096 * 2 ^ 52 + (s.getCtx c.context).stepNo.toNat % 2 ^ 52
      let s1 := s.setChan ch { c with silent := run, alarmed := true }
      ((((s1.addOd 0x2800 5 1).setOd 0x2800 6 word).emcy 0xFF50 word).fireTrigger c.context 4).msixEvent c.context 5
    else s.setChan ch { c with silent := run }
  else s.setChan ch { c with silent := 0, alarmed := false }

/-- Counts a step's outcome in the channels and windows of its context (R395). -/
def State.recordOutcome (s : State) (ctx outcome : Nat) : State :=
  let s1 := s.obs.chan.foldl (fun s e =>
    if e.2.context = ctx then
      let s := if outcome = 1 then s.sentinel e.1 else s
      let c := s.getChan e.1
      s.setChan e.1 { c with
        attempts := c.attempts + 1, uncommitted := if outcome = 1 then c.uncommitted else c.uncommitted + 1,
        stepCount := 0, stepZeros := 0 }
    else s) s
  { s1 with obs := { s1.obs with winCount := s1.obs.window.foldl (fun t w =>
    if wnValid w.2 ∧ ¬ wnSweeps w.2 ∧ (wnChannels w.2).any fun ch => (s1.getChan ch).context == ctx then
      tblUpd nat0 t w.1 (· + 1) else t) s1.obs.winCount } }

end Sys2Proof.Machine
end

