-- ==== Sys2Proof/Machine/Fabric.lean ====
section
/-!
DEFINITION. The structures of the fabric: queue bindings (11 R260, R261), group entries (R272), route entries (R253),
the allow-list (20 Table 20-2) and rank assignments (15 R341).
-/

namespace Sys2Proof.Machine

/-! Queue bindings -/

/-- A binding that has been written belongs to a context whose step runs: it is not written then (13 R310). -/
def State.bindingInStep (s : State) (q : Nat) : Bool :=
  decide (s.binding q ≠ bindingD q) && (s.getCtx (bCtx (s.binding q))).stepRun

/-- The status of a write of a queue binding (R261, 13 R310). -/
def State.bindingCheck (s : State) (o : Origin) (q : Nat) (w : W128) : Nat :=
  if fld w 79 0 ≠ 0 ∨ bPack w = 3 ∨ bCredit w = 0 ∨ (bPack w ≠ 0 ∧ bSide w) ∨ (s.ops.any fun x => x.queue == q) then
    stAccess
  else if (s.getCtx (bCtx w)).stepRun ∨ s.bindingInStep q then stAccess
  else if bTc w = 3 ∧ originIsCore o then stDenied
  else stOk

/-- An accepted binding; the queue status becomes zero. -/
def State.bindingWrite (s : State) (q : Nat) (w : W128) : State :=
  { s with bindings := tblSet bindingD s.bindings q w, qstatus := tblSet w128z s.qstatus q 0 }

def execQueueBinding (o : Origin) (q : BitVec 16) (w : BitVec 128) (s : State) : Out :=
  .next (s.structWrite o (s.bindingCheck o q.toNat w) fun s => s.bindingWrite q.toNat w)

/-! Group entries -/

/-- The group that a barrier entry names, and its state (12 Table 12-3). -/
def barGroup (b : BitVec 512) : Nat := fld b 335 320
def barState (b : BitVec 512) : Nat := fld b 245 243

def State.groupCheck (s : State) (g : Nat) (w : BitVec 256) : Nat :=
  if fld w 200 176 ≠ 0 ∨ fld w 7 0 ≠ 0 then stAccess
  else if grValid w ∧ grKind w = 2 ∧
      (grSeg w = 0 ∨ grSeg w % 4 ≠ 0 ∨ grMembers w = 0 ∨ grMembers w > 49152) then stAccess
  else if s.barriers.any fun b => barGroup b.2 == g + 0xC000 && barState b.2 != 0 then stAccess
  else stOk

def State.groupWrite (s : State) (g : Nat) (w : BitVec 256) : State := { s with groups := tblSet groupD s.groups g w }

def execGroupEntry (o : Origin) (g : Fin 16384) (w : BitVec 256) (s : State) : Out :=
  .next (s.structWrite o (s.groupCheck g w) fun s => s.groupWrite g w)

/-! Route entries, the allow-list and ranks -/

def routeCheck (w : W32) : Nat := if fld w 27 24 ≠ 0 then stAccess else stOk
def State.routeWrite (s : State) (m : Nat) (w : W32) : State := { s with routes := tblSet routeD s.routes m w }
def State.allowWrite (s : State) (m : Nat) (b : Bool) : State :=
  { s with host := { s.host with allow := tblSet false0 s.host.allow m b } }

end Sys2Proof.Machine
end

