-- ==== Sys2Proof/Machine/Factors.lean ====
section
/-!
DEFINITION. Factor buffers (07 R159 to R162, Tables 07-3 and 07-4): their parts, the contributor slots added into S, and the structures
that a context's sequencers and solver engines have used (01 R30).
-/

namespace Sys2Proof.Machine

/-- The position of an element in the tile order of 07 R161, with no padding outside the matrix (R177). -/
def tileIndex (rows cols i j : Nat) : Nat :=
  let i0 := i / 16 * 16
  let j0 := j / 16 * 16
  i0 * cols + min 16 (rows - i0) * j0 + (i - i0) * min 16 (cols - j0) + (j - j0)

/-! Factor buffers (07 Table 07-4) -/
def fhCur (h : BitVec 256) : Nat := fld h 118 118
def fhB (h : BitVec 256) : Nat := fld h 143 128
def fhPrec (h : BitVec 256) : Nat := fld h 127 120
def fhRefs (h : BitVec 256) (k : Nat) : Nat := if k = 0 then fld h 95 80 else fld h 79 64
def setFhRefs (h : BitVec 256) (k v : Nat) : BitVec 256 := if k = 0 then setFld h 95 80 v else setFld h 79 64 v
def fhElem (h : BitVec 256) : Nat := if fhPrec h = 0xB then 8 else 4

/-- Element (i, j) of a part of a factor buffer, from the part's bytes. -/
def partAt (dbl : Bool) (n : Nat) (d : List Byte) (i j : Nat) : W32 × W32 :=
  let k := tileIndex n n i j
  if dbl then
    (BitVec.ofNat 32 (leNat ((d.drop (8 * k)).take 4)), BitVec.ofNat 32 (leNat ((d.drop (8 * k + 4)).take 4)))
  else (BitVec.ofNat 32 (leNat ((d.drop (4 * k)).take 4)), 0)

/-- Bytes of a part, in tile order. -/
def partBytes (dbl : Bool) (n : Nat) (f : Nat → Nat → W32 × W32) : List Byte :=
  (List.range (cdiv n 16)).flatMap fun a => (List.range (cdiv n 16)).flatMap fun b =>
    (List.range (min 16 (n - 16 * a))).flatMap fun i => (List.range (min 16 (n - 16 * b))).flatMap fun j =>
      let w := f (16 * a + i) (16 * b + j)
      leBytes 4 w.1.toNat ++ (if dbl then leBytes 4 w.2.toNat else [])

/-- Whether the contributions of a factor block have all arrived (R160). -/
def State.factorIn (s : State) (f : FactorMap) : Bool :=
  decide ((s.getCore f.ctrCore).ctrVal f.ctrNum.toNat ≥ f.count.toNat)

/-- The header of a factor buffer. -/
def State.factorHeader (s : State) (ctx : Nat) (f : FactorMap) : BitVec 256 :=
  BitVec.ofNat 256 (leNat (s.engineRead ctx (BitVec.ofNat 64 f.buffer) 32).data)

/-- The bytes of a block's staged sum S. -/
def State.factorSum (s : State) (ctx : Nat) (f : FactorMap) : List Byte :=
  let h := s.factorHeader ctx f
  (s.engineRead ctx (BitVec.ofNat 64 (f.buffer + 32)) (fhB h * fhB h * fhElem h)).data

/-- For doublet precision the contributor slots are added into S in ascending order by dadd, once the count is reached (R159). -/
def State.sumFactor (s : State) (ctx : Nat) (f : FactorMap) : State :=
  let h := s.factorHeader ctx f
  let n := fhB h
  if fhElem h ≠ 8 ∨ (s.getCtx ctx).summed.contains f.buffer ∨ ¬ s.factorIn f then s
  else
    let base := f.buffer + 32
    let sum := s.factorSum ctx f
    let slots := (List.range f.contributors).map fun p =>
      (s.engineRead ctx (BitVec.ofNat 64 (base + 4 * (n * n * 8) + n * 8 + p * (n * n * 4))) (n * n * 4)).data
    let s1 := s.engineWrite ctx (BitVec.ofNat 64 base)
      (partBytes true n fun i j => slots.foldl (fun t d => dadd t (partAt false n d i j)) (partAt true n sum i j)) (coreDie f.ctrCore)
    s1.modCtx ctx fun x => { x with summed := f.buffer :: x.summed }

/-- A staged factor sum with an element that is not finite or exceeds 2^126 (09 R200). -/
def State.badSum (s : State) (ctx : Nat) (f : FactorMap) : Bool :=
  let h := s.factorHeader ctx f
  let n := fhB h
  let d := s.factorSum ctx f
  (List.range n).any fun i => (List.range n).any fun j =>
    let w := partAt (fhElem h == 8) n d i j
    FV.nonfinite (dblVal w.1 w.2) || FV.lt (.fin false 1 126) (FV.abs (dblVal w.1 w.2))

/-! Structures in memory whose read-only fields the module alone writes (00 R8) -/

/-- Remembers a structure that a unit of a context uses: 0 a shard state header, 1 a factor buffer, 2 a root buffer; with the cluster that
owns it (01 R30). -/
def Ctx.know (x : Ctx) (kind : Nat) (a : W64) (cluster : Nat) : Ctx :=
  if x.headers.any fun h => h.1 == kind && h.2.1 == a then x else { x with headers := x.headers ++ [(kind, a, cluster)] }

/-- The owner of a shard, by the global address of its header. -/
def Ctx.ownerOf (x : Ctx) (a : W64) : Option Nat := (x.headers.find? fun h => h.1 == 0 && h.2.1 == a).map fun h => h.2.2

/-- Bytes of a structure's header, and its bits that software does not write: RO and RSV (09 Table 09-2, 07 Table 07-4, 08 Table 08-5). -/
def headerBytes (kind : Nat) : Nat := if kind = 1 then 32 else 64
def headerRo (kind : Nat) : Nat :=
  if kind = 0 then (2 ^ 224 - 1) * 2 ^ 288 + (2 ^ 248 - 1) * 2 ^ 8 + 1
  else if kind = 1 then (2 ^ 48 - 1) * 2 ^ 144 + (2 ^ 7 - 1) * 2 ^ 112 + 2 ^ 96 - 1
  else (2 ^ 192 - 1) * 2 ^ 320 + 2 ^ 260 - 1

/-- Puts back the read-only bits of the known headers that a write of a program reached. -/
def State.keepHeaders (old new : State) : State :=
  (new.ctxs.flatMap fun x => x.2.headers).foldl (fun s h =>
    let off := gaOffset h.2.1
    let n := headerBytes h.1
    let a := leNat (old.rdLong off n)
    let b := leNat (s.rdLong off n)
    if gaModule h.2.1 ≠ s.moduleId ∨ gaSpace h.2.1 ≠ 0 ∨ a = b then s
    else s.wrLong off (leBytes n ((a &&& headerRo h.1) ||| (b - (b &&& headerRo h.1))))) new

end Sys2Proof.Machine
end

