-- ==== Sys2Proof/Machine/Barrier.lean ====
section
/-!
DEFINITION. Barriers between modules (12 R290 to R295) and post-mortem dumps (R296, R297).
-/

namespace Sys2Proof.Machine

/-! Barrier entries (12 Table 12-3) -/
def barGen (b : BitVec 512) : Nat := fld b 383 352
def barCount (b : BitVec 512) : Nat := fld b 319 304
def barGuard (b : BitVec 512) : Nat := fld b 281 271
def barArrCore (b : BitVec 512) : Nat := fld b 270 262
def barArrCtr (b : BitVec 512) : Nat := fld b 261 256
def barNotify (b : BitVec 512) : Nat := fld b 255 250
def barCtx (b : BitVec 512) : Nat := fld b 249 246
def barVoteIn (b : BitVec 512) : Nat := fld b 242 241
def barVoteOut (b : BitVec 512) : Nat := fld b 240 239
def barPoint (b : BitVec 512) : Nat × Nat := (fld b 511 448, fld b 303 293)

/-- Read-only bits of a barrier entry, and ARM, which reads as zero. -/
def barRo : Nat :=
  (2 ^ 64 - 1) * 2 ^ 384 + (2 ^ 32 - 1) * 2 ^ 352 + (2 ^ 16 - 1) * 2 ^ 336 + (2 ^ 11 - 1) * 2 ^ 282 + 7 * 2 ^ 243 + 31 * 2 ^ 238

/-- The status of a write of a barrier entry (R290). -/
def State.barrierCheck (s : State) (b : Nat) (w : BitVec 512) : Nat :=
  let g := s.groupOf (barGroup w)
  if barState (s.barrier b) ≠ 0 ∨ fld w 236 0 ≠ 0 then stAccess
  else if barArrCtr w ≥ 48 ∨ barNotify w ≥ 48 ∨ (barPoint w).2 > 1249 then stAccess
  else if ¬ flag w 237 then stOk
  else if ¬ isGroup (barGroup w) ∨ ¬ grValid g ∨ grKind g ≠ 1 ∨ grCtx g ≠ barCtx w then stAccess
  else if (s.treeNeighbours g).any fun m => !s.hasRoute m then stAccess
  else s.pointStatus (barPoint w)

/-- Modules of the subtree that have arrived (Table 12-3). -/
def BarrierCol.subtree (c : BarrierCol) : Nat :=
  (c.kids.map fun k => k.2.2).sum + (if c.arrived then 1 else 0)

/-- A BARRIER frame (R295). -/
def State.barrierFrame (s : State) (dest b gen sweep tick phase subtree vote : Nat) : Frame :=
  s.mkFrame dest 9 0 { addr := b }
    (leBytes 16 (gen % 2 ^ 32 * 2 ^ 96 + sweep % 2 ^ 16 * 2 ^ 80 + tick % 2 ^ 11 * 2 ^ 69 + phase % 2 * 2 ^ 64
      + subtree % 2 ^ 16 * 2 ^ 48 + vote % 4))

/-- Sends COMPLETE with a release point and votes to the children (R293). -/
def State.sendComplete (s : State) (b : Nat) (q : Nat × Nat) (vote : Nat) : State :=
  let w := s.barrier b
  (s.treeChildren (s.groupOf (barGroup w))).foldl (fun s m =>
    s.send (s.barrierFrame m b (barGen w) q.1 q.2 1 0 vote) 65536 hubH0) s

/-- The first tick whose cycle 0 lies at least `g` ticks of cycles after this cycle. -/
def State.tickAfter (s : State) (g : Nat) : Nat := cdiv (s.epochCc + 18 * g) 18

/-- The root's completion: the release point, VOTE_OUT, LATE and COMPLETE to the children (R293). -/
def State.rootComplete (s : State) (b : Nat) (vote : Nat) : State :=
  let w := s.barrier b
  let n := s.tickAfter (max 2 (barGuard w))
  let p := lin (barPoint w)
  let late := decide (p < n)
  let q := if late then (n / 1250, n % 1250) else barPoint w
  let s1 := s.setBarrier b (setFlag (setFld (setFld w 245 243 3) 240 239 vote) 238 late)
  let s2 := s1.setBarCollect b { s1.barCollect b with release := some q }
  s2.sendComplete b q vote

/-- What an entry does once it has everything it waits for (R292). -/
def State.barrierAdvance (s : State) (b : Nat) : State :=
  let w0 := s.barrier b
  let c := s.barCollect b
  let w := setFld w0 351 336 c.subtree
  let s := s.setBarrier b w
  let g := s.groupOf (barGroup w)
  if barState w = 1 ∧ c.arrived ∧ (s.treeChildren g).all (fun m => c.kids.any fun k => k.1 == m) then
    if grParent g = 0xFFFF then s.rootComplete b c.votes
    else
      (s.setBarrier b (setFld w 245 243 2)).send
        (s.barrierFrame (grParent g) b (barGen w) 0 0 0 c.subtree c.votes) 65536 hubH0
  else s

/-- The bits that this module contributes to a vote (09 R200): REPLAY for a marked step or a drift mismatch, POISON for
a non-zero STEP_NF or source 0x7. -/
def State.voteBits (s : State) (ctx : Nat) : Nat :=
  let x := s.getCtx ctx
  let poison := x.poison7 || (s.coresOf ctx).any fun n => fld (s.getCore n).stepNf 27 0 != 0
  (if x.replayMark || x.driftMark then 2 else 0) + (if poison then 1 else 0)

/-- Pages of the staged copies of a context's cold shards whose write the governor holds (09 R207). -/
def State.coldHeld (s : State) (ctx : Nat) : Bool :=
  s.long.heldWrites.any fun w => match w.2 with
    | some p => (s.pageCtx p == some ctx) && (s.regionOf p).any fun r => rgHomeFlash r.2
    | none => false

/-- A context's vote is ready: its staged shards' factor sums are complete, no cold write is held (R200, R207; log 33), and the comparison
of its digests, where members compare, has ended (15 R348). -/
def State.voteReady (s : State) (ctx : Nat) : Bool :=
  let x := s.getCtx ctx
  !x.stepRun || (!s.coldHeld ctx && (decide (x.dMembers < 2) || x.voted) && x.shards.all fun m => m.factors.all s.factorIn)

/-- The factor sums of the staged shards enter the vote: contributor slots added into S, and source 0x7 where an element is bad. -/
def State.voteSums (s : State) (ctx : Nat) : State :=
  let fs := (s.getCtx ctx).shards.flatMap fun m => m.factors
  let s1 := fs.foldl (fun s f => s.sumFactor ctx f) s
  if fs.any fun f => s1.badSum ctx f then
    s1.modCtx ctx fun x => { x with poison7 := true, nfSources := x.nfSources ||| 0x40 }
  else s1

/-- The local arrival: the counter falls by LOCAL_COUNT and VOTE_IN is latched (R292). The update sequencers of a context
with a step running have written their bits by then (R200; log 33). -/
def State.localArrival (s0 : State) (b : Nat) : State :=
  let ctx := barCtx (s0.barrier b)
  let s := if (s0.getCtx ctx).stepRun then s0.voteSums ctx else s0
  let w := s.barrier b
  let own := if (s.getCtx (barCtx w)).stepRun then s.voteBits (barCtx w) else 0
  let vote := barVoteIn w ||| own
  let s1 := s.setBarrier b (setFld w 242 241 vote)
  let c := s1.barCollect b
  ((s1.setBarCollect b { c with arrived := true, votes := c.votes ||| vote }).ctrSub (barArrCore w) (barArrCtr w)
    (barCount w)).barrierAdvance b

/-- Counts a BARRIER frame that is discarded. -/
def State.badFrame (s : State) (b : Nat) : State := s.countSync (some (barCtx (s.barrier b))) 5

/-- An ARRIVE of the current generation at an armed entry (R292). -/
def State.takeArrive (s : State) (b src vote subtree : Nat) : State :=
  let g := s.groupOf (barGroup (s.barrier b))
  let c := s.barCollect b
  if (s.treeChildren g).contains src ∧ ¬ (c.kids.any fun k => k.1 == src) then
    (s.setBarCollect b { c with kids := c.kids ++ [(src, vote, subtree)], votes := c.votes ||| vote }).barrierAdvance b
  else s.badFrame b

/-- An accepted write of a barrier entry (R290). -/
def State.barrierWrite (s : State) (b : Nat) (w : BitVec 512) : State :=
  let old := s.barrier b
  let v := setFlag (keepBits old w barRo) 237 false
  let c := s.barCollect b
  if flag w 237 then
    let v1 := setFld (setFld (setFld (setFld v 383 352 (barGen old + 1)) 351 336 0) 245 243 1) 242 238 0
    let s1 := (s.setBarrier b v1).setBarCollect b { BarrierCol.init with kept := [] }
    let s2 := c.kept.foldl (fun s k => s.takeArrive b k.1 k.2.1 k.2.2) s1
    if barCount v1 = 0 ∧ s2.voteReady (barCtx v1) then s2.localArrival b else s2
  else
    (s.setBarrier b (setFld v 383 352 0)).setBarCollect b { c with kept := if barGen old = 0 then c.kept else [] }

def execBarrierConfigure (o : Origin) (b : Fin 256) (w : BitVec 512) (s : State) : Out :=
  .next (s.structWrite o (s.barrierCheck b w) fun s => s.barrierWrite b w)
def execBarrierArm (o : Origin) (b : Fin 256) (w : BitVec 512) (s : State) : Out :=
  .next (s.structWrite o (s.barrierCheck b w) fun s => s.barrierWrite b w)

/-- The vote register (R291). -/
def State.voteCheck (s : State) (b : Nat) (w : W64) : Nat :=
  if fld w 63 2 ≠ 0 ∨ barState (s.barrier b) ≠ 1 then stAccess else stOk
def State.voteWrite (s : State) (b : Nat) (w : W64) : State :=
  let v := s.barrier b
  s.setBarrier b (setFld v 242 241 (barVoteIn v ||| fld w 1 0))
def execVoteRegister (o : Origin) (b : Fin 256) (w : BitVec 64) (s : State) : Out :=
  .next (s.structWrite o (s.voteCheck b w) fun s => s.voteWrite b w)

/-- The arrival counter holds LOCAL_COUNT (R292), and the context's vote is ready. -/
def execBarrierLocalArrival (b : Fin 256) (s : State) : Out :=
  let w := s.barrier b
  if barState w = 1 ∧ ¬ (s.barCollect b).arrived
      ∧ (s.getCore (barArrCore w)).ctrVal (barArrCtr w) ≥ barCount w ∧ s.voteReady (barCtx w) then .next (s.localArrival b)
  else .next s

/-! Frames -/

/-- The payload of a BARRIER frame as a number (Table 12-4). -/
def barPayload (f : Frame) : W128 := BitVec.ofNat 128 (leNat f.payload)

/-- An ARRIVE frame (R292). -/
def execBarrierArrive (f : Frame) (s : State) : Out :=
  let p := barPayload f
  let b := f.addr % 256
  let w := s.barrier b
  let c := s.barCollect b
  if ¬ f.hasKind 9 then .next s
  else if ¬ s.inWindow f then .next (s.outsideWindow f)
  else if f.payload.length ≠ 16 ∨ flag p 64 then .next (s.badFrame b)
  else if fld p 127 96 = barGen w ∧ barState w = 1 then .next (s.takeArrive b f.src (fld p 1 0) (fld p 63 48))
  else if fld p 127 96 = (barGen w + 1) % 2 ^ 32 ∧ barState w = 0 then
    .next (s.setBarCollect b { c with kept := c.kept ++ [(f.src, fld p 1 0, fld p 63 48)] })
  else .next (s.badFrame b)

/-- Takes a COMPLETE that names a release point (R293, R294). -/
def State.takeComplete (s : State) (b : Nat) (q : Nat × Nat) (vote : Nat) : State :=
  let w := s.barrier b
  let s1 := s.sendComplete b q vote
  let short := decide (lin q < lin s.now + 2)
  let at_ := lin s.now + 2
  let mine := if short then (at_ / 1250, at_ % 1250) else q
  let late := short || decide (lin q > lin (barPoint w))
  let s2 := s1.setBarrier b (setFlag (setFld (setFld w 245 243 3) 240 239 vote) 238 late)
  let s3 := s2.setBarCollect b { s2.barCollect b with release := some mine }
  if short then s3.countSync (some (barCtx w)) 4 else s3

/-- A COMPLETE frame (R293 to R295); one that comes before the module holds a count is discarded (02 R40). -/
def execBarrierComplete (f : Frame) (s : State) : Out :=
  let p := barPayload f
  let b := f.addr % 256
  let w := s.barrier b
  if ¬ f.hasKind 9 then .next s
  else if ¬ s.time.held then .next s.discard
  else if ¬ s.inWindow f then .next (s.outsideWindow f)
  else if f.payload.length ≠ 16 ∨ ¬ flag p 64 ∨ fld p 127 96 ≠ barGen w ∨ barState w ≠ 2 then .next (s.badFrame b)
  else match s.fullSweep (fld p 95 80) with
    | none => .next (s.outsideWindow f)
    | some q => .next (s.takeComplete b (q, fld p 79 69) (fld p 1 0))

/-! Dumps (R296, R297) -/

/-- A core record (Table 12-7). -/
def coreRecord (n : Nat) (c : Core) : List Byte :=
  let ctrs := (List.range 48).foldl (fun v k => v + c.ctrVal k * 2 ^ (512 + 32 * k)) 0
  let w := match c.wait with
    | some w => w.sweep % 2 ^ 64 * 2 ^ 448 + w.threshold % 2 ^ 32 * 2 ^ 368 + w.ctr % 64 * 2 ^ 341 + 2 ^ 340
    | none => 0
  leBytes 256 (ctrs + w + c.sat.toNat * 2 ^ 400 + c.pc % 4096 * 2 ^ 356 + n % 512 * 2 ^ 347 + runCode c.run * 2 ^ 337)

/-- A pending-signal record (Table 12-8). -/
def pendRecord (e : PendSig) : List Byte :=
  leBytes 32 (e.firstSweep % 2 ^ 64 * 2 ^ 192 + e.msg % 2 ^ 48 * 2 ^ 144 + e.src % 2 ^ 16 * 2 ^ 128
    + e.total % 2 ^ 32 * 2 ^ 96 + e.written % 2 ^ 32 * 2 ^ 64 + e.refused % 2 ^ 32 * 2 ^ 32 + e.sigCore % 512 * 2 ^ 23
    + e.sigCtr % 64 * 2 ^ 17)

/-- Entries of a context that are not IDLE. -/
def State.busyBarriers (s : State) (ctx : Nat) : List (BitVec 512) :=
  (s.barriers.filter fun b => barState b.2 != 0 && barCtx b.2 == ctx).map Prod.snd

/-- Pending signals towards a context's cores. -/
def State.pendOf (s : State) (ctx : Nat) : List PendSig :=
  s.dies.flatMap fun d => d.2.pendSig.filter fun e => (s.coresOf ctx).contains e.sigCore

/-- Writes records one after another until one is refused. -/
def State.dumpRecords (s : State) (ctx : Nat) : Nat → List (List Byte) → State × Bool
  | _, [] => (s, true)
  | a, r :: l =>
    if s.engineOk ctx (BitVec.ofNat 64 a) r.length then
      (s.engineWrite ctx (BitVec.ofNat 64 a) r).dumpRecords ctx (a + r.length) l
    else (s, false)

/-- Writes a context's dump (R297): reason, the core and counter that caused it, and its point. -/
def State.writeDump (s : State) (ctx reason core ctr : Nat) (p : Nat × Nat) : State :=
  let x := s.getCtx ctx
  if x.dumpAddr = 0 then s
  else if x.dumpReady then s.countSync (some ctx) 6
  else
    let cores := s.coresOf ctx
    let bars := s.busyBarriers ctx
    let pend := s.pendOf ctx
    let recs := cores.map (fun n => coreRecord n (s.getCore n)) ++ bars.map (fun b => leBytes 64 b.toNat) ++ pend.map pendRecord
    let st := if reason = 1 then stDeadline else if reason = 2 then stUnderflow else stOk
    let hdr := leBytes 64 (p.1 % 2 ^ 64 * 2 ^ 448 + p.2 % 2 ^ 11 * 2 ^ 437 + (cores.length - 1) % 512 * 2 ^ 428
      + bars.length % 512 * 2 ^ 419 + pend.length % 2 ^ 16 * 2 ^ 403 + core % 512 * 2 ^ 394 + ctr % 64 * 2 ^ 388
      + st * 2 ^ 380 + reason % 8 * 2 ^ 377 + ctx % 16 * 2 ^ 373 + 0x53594E43)
    let a := x.dumpAddr.toNat
    let (s1, ok) := s.dumpRecords ctx (a + 64) recs
    if ok && s1.engineOk ctx x.dumpAddr 64 then
      let s2 := s1.engineWrite ctx x.dumpAddr hdr
      (s2.modCtx ctx fun x => { x with dumpReady := true }).msixEvent ctx 2
    else s1.countSync (some ctx) 6

/-- DUMP_ADDR (Table 12-2, R296). -/
def dumpAddrCheck (w : W64) : Nat := if fld w 5 0 ≠ 0 then stAccess else stOk
def State.dumpAddrWrite (s : State) (ctx : Nat) (w : W64) : State := s.modCtx ctx fun x => { x with dumpAddr := w }

/-- DUMP_CTL. -/
def dumpCtlCheck (w : W64) : Nat := if fld w 63 2 ≠ 0 then stAccess else stOk
def State.dumpCtlWrite (s : State) (ctx : Nat) (w : W64) : State :=
  s.modCtx ctx fun x =>
    { x with
      dumpReady := x.dumpReady && !flag w 0,
      dumpReq := if flag w 1 then some (s.time.boundaries + 1) else x.dumpReq }

def execDumpRequest (o : Origin) (ctx : Fin 16) (w : BitVec 64) (s : State) : Out :=
  .next (s.structWrite o (dumpCtlCheck w) fun s => s.dumpCtlWrite ctx w)
def execDumpReadyClear (o : Origin) (ctx : Fin 16) (w : BitVec 64) (s : State) : Out :=
  .next (s.structWrite o (dumpCtlCheck w) fun s => s.dumpCtlWrite ctx w)

/-- The boundary after a request (R297). -/
def execDumpLatch (ctx : Fin 16) (s : State) : Out :=
  match (s.getCtx ctx).dumpReq with
  | some b =>
    if b ≤ s.time.boundaries then
      .next ((s.modCtx ctx fun x => { x with dumpReq := none }).writeDump ctx 4 0 0 (s.time.sweep, 0))
    else .next s
  | none => .next s

end Sys2Proof.Machine
end

