-- ==== Sys2Proof/Machine/Context.lean ====
section
/-!
DEFINITION. Contexts: stage descriptors and step starts (13 R299 to R301), creation and teardown (14 R311 to R313),
version slots (R314 to R318), the switch (R319 to R321) and the rollout ring (R330, R331).
-/

namespace Sys2Proof.Machine

/-! Stage descriptors (13 Table 13-1) -/
def stPoint (w : BitVec 1024) : Nat × Nat := (fld w 1023 960, fld w 959 949)

/-- Whether a descriptor keeps the values of R300. -/
def stageValues (w : BitVec 1024) : Bool :=
  decide (fld w 943 928 ≠ 0 ∧ fld w 927 904 ≠ 0 ∧ fld w 927 904 % 32 = 0 ∧ fld w 887 872 ≠ 0 ∧ fld w 855 840 ≠ 0 ∧ fld w 823 808 ≠ 0
    ∧ fld w 807 804 ≠ 0) &&
  decide (fld w 903 888 < fld w 887 872 ∧ fld w 871 856 < fld w 855 840 ∧ fld w 839 824 < fld w 823 808
    ∧ ¬ (fld w 779 779 = 1 ∧ fld w 791 780 > 4094))

def State.stageCheck (s : State) (ctx : Nat) (w : BitVec 1024) : Nat :=
  if (s.getCtx ctx).stepRun ∨ fld w 948 944 ≠ 0 ∨ fld w 776 0 ≠ 0 ∨ ¬ stageValues w then stAccess
  else if flag w 777 then s.pointStatus (stPoint w) else stOk

def State.stageWrite (s : State) (ctx : Nat) (w : BitVec 1024) : State :=
  s.modCtx ctx fun x =>
    { x with stage := setFld w 777 777 0, startAt := if flag w 777 then some (stPoint w) else x.startAt }

def execStageDescriptor (o : Origin) (ctx : Fin 16) (w : BitVec 1024) (s : State) : Out :=
  .next (s.structWrite o (s.stageCheck ctx w) fun s => s.stageWrite ctx w)
def execStageArm (o : Origin) (ctx : Fin 16) (w : BitVec 1024) (s : State) : Out :=
  .next (s.structWrite o (s.stageCheck ctx w) fun s => s.stageWrite ctx w)

/-- Arms the cores of a context that are IDLE, HALTED or STOPPED, from their ENTRY (R301). -/
def State.armCores (s : State) (ctx : Nat) (p : Nat × Nat) : State :=
  s.eachCore ctx fun c => if c.run = .armed ∨ c.run = .running then c else c.armed c.entry p

/-- The step start of the digest table: OUT and MASTER zeroed, STEP written (15 R347). -/
def State.digestsStart (s : State) (ctx : Nat) : State :=
  let x := s.getCtx ctx
  (List.range x.dSlots).foldl (fun s k =>
    ((s.setDigest ctx k 0 0).setDigest ctx k 1 0).setDigest ctx k 3 x.stepNo.toNat) s

/-- The prefetch schedule begins: every entry waits for its START sweep, and no page is protected (10 R233, R238). -/
def State.scheduleStart (s : State) (ctx : Nat) : State :=
  let s1 := s.modCtx ctx fun x =>
    { x with schedState := (List.range x.sched.length).foldl (fun t k => tblSet sched0 t k .waiting) [] }
  s1.long.page.foldl (fun s e =>
    if e.2.prot ∧ s.pageCtx e.1 = some ctx then s.setPage e.1 { s.getPage e.1 with prot := false } else s) s1

/-! CTX_DESC (14 Table 14-2) -/
def dCreate (w : BitVec 512) : Bool := flag w 340
def dDestroy (w : BitVec 512) : Bool := flag w 339
def dRole (w : BitVec 512) : Nat := fld w 349 348
def dVslots (w : BitVec 512) : Nat := fld w 346 344
def dClusters (w : BitVec 512) : Nat := fld w 511 448

/-- Read-only bits of CTX_DESC and its write-only bits. -/
def descRo : Nat := (2 ^ 34 - 1) * 2 ^ 350 + 3 * 2 ^ 342 + 7 * 2 ^ 339

/-- The bits that a write sets: RW and WO fields. -/
def descWritable : Nat := (2 ^ 128 - 1) * 2 ^ 384 + 63 * 2 ^ 344 + 7 * 2 ^ 338

/-- Whether a generator's slots name distinct valid regions of the context with equal PAGES (R312). -/
def State.slotsOk (s : State) (ctx n : Nat) : Bool :=
  let rs := (List.range n).map fun v => slotRegion ((s.getCtx ctx).getSlot v)
  decide rs.Nodup && rs.all fun r =>
    rgValid (s.region r) && rgCtx (s.region r) == ctx && rgPages (s.region r) == rgPages (s.region (rs.getD 0 0))

/-- Whether a creation may take place (R312, 02 R40, 16 R371). -/
def State.createOk (s : State) (ctx : Nat) (w : BitVec 512) : Bool :=
  dClusters w != 0
    && ((List.range 16).all fun c => c == ctx || (s.getCtx c).state == 0 || (s.getCtx c).clusters &&& dClusters w == 0)
    && (if dRole w = 2 then decide (2 ≤ dVslots w ∧ dVslots w ≤ 4) && s.slotsOk ctx (dVslots w)
        else decide (dRole w < 2) && dVslots w == 0)
    && s.time.held && s.time.source != .unlocked && s.od 0x2300 9 == 0 && !s.boot.recovery

def State.descCheck (s : State) (ctx : Nat) (w : BitVec 512) : Nat :=
  let x := s.getCtx ctx
  let onlyDestroy := w.toNat &&& descWritable == 2 ^ 339
  if fld w 337 0 ≠ 0 ∨ (flag w 338 ∧ ¬ dCreate w) then stAccess
  else if x.state ≠ 0 then (if onlyDestroy then stOk else stAccess)
  else if dCreate w ∧ ¬ s.createOk ctx w then stAccess
  else stOk

/-- The core as creation leaves it: IDLE, counters zero, transfer count zero (R281, R312, 11 R259, 17 Table 17-1). -/
def Core.created (c : Core) : Core :=
  { c with run := .idle, ctr := [], sat := 0, ctrPend := [], wait := none, msgCount := 0, counts := [], armedAt := none,
           stepNf := 0 }

/-- Creates a context (R312); the seed is drawn where SEED is zero outside COLLIMATE (15 Table 15-2). -/
def State.createCtx (s : State) (ctx : Nat) (w : BitVec 512) : State :=
  let drawn := dClusters w ≠ 0 ∧ fld w 447 384 = 0 ∧ ¬ s.collimate
  let seed := if drawn then (Config.contextSeed ctx s.freeCtr).toNat else fld w 447 384
  let d := setFld (setFld (setFld (setFld (setFld w 383 350 0) 341 339 0) 343 342 1) 447 384 seed) 337 0 0
  let s1 := s.modCtx ctx fun x =>
    { x with
      desc := d, slot := (List.range 4).foldl (fun t v =>
        tblSet w128z t v (BitVec.ofNat 128 (slotRegion (x.getSlot v) * 2 ^ 52))) [],
      stepNo := 0, lastCommit := 0, stepRun := false, phase2 := none, phase2Map := none, shards := [], replayMark := false,
      driftMark := false, poison7 := false, discards := 0, nfSources := 0, voted := false, rederived := false,
      settings := s.dict.tensors, wAmax := [], lrMult := none, headers := [], summed := [], ortho := [], dumpDue := none,
      remapHold := none, draining := false, destroyDue := false }
  (s1.eachCore ctx Core.created).draw

/-- Whether the teardown check of 12 R288 and 14 R313 fails. -/
def State.teardownFails (s : State) (ctx : Nat) : Bool :=
  let x := s.getCtx ctx
  ((s.coresOf ctx).any fun n => (s.getCore n).ctr.any (fun e => e.2 != 0) || (s.getCore n).wait.isSome)
    || !(s.pendOf ctx).isEmpty || !(s.busyBarriers ctx).isEmpty
    || ((List.range 4).any fun v => slotRefs (x.getSlot v) != 0) || fld x.switch 9 8 == 1

/-- Teardown: the check, the clearing of counters, and STATE ABSENT (R288, R313); a core that still runs issues no
further group, since its cluster is released. -/
def State.destroyCtx (s : State) (ctx : Nat) : State :=
  let s1 := if s.teardownFails ctx then
      (((s.writeDump ctx 3 0 0 s.now).countSync (some ctx) 2).emcy 0xFF40 ctx)
    else s
  let s2 := s1.eachCore ctx fun c =>
    { c with ctr := [], wait := none, ctrPend := [], armedAt := none,
             run := if c.run = .armed ∨ c.run = .running then .stopped else c.run }
  s2.modCtx ctx fun x => { x with desc := setFld x.desc 343 342 0, startAt := none, stepRun := false }

/-- An accepted write of CTX_DESC. A DESTROY during a cut's drain waits for its end, and with it its dump (12 R297). -/
def State.descWrite (s : State) (ctx : Nat) (w : BitVec 512) : State :=
  let x := s.getCtx ctx
  if x.draining then s.modCtx ctx fun x => { x with destroyDue := true }
  else if x.state ≠ 0 then s.destroyCtx ctx
  else if dCreate w then s.createCtx ctx w
  else s.modCtx ctx fun x => { x with desc := keepBits x.desc (setFld w 341 338 0) descRo }

def execCreate (o : Origin) (ctx : Fin 16) (w : BitVec 512) (s : State) : Out :=
  .next (s.descWriteBy o ctx (s.structWrite o (s.descCheck ctx w) fun s => s.descWrite ctx w))
def execDestroy (o : Origin) (ctx : Fin 16) (w : BitVec 512) (s : State) : Out :=
  .next (s.descWriteBy o ctx (s.structWrite o (s.descCheck ctx w) fun s => s.descWrite ctx w))

/-! Version slots (Table 14-3) -/

/-- A slot word: version, references, region, state. -/
def mkSlot (version refs region st : Nat) : W128 :=
  BitVec.ofNat 128 (version % 2 ^ 32 * 2 ^ 96 + refs % 2 ^ 32 * 2 ^ 64 + region % 4096 * 2 ^ 52 + st % 4 * 2 ^ 50)

/-- A write of SLOT v: REGION, while the context is ABSENT. -/
def State.slotCheck (s : State) (ctx : Nat) (w : W128) : Nat :=
  if fld w 49 0 ≠ 0 ∨ (s.getCtx ctx).state ≠ 0 then stAccess else stOk
def State.slotWrite (s : State) (ctx v : Nat) (w : W128) : State :=
  s.modCtx ctx fun x => x.setSlot v (setFld (x.getSlot v) 63 52 (slotRegion w))

/-- A slot without references that is RETIRED is EMPTY (R318). -/
def settleSlot (w : W128) : W128 := if slotState w = 3 ∧ slotRefs w = 0 then mkSlot 0 0 (slotRegion w) 0 else w

/-- The CURRENT slot of a context. -/
def Ctx.curSlot (x : Ctx) : Option Nat := if flag x.desc 341 then some (fld x.desc 351 350) else none

/-- A read of a register that takes effect: origin, then the effect and its 8 bytes. -/
def State.structRead (s : State) (o : Origin) (check : Nat) (read : State → State × W64) : State :=
  let st := s.originStatus o
  if st ≠ stOk then s.refuse o st
  else if check ≠ stOk then s.status check
  else
    let r := read s
    r.1.answer stOk (leBytes 8 r.2.toNat)

/-! The switch (Table 14-4) -/
def swVersion (w : W128) : Nat := fld w 127 96
def swPoint (w : W128) : Nat × Nat := (fld w 95 32, fld w 31 21)
def swBarrier (w : W128) : Nat := fld w 20 13
def swTarget (w : W128) : Nat := fld w 11 10
def swState (w : W128) : Nat := fld w 9 8

/-- Whether version v is newer than u (R315). -/
def newer (v u : Nat) : Bool :=
  let d := (v % 2 ^ 32 + 2 ^ 32 - u % 2 ^ 32) % 2 ^ 32
  decide (1 ≤ d ∧ d < 2 ^ 31)

/-- Whether an arm is refused for want of an EMPTY slot, once every earlier condition of R319 holds. -/
def State.noSlot (s : State) (ctx : Nat) (w : W128) : Bool :=
  let x := s.getCtx ctx
  flag w 7 && fld w 12 12 == 0 && fld w 5 0 == 0 && swState x.switch != 1 && x.role == 2
    && !(flag x.desc 341 && !newer (swVersion w) x.version)
    && decide (swTarget w < x.vslots) && slotState (x.getSlot (swTarget w)) != 0

def State.switchCheck (s : State) (ctx : Nat) (w : W128) : Nat :=
  let x := s.getCtx ctx
  if fld w 12 12 ≠ 0 ∨ fld w 5 0 ≠ 0 then stAccess
  else if ¬ flag w 7 then stOk
  else if swState x.switch = 1 ∨ x.role = 0 ∨ (flag x.desc 341 ∧ ¬ newer (swVersion w) x.version) then stAccess
  else if x.role = 2 ∧ (swTarget w ≥ x.vslots ∨ slotState (x.getSlot (swTarget w)) ≠ 0) then stAccess
  else if x.role = 2 ∧ barCtx (s.barrier (swBarrier w)) ≠ ctx then stAccess
  else s.pointStatus (swPoint w)

/-- A GENERATOR's TARGET returns to EMPTY (R321). -/
def Ctx.dropTarget (x : Ctx) : Ctx :=
  let v := swTarget x.switch
  x.setSlot v (mkSlot 0 0 (slotRegion (x.getSlot v)) 0)

/-- Ends an ARMED switch that does not take effect: MISSED for a GENERATOR, IDLE for a cancelled LEARNER switch. -/
def Ctx.dropSwitch (x : Ctx) (st : Nat) : Ctx :=
  let y := if x.role = 2 then x.dropTarget else x
  { y with switch := setFld x.switch 9 8 st }

def State.switchWrite (s : State) (ctx : Nat) (w : W128) : State :=
  let x := s.getCtx ctx
  if flag w 7 then
    s.modCtx ctx fun x =>
      let v := swTarget w
      let y := if x.role = 2 then x.setSlot v (mkSlot (swVersion w) 0 (slotRegion (x.getSlot v)) 1) else x
      { y with switch := setFld (setFld w 7 6 0) 9 8 1 }
  else if flag w 6 then
    let put (x : Ctx) : Ctx := { x with switch := setFld (setFld w 6 6 0) 9 8 (swState x.switch) }
    if swState x.switch = 1 then
      let s1 := s.modCtx ctx fun x => put (x.dropSwitch (if x.role = 2 then 3 else 0))
      if x.role = 2 then s1.msixEvent ctx 1 else s1
    else s.modCtx ctx put
  else s.modCtx ctx fun x => { x with switch := setFld w 9 8 (swState x.switch) }

/-- Counts the refusals for want of a slot (R319). -/
def State.switchRequest (s : State) (o : Origin) (ctx : Nat) (w : W128) : State :=
  let s1 := if s.originStatus o = stOk ∧ s.noSlot ctx w then s.addOd 0x2600 8 1 else s
  s1.structWrite o (s.switchCheck ctx w) fun s => s.switchWrite ctx w

def execSwitchArm (o : Origin) (ctx : Fin 16) (w : BitVec 128) (s : State) : Out := .next (s.switchRequest o ctx w)
def execSwitchCancel (o : Origin) (ctx : Fin 16) (w : BitVec 128) (s : State) : Out := .next (s.switchRequest o ctx w)

/-- A switch takes effect (R320) in sweep `q`. -/
def State.switchNow (s : State) (ctx q : Nat) : State :=
  let s1 := s.modCtx ctx fun x =>
    let v := swTarget x.switch
    let d := setFld x.desc 383 352 (swVersion x.switch)
    if x.role = 2 then
      let y := match x.curSlot with
        | some u => x.setSlot u (settleSlot (setFld (x.getSlot u) 51 50 3))
        | none => x
      let z := y.setSlot v (setFld (y.getSlot v) 51 50 2)
      { z with desc := setFld (setFld d 351 350 v) 341 341 1, switch := setFld x.switch 9 8 2 }
    else { x with desc := d, switch := setFld x.switch 9 8 2 }
  ((s1.addOd 0x2600 6 1).setOd 0x2600 0xD q).msixEvent ctx 1

/-- The point at which a context's ARMED switch takes effect, once it is known and has come: the LEARNER's point, or the
release of the GENERATOR's barrier where it is no later than the point (R320). -/
def State.switchDue (s : State) (ctx : Nat) : Option (Nat × Nat) :=
  let x := s.getCtx ctx
  if swState x.switch ≠ 1 ∨ x.state ≠ 1 then none
  else if x.role = 2 then
    let b := swBarrier x.switch
    if barState (s.barrier b) = 3 then
      match (s.barCollect b).release with
      | some q =>
        if s.reached q ∧ lin q ≤ lin (swPoint x.switch) ∧ ¬ s.cutCovers ctx q then some q else none
      | none => none
    else none
  else if s.reached (swPoint x.switch) ∧ ¬ s.cutCovers ctx (swPoint x.switch) then some (swPoint x.switch) else none

/-! Access to the slots -/

/-- A switch whose tick has begun takes effect before an access that its slots decide (R316). -/
def State.switchSeen (s : State) (ctx : Nat) : State :=
  match s.switchDue ctx with
  | some q => s.switchNow ctx q.1
  | none => s

/-- An XGET from ACQUIRE (R316). -/
def State.acquireRead (s0 : State) (ctx : Nat) : State × W64 :=
  let s := s0.switchSeen ctx
  let x := s.getCtx ctx
  match x.curSlot with
  | none => (s, BitVec.ofNat 64 (2 ^ 63))
  | some v =>
    let w := x.getSlot v
    (s.modCtx ctx fun x => x.setSlot v (setFld w 95 64 (slotRefs w + 1)),
      BitVec.ofNat 64 (v * 2 ^ 32 + slotVersion w))

def execAcquire (o : Origin) (ctx : Fin 16) (s : State) : Out :=
  .next (s.structRead o stOk fun s => s.acquireRead ctx)

/-- An XPUT to RELEASE (R317, R318); bits [63:2] are reserved. -/
def State.releaseCheck (s : State) (ctx : Nat) (w : W64) : Nat :=
  let v := ((s.switchSeen ctx).getCtx ctx).getSlot (fld w 1 0)
  if fld w 63 2 ≠ 0 ∨ slotRefs v = 0 ∨ slotState v ≤ 1 then stAccess else stOk
def State.releaseWrite (s : State) (ctx : Nat) (w : W64) : State :=
  (s.switchSeen ctx).modCtx ctx fun x =>
    let v := x.getSlot (fld w 1 0)
    x.setSlot (fld w 1 0) (settleSlot (setFld v 95 64 (slotRefs v - 1)))

def execRelease (o : Origin) (ctx : Fin 16) (w : BitVec 64) (s : State) : Out :=
  .next (s.structWrite o (s.releaseCheck ctx w) fun s => s.releaseWrite ctx w)

/-- A miss that is not a cancellation (R321). -/
def State.missSwitch (s : State) (ctx : Nat) : State :=
  let x := s.getCtx ctx
  let s1 := s.modCtx ctx fun x => x.dropSwitch 3
  (((s1.emcy 0xFF41 (swVersion x.switch * 2 ^ 32 + ctx)).addOd 0x2600 7 1)).msixEvent ctx 1

/-- The point of an ARMED GENERATOR switch has passed, and its barrier does not release by then (R321). -/
def State.switchLate (s : State) (ctx : Nat) : Bool :=
  let x := s.getCtx ctx
  let b := swBarrier x.switch
  let inTime := match (s.barCollect b).release with
    | some q => barState (s.barrier b) == 3 && decide (lin q ≤ lin (swPoint x.switch))
    | none => false
  swState x.switch == 1 && x.role == 2 && decide (lin (swPoint x.switch) < lin s.now) && !inTime

/-- The point of a GENERATOR switch passes before its barrier releases (R321). -/
def execSwitchMissed (ctx : Fin 16) (s : State) : Out :=
  .next (if s.switchLate ctx then s.missSwitch ctx else s)

/-! The rollout ring (R330, R331) -/
def ringBaseCheck (w : W64) : Nat := if fld w 9 0 ≠ 0 then stAccess else stOk
def State.ringBaseWrite (s : State) (ctx : Nat) (w : W64) : State := s.modCtx ctx fun x => { x with ringBase := w }

def powerOfTwo (n : Nat) : Bool := (List.range 25).any fun k => n == 2 ^ k

/-- The header of a context's ring. -/
def State.ringHeader (s : State) (ctx : Nat) : BitVec 512 :=
  BitVec.ofNat 512 (leNat (s.rdLong (gaOffset (s.getCtx ctx).ringBase) 64))

def State.ringCheck (s : State) (ctx : Nat) : Nat :=
  let a := (s.getCtx ctx).ringBase
  if a = 0 ∨ gaModule a ≠ s.moduleId ∨ gaSpace a ≠ 0 ∨ ¬ s.longOk (.ctx ctx) true (gaOffset a) 64 then stAccess
  else if ¬ powerOfTwo (fld (s.ringHeader ctx) 383 352) then stAccess
  else stOk

/-- An XGET from RING_CLAIM. -/
def State.ringRead (s : State) (ctx : Nat) : State × W64 :=
  let a := gaOffset (s.getCtx ctx).ringBase
  let h := s.ringHeader ctx
  let head := fld h 447 384
  let used := (head + 2 ^ 64 - fld h 511 448) % 2 ^ 64
  if used < fld h 383 352 then
    (s.longWrite (a + 48) (leBytes 8 (head + 1)), BitVec.ofNat 64 (head % 2 ^ 63))
  else (s.addOd 0x2600 0xC 1, BitVec.ofNat 64 (2 ^ 63))

def execRingClaim (o : Origin) (ctx : Fin 16) (s : State) : Out :=
  .next (s.structRead o (s.ringCheck ctx) fun s => s.ringRead ctx)

end Sys2Proof.Machine
end

