-- ==== Sys2Proof/Machine/Region.lean ====
section
/-!
DEFINITION. Region descriptors (10 R228 to R230), prefetch schedules (R237 to R239), and the migrations and held flash
writes that they cause (R223, R233 to R235).
-/

namespace Sys2Proof.Machine

/-! Regions -/

/-- Whether two page ranges overlap. -/
def rgOverlap (a b : BitVec 256) : Bool :=
  decide (rgBase a < rgBase b + rgPages b ∧ rgBase b < rgBase a + rgPages a)

/-- A valid region of a context whose step runs: its descriptor is not written then (13 R310). -/
def State.regionInStep (s : State) (w : BitVec 256) : Bool := rgValid w && (s.getCtx (rgCtx w)).stepRun

/-- The status of a write of a region descriptor (R229, 13 R310). -/
def State.regionCheck (s : State) (r : Nat) (w : BitVec 256) : Nat :=
  if fld w 142 0 ≠ 0 ∨ (rgValid (s.region r) ∧ rgValid w) then stAccess
  else if s.regionInStep (s.region r) ∨ s.regionInStep w then stAccess
  else if ¬ rgValid w then stOk
  else if (s.long.region.any fun e => rgValid e.2 && rgOverlap e.2 w) ∨ s.mappedPages + rgPages w > s.mapLimit
      ∨ (rgPin w ∧ rgHomeFlash w) ∨ (rgPin w ∧ s.pinnedPages (rgCtx w) + rgPages w > s.frameBudget (rgCtx w))
      ∨ rgBase w + rgPages w > 2 ^ 28 then stAccess
  else stOk

def State.setRegion (s : State) (r : Nat) (w : BitVec 256) : State :=
  { s with long := { s.long with region := tblSet regionD s.long.region r w } }

/-- A region is mapped: its pages read as zero (R229), and pinned pages may take frames that others leave (R233). -/
def State.mapRegion (s : State) (r : Nat) (w : BitVec 256) : State :=
  let s1 := s.setRegion r w
  if rgValid w then
    ({ s1 with
      lr := s1.lr.filter fun e => !rgHolds w (e.1 / 65536),
      side := s1.side.filter fun e => !rgHolds w (e.1 / 4096) } : State).fitBudget (rgCtx w) s1.long.page.length
  else s1

/-- An accepted write. One that clears VALID of a valid region waits for the accesses in flight (R230). -/
def State.regionWrite (s : State) (r : Nat) (w : BitVec 256) : State :=
  if rgValid (s.region r) then
    { s with long := { s.long with unmapping := (s.long.unmapping.filter fun e => e.1 != r) ++ [(r, w)] } }
  else s.mapRegion r w

/-- A write of a region descriptor: one that begins an unmapping is answered when the unmapping completes. -/
def State.regionRequest (s : State) (o : Origin) (r : Nat) (w : BitVec 256) : State :=
  if s.originStatus o = stOk ∧ s.regionCheck r w = stOk ∧ rgValid (s.region r) then s.regionWrite r w
  else s.structWrite o (s.regionCheck r w) fun s => s.regionWrite r w

def execRegionMap (o : Origin) (r : Fin 4096) (w : BitVec 256) (s : State) : Out := .next (s.regionRequest o r w)
def execRegionUnmap (o : Origin) (r : Fin 4096) (w : BitVec 256) (s : State) : Out := .next (s.regionRequest o r w)

/-! Prefetch schedules (Table 10-3) -/
def sePage (e : W128) : Nat := fld e 127 100
def seKind (e : W128) : Nat := fld e 99 98
def seDie (e : W128) : Nat := fld e 97 95
def seCore (e : W128) : Nat := fld e 94 86
def seTiled (e : W128) : Bool := flag e 85
def seLocal (e : W128) : Nat := fld e 84 64
def seStart (e : W128) : Nat := fld e 63 44
def seBy (e : W128) : Nat := fld e 43 24
def seCtr (e : W128) : Nat := fld e 23 18

/-- Whether an entry is one that R238 accepts for a context. -/
def State.entryOk (s : State) (ctx : Nat) (e : W128) : Bool :=
  decide (seStart e ≤ seBy e) && seKind e != 3 && fld e 17 0 == 0 && s.pageCtx (sePage e) == some ctx
    && (seKind e != 1 || decide (seLocal e + (if seTiled e then 69632 else 65536) ≤ 0x100000))

/-- Whether STARTs do not decrease. -/
def startsRise : List W128 → Bool
  | [] => true
  | [_] => true
  | a :: b :: r => decide (seStart a ≤ seStart b) && startsRise (b :: r)

/-- The schedule in memory. -/
def State.readSchedule (s : State) (base n : Nat) : List W128 :=
  (List.range n).map fun k => BitVec.ofNat 128 (leNat (s.rdLong (base + 16 * k) 16))

/-- The status of a write of SCHED_COUNT. -/
def State.schedCheck (s : State) (ctx : Nat) (v : W64) : Nat :=
  let x := s.getCtx ctx
  let n := v.toNat
  let base := x.schedBase.toNat
  if x.stepRun ∨ (n ≠ 0 ∧ (base ≥ 2 ^ 44 ∨ ¬ s.longOk (.ctx ctx) false base (16 * n))) then stAccess
  else
    let es := s.readSchedule base n
    if startsRise es && es.all (s.entryOk ctx) then stOk else stAccess

def State.schedWrite (s : State) (ctx : Nat) (v : W64) : State :=
  s.modCtx ctx fun x => { x with schedCount := v, sched := s.readSchedule x.schedBase.toNat v.toNat, schedState := [] }

def execSchedCount (o : Origin) (ctx : Fin 16) (v : BitVec 64) (s : State) : Out :=
  .next (s.structWrite o (s.schedCheck ctx v) fun s => s.schedWrite ctx v)

/-- SCHED_BASE (R237). -/
def State.schedBaseCheck (s : State) (ctx : Nat) : Nat := if (s.getCtx ctx).stepRun then stAccess else stOk
def State.schedBaseWrite (s : State) (ctx : Nat) (v : W64) : State := s.modCtx ctx fun x => { x with schedBase := v }

def Ctx.entryState (x : Ctx) (k : Nat) : EntryState := tblGet sched0 x.schedState k
def State.setEntry (s : State) (ctx k : Nat) (e : EntryState) : State :=
  s.modCtx ctx fun x => { x with schedState := tblSet sched0 x.schedState k e }

/-- The entry that begins: it waits, its START sweep has come, and every earlier one has begun (R238). -/
def State.entryDue (s : State) (ctx k kind : Nat) : Option W128 :=
  let x := s.getCtx ctx
  match x.sched[k]? with
  | some e =>
    if x.entryState k = .waiting ∧ seKind e = kind ∧ s.reached (x.stepStartSweep + seStart e, 0)
        ∧ (List.range k).all (fun j => x.entryState j != .waiting) then some e
    else none
  | none => none

/-- Brings a page into HBM on a die, from flash or from another die's stacks (R232). -/
def State.migrateTo (s0 : State) (p die : Nat) : State :=
  let s := s0.keepPage p
  let g := s.getPage p
  if s.pageInHbm p ∧ s.pageDie p = die then s
  else if g.moving.isSome then s.setPage p { g with moving := some true, die := die }
  else if s.pageInHbm p then s.setPage p { g with moving := some true, die := die }
  else s.migrateIn p die

def execFetchHbm (ctx : Fin 16) (entry : Nat) (s : State) : Out :=
  match s.entryDue ctx entry 0 with
  | some e =>
    let p := sePage e
    let s1 := s.setEntry ctx entry .begun
    .next ((s1.setPage p { s1.getPage p with prot := true }).migrateTo p (seDie e))
  | none => .next s

def execFetchStore (ctx : Fin 16) (entry : Nat) (s : State) : Out :=
  match s.entryDue ctx entry 1 with
  | some e => .next (((s.setEntry ctx entry .begun).keepPage (sePage e)).migrateIn (sePage e) 8)
  | none => .next s

def execEvict (ctx : Fin 16) (entry : Nat) (s : State) : Out :=
  match s.entryDue ctx entry 2 with
  | some e =>
    let s1 := s.setEntry ctx entry .done
    .next (s1.setPage (sePage e) { s1.getPage (sePage e) with prot := false })
  | none => .next s

/-- The bytes that a FETCH_STORE writes: the page plainly, or its 128 footprints (R225). A poisoned page is read as the
pattern of R245. -/
def State.fetchBytes (s : State) (p : Nat) (tiled : Bool) : List Byte :=
  let bad := (s.getPage p).poison
  let n := if tiled then 69632 else 65536
  if bad then (List.range n).map fun k => if tiled && sideStream k then 0xFF else poisonByte k
  else if tiled then s.rdStream (p * 65536) 0 n else s.rdLong (p * 65536) 65536

/-- A fetch entry is complete (R239). A FETCH_STORE reads its page; a ladder that this read or another has begun holds it (R243). -/
def execScheduleEntryComplete : Fin 16 → Reading Nat → State → Out
  | ctx, ⟨entry, hw⟩, s0 =>
    let s := if s0.ladderFull hw then s0 else s0.hbmEvent hw
    let x := s.getCtx ctx
    match x.sched[entry]? with
    | some e =>
      let p := sePage e
      let st := x.entryState entry
      if (st = .begun ∨ st = .late) ∧ s.pageInHbm p ∧ (s.ladderOf p).isNone ∧ ¬ s0.ladderFull hw then
        if seKind e = 0 then
          if s.pageDie p = seDie e ∧ (s.getPage p).moving.isNone then .next (s.setEntry ctx entry .done) else .next s
        else
          let s1 := (s.touch false p).wrLocal (seCore e) (seLocal e) (s.fetchBytes p (seTiled e))
          .next ((s1.ctrDone (seCore e) (seCtr e)).setEntry ctx entry .done)
      else .next s
    | none => .next s

/-- An entry not complete by its BY sweep (R239). -/
def execScheduleEntryLate (ctx : Fin 16) (entry : Nat) (s : State) : Out :=
  let x := s.getCtx ctx
  match x.sched[entry]? with
  | some e =>
    if x.entryState entry = .begun ∧ s.reached (x.stepStartSweep + seBy e, 0) then
      .next ((s.setEntry ctx entry .late).addOd 0x2400 9 1)
    else .next s
  | none => .next s

/-! Migrations (R233 to R235) -/

/-- Whether a context's eviction is under way. -/
def State.evicting (s : State) (c : Nat) : Bool :=
  s.long.page.any fun e => e.2.moving == some false && s.pageCtx e.1 == some c

/-- A copy between tiers ends: the page's location changes. A migration into HBM waits for a frame of the budget, and an
eviction of a page written in HBM writes its sectors. What the codes find as the copy reads the page may hold it (R243). -/
def execMigrationComplete : Reading (BitVec 28) → State → Out
  | ⟨page, hw⟩, s0 =>
    let s := if s0.ladderFull hw then s0 else s0.hbmEvent hw
    let p := page.toNat
    let g := s.getPage p
    match g.moving, s.regionOf p with
    | some true, some (_, r) =>
      if (s.ladderOf p).isSome ∨ s0.ladderFull hw then .next s
      else if s.pageInHbm p then .next (s.setPage p { g with moving := none })
      else if s.framesUsed (rgCtx r) < s.frameBudget (rgCtx r) then
        .next (s.setPage p { g with moving := none, inHbm := true })
      else if s.evicting (rgCtx r) then .next s
      else .next (s.makeRoom (rgCtx r))
    | some false, some _ =>
      if (s.ladderOf p).isSome ∨ s0.ladderFull hw ∨ (s.long.heldWrites.any fun h => h.2 == some p) then .next s
      else if g.dirty then .next (s.flashWrite (s.pageSectors p) (some p))
      else .next (s.setPage p { g with inHbm := false, moving := none })
    | _, _ => .next s

/-- A held flash write proceeds once the level covers it (R223), first in first out; then a staged record of the
Spectrum recorder (17 R396; log 27). -/
def execHeldWriteRelease (s : State) : Out :=
  match s.long.heldWrites, s.obs.staging with
  | (n, p) :: r, _ =>
    if 4096 * n ≤ s.long.governor then
      .next (({ s with long := { s.long with heldWrites := r } } : State).flashWrite n p)
    else .next s
  | [], w :: r =>
    if s.long.governor ≥ 256 then
      let s1 := ({ s with obs := { s.obs with staging := [] } } : State).spectrumPut w
      .next { s1 with obs := { s1.obs with staging := r } }
    else .next s
  | [], [] => .next s

end Sys2Proof.Machine
end

