-- ==== Sys2Proof/Machine/Matrix.lean ====
section
/-!
DEFINITION. Matrix engines (05, 06): MMA, MMA.T and MMA.D by the fixed summation tree, the witness vectors, and
DRAIN with its stages.
-/

namespace Sys2Proof.Machine

/-! Accumulator slots: (engine × 8 + slot) × 256 + 16 i + j -/
def accKey (e k i j : Nat) : Nat := (e * 8 + k) * 256 + i * 16 + j
def Core.accAt (c : Core) (e k i j : Nat) : W32 := tblGet w32z c.acc (accKey e k i j)
def Core.slotRows (c : Core) (e k : Nat) : List (List W32) :=
  (List.range 16).map fun i => (List.range 16).map fun j => c.accAt e k i j

/-- Writes a slot from its 16 rows. -/
def Core.setSlot (c : Core) (e k : Nat) (rows : List (List W32)) : Core :=
  let l := ((List.range 256).zip (rows.flatMap id)).map fun p => ((e * 8 + k) * 256 + p.1, p.2)
  { c with acc := tblSetMany w32z c.acc l }

/-- The tree of 05 R109 over the products of one element. -/
def sumTree (ps : List FVal) : W32 :=
  let h := ps.length / 2
  let s0 := rnd (FV.sum (ps.take h))
  let s1 := rnd (FV.sum (ps.drop h))
  rnd (FV.add (v32 s0) (v32 s1))

/-- One element of the product of a row and a column. -/
def dotElem (a b : List FVal) : W32 := sumTree (List.zipWith FV.mul a b)

/-- The product of 16 rows of A and 16 columns of B, accumulated (05 R109). -/
def mmaSlot (init : Bool) (old : List (List W32)) (rows cols : List (List FVal)) : List (List W32) :=
  List.zipWith (fun r o => List.zipWith (fun b c =>
    let t := dotElem r b
    if init then t else rnd (FV.add (v32 c) (v32 t))) cols o) rows old

/-- Columns of a list of lines. -/
def transpose (n : Nat) (l : List (List FVal)) : List (List FVal) :=
  (List.range n).map fun j => l.map fun r => r.getD j .nan

/-! The witness cube (05 R121 to R124) -/

/-- A sum of FP32 values in the witness cube: its order is not specified, and every addition rounds and flushes (log 8). -/
def witnessSum (l : List W32) : W32 :=
  (sumAny (fun a b => rnd (FV.add (v32 a) (v32 b))) Config.sumPick l.length l).getD 0

/-- The terms that an update adds to element `x` of a witness vector: 0 ce, 1 re, 2 cm, 3 rm (R121). -/
def witnessTerms (v x : Nat) (rows cols : List (List FVal)) : List W32 :=
  let m (y : FVal) : FVal := if v < 2 then y else FV.abs y
  (List.range (rows.headD []).length).map fun k =>
    let a (r : List FVal) : FVal := m (r.getD k .nan)
    if v % 2 = 0 then rnd (FV.mul (v32 (witnessSum (rows.map fun r => rnd (a r)))) (a (cols.getD x [])))
    else rnd (FV.mul (a (rows.getD x [])) (v32 (witnessSum (cols.map fun c => rnd (a c)))))

/-- The witness vectors after an update of a slot (R121). -/
def Core.witnessUpd (c : Core) (e k : Nat) (init : Bool) (rows cols : List (List FVal)) : Core :=
  let base := (e * 8 + k) * 64
  let upd := (List.range 64).map fun x =>
    (base + x, witnessSum ((if init then 0 else tblGet w32z c.witness (base + x)) :: witnessTerms (x / 16) (x % 16) rows cols))
  { c with
    witness := tblSetMany w32z c.witness upd,
    witnessN := tblUpd nat0 c.witnessN (e * 8 + k) (fun n => if init then 1 else n + 1) }

/-- Element `x` of witness vector `v` of a slot. -/
def Core.witnessAt (c : Core) (e k v x : Nat) : W32 := tblGet w32z c.witness ((e * 8 + k) * 64 + v * 16 + x)

/-- One of the 32 tests fails: the exact sum of a column or row against its witness, within tol(m) (R122). -/
def witnessOff (n : Nat) (xs : List W32) (w m : W32) : Bool :=
  let tol := FV.add (FV.mul (.fin false (4 * n + 96) (-24)) (v32 m)) (.fin false n (-120))
  FV.lt tol (FV.abs (FV.sub (FV.sum (xs.map v32)) (v32 w)))

/-- The comparison of a slot with its witness vectors fails (R122); none takes place where a value is not finite (R123). -/
def Core.witnessFails (c : Core) (e k : Nat) : Bool :=
  let rows := c.slotRows e k
  let n := tblGet nat0 c.witnessN (e * 8 + k)
  let ws := (List.range 64).map fun x => c.witnessAt e k (x / 16) (x % 16)
  if (rows.any fun r => r.any nf32) || ws.any nf32 then false
  else (List.range 16).any fun x =>
    witnessOff n (rows.map fun r => r.getD x 0) (c.witnessAt e k 0 x) (c.witnessAt e k 2 x)
      || witnessOff n (rows.getD x []) (c.witnessAt e k 1 x) (c.witnessAt e k 3 x)

/-- A cell that returns a wrong value for an element of a slot. -/
def Core.cubeFault (c : Core) (e k : Nat) : HwEvent → Core
  | .cubeFault x v => { c with acc := tblSet w32z c.acc ((e * 8 + k) * 256 + x.val) v }
  | _ => c

/-- Whether a SCALED product has entered a slot since INIT (04 R89). -/
def Core.markScaled (c : Core) (e k : Nat) (init scaled : Bool) : Core :=
  { c with accScaled := tblUpd false0 c.accScaled (e * 8 + k) (fun old => scaled || (!init && old)) }

/-- One product into one slot. -/
def Core.mmaInto (c : Core) (e k : Nat) (init scaled : Bool) (rows cols : List (List FVal)) : Core :=
  ((c.setSlot e k (mmaSlot init (c.slotRows e k) rows cols)).witnessUpd e k init rows cols).markScaled e k init scaled

/-- The operand tile of a descriptor, as the cubes use it. -/
def State.operand (s : State) (core : Nat) (d : W128) : List (List FVal) :=
  tileVals (dFmt d) (s.rdLocal core (dAddr d).toNat (footprint (dFmt d)))

/-- Advances A and B (INCA, INCB) and counts the instruction (17 Table 17-1). -/
def State.mmaEnd (s : State) (core : Nat) (i : Insn) : State :=
  let s1 := if i.flagB 1 then s.advance core i.src1 1 else s
  let s2 := if i.flagB 2 then s1.advance core i.src2 1 else s1
  (s2.modCore core fun c => c.count (0x410 + 8 * (i.fmtN - 1)) 1).ctrField core i

/-- MMA: C := A × B with line j of B as column j (05 R113, R116). -/
def mmaBody (core : Nat) (i : Insn) (hw : HwEvent) (s1 : State) : State :=
  let c := s1.getCore core
  let da := c.rdT i.src1
  let db := c.rdT i.src2
  let rows := s1.operand core da
  let cols := s1.operand core db
  (s1.modCore core fun c =>
    (c.mmaInto i.engine i.slot (i.flagB 0) (dScaled da || dScaled db) rows cols).cubeFault i.engine i.slot hw).mmaEnd core i

def execMma (core : Fin 512) (i : Insn) (hw : HwEvent) (s : State) : Out := issueOp 1 1 core i (mmaBody core i hw) s (fun s => s.hwEvent core hw)

/-- The group of slots that an MMA.T writes (05 R117). -/
def mmaTSlots (code slot : Nat) : Nat × Nat :=
  if code ≤ 3 then (slot, 1) else if code = 0xA then (slot / 4 * 4, 4) else (slot / 2 * 2, 2)

/-- MMA.T: B's lines are the contraction index and its elements the result columns (05 R116, R117). -/
def mmaTBody (core : Nat) (i : Insn) (hw : HwEvent) (s1 : State) : State :=
  let c := s1.getCore core
  let da := c.rdT i.src1
  let db := c.rdT i.src2
  let (g, q) := mmaTSlots i.fmtN i.slot
  let h := i.slot - g
  let rows := (s1.operand core da).map fun r => if q = 1 then r else (r.drop (16 * h)).take 16
  let cols := transpose (16 * q) (s1.operand core db)
  (s1.modCore core fun c =>
    ((List.range q).foldl (fun c n =>
      c.mmaInto i.engine (g + n) (i.flagB 0) (dScaled da || dScaled db) rows ((cols.drop (16 * n)).take 16)) c).cubeFault
        i.engine g hw).mmaEnd core i

def execMmaT (core : Fin 512) (i : Insn) (hw : HwEvent) (s : State) : Out := issueOp 1 2 core i (mmaTBody core i hw) s (fun s => s.hwEvent core hw)

/-! MMA.D (05 R111) -/

/-- The product pair of two doublet elements; a part of a pair stands for its value (04 R98). -/
def dblProd (a b : W32 × W32) : W32 × W32 :=
  let x := FV.sum [FV.mul (v32 a.1) (v32 b.1), FV.mul (v32 a.1) (v32 b.2), FV.mul (v32 a.2) (v32 b.1), FV.mul (v32 a.2) (v32 b.2)]
  let r := rnd x
  if nf32 r then (r, 0) else (r, rnd (FV.sub x (v32 r)))

/-- One level of the tree. -/
def daddLevel : List (W32 × W32) → List (W32 × W32)
  | a :: b :: r => dadd a b :: daddLevel r
  | l => l

def dblDot (a b : List (W32 × W32)) : W32 × W32 :=
  (daddLevel (daddLevel (daddLevel (daddLevel (List.zipWith dblProd a b))))).headD (0, 0)

/-- MMA.D on the pair of slots k and k + 1. R121 gives the witness the hi parts alone; that slot k + 1 keeps its own vectors and its
n is the model's choice (DESIGN CHOICE, log 126). -/
def mmaDBody (core : Nat) (i : Insn) (hw : HwEvent) (s1 : State) : State :=
  let c := s1.getCore core
  let da := c.rdT i.src1
  let db := c.rdT i.src2
  let rows := tileDoublets (s1.rdLocal core (dAddr da).toNat 2048)
  let cols := tileDoublets (s1.rdLocal core (dAddr db).toNat 2048)
  let hi := c.slotRows i.engine i.slot
  let lo := c.slotRows i.engine (i.slot + 1)
  let res := (List.range 16).map fun r => (List.range 16).map fun j =>
    let p := dblDot (rows.getD r []) (cols.getD j [])
    if i.flagB 0 then p else dadd ((hi.getD r []).getD j 0, (lo.getD r []).getD j 0) p
  let hiVals (l : List (List (W32 × W32))) : List (List FVal) := l.map fun r => r.map fun p => v32 p.1
  (s1.modCore core fun c =>
    (((((c.setSlot i.engine i.slot (res.map fun r => r.map Prod.fst)).setSlot i.engine (i.slot + 1)
      (res.map fun r => r.map Prod.snd)).witnessUpd i.engine i.slot (i.flagB 0) (hiVals rows) (hiVals cols)).markScaled
        i.engine i.slot (i.flagB 0) false).markScaled i.engine (i.slot + 1) (i.flagB 0) false).cubeFault
          i.engine i.slot hw).mmaEnd core i

def execMmaD (core : Fin 512) (i : Insn) (hw : HwEvent) (s : State) : Out := issueOp 1 3 core i (mmaDBody core i hw) s (fun s => s.hwEvent core hw)

/-! Fused derivatives (06 R131): every operation rounds once and flushes -/
def fmul (a b : W32) : W32 := rnd (FV.mul (v32 a) (v32 b))
def fadd (a b : W32) : W32 := rnd (FV.add (v32 a) (v32 b))
def fsub (a b : W32) : W32 := rnd (FV.sub (v32 a) (v32 b))
def fexp (a : W32) : W32 := flush32 (exp32 a)
def frcp (a : W32) : W32 := flush32 (rcp32 a)
def two32 : W32 := 0x40000000
def three32 : W32 := 0x40400000
def half32 : W32 := 0x3F000000
def geluC : W32 := 0x3F4C422A
def geluK : W32 := 0x3D372713

def sgF (x : W32) : W32 := frcp (fadd one32 (fexp (neg32 x)))
def thF (x : W32) : W32 := fsub (fmul two32 (sgF (fmul two32 x))) one32
def dsiluF (x : W32) : W32 := fmul (sgF x) (fadd one32 (fmul x (fsub one32 (sgF x))))
def gzF (x : W32) : W32 := fmul geluC (fadd x (fmul (fmul (fmul geluK x) x) x))
def geluF (x : W32) : W32 := fmul (fmul half32 x) (fadd one32 (thF (gzF x)))
def dgeluF (x : W32) : W32 :=
  fadd (fmul half32 (fadd one32 (thF (gzF x))))
    (fmul (fmul (fmul (fmul half32 x) (fsub one32 (fmul (thF (gzF x)) (thF (gzF x))))) geluC)
      (fadd one32 (fmul (fmul (fmul three32 geluK) x) x)))

/-- x > 0, false on NaN. -/
def pos32 (x : W32) : Bool := lt32 0 x

/-- The stage output of a derivative code (06 Table 06-1). -/
def derivOut (code : Nat) (v x u : W32) : W32 :=
  if code = 1 then fmul v (if pos32 x then one32 else 0)
  else if code = 2 then fmul v (if pos32 x then fmul two32 x else 0)
  else if code = 3 then (let s := sgF x; fmul (fmul v s) (fsub one32 s))
  else if code = 4 then (let t := thF x; fmul v (fsub one32 (fmul t t)))
  else if code = 5 then fmul v (dsiluF x)
  else if code = 6 then fmul v (sgF x)
  else if code = 7 then fmul v (dgeluF x)
  else if code = 8 then fmul (fmul v u) (dsiluF x)
  else if code = 9 then fmul v (fmul x (sgF x))
  else if code = 0xA then fmul (fmul v u) (dgeluF x)
  else if code = 0xB then fmul v (geluF x)
  else v

/-! DRAIN (05 R118, R119) -/

/-- A saved-input tile decoded, flushed, and cut to the drained columns (06 R130, R132). -/
def State.savedTile (s : State) (core : Nat) (d : W128) (cols slot : Nat) : List (List W32) :=
  let t := v32 (s.rdRec core d).tscale
  let l := tileDecode (dFmt d) t (s.rdLocal core (dAddr d).toNat (footprint (dFmt d)))
  l.map fun r => ((if r.length = cols then r else (r.drop (16 * (slot % 2))).take 16)).map flush32

/-- What the stages before conversion make of one element: its value, and whether it is a detection of source 0x1. An element that shows
several non-finite values at once, in its slot, its saved inputs or the derivative's output, is one detection (DESIGN CHOICE,
log 127). -/
def drainElem (useRec : Bool) (gain : W32) (deriv : Nat) (a x u : W32) : W32 × Bool :=
  let v := if useRec then flush32 (rne32 (FV.mul (v32 a) (v32 gain))) else a
  let w := if deriv = 0 then v else derivOut deriv v x u
  (w, nf32 a || nf32 w || (deriv != 0 && nf32 x) || ((deriv == 8 || deriv == 0xA) && nf32 u))

/-- Elementwise combination of three tiles of lines. -/
def zip3 (f : W32 → W32 → W32 → W32 × Bool) (a x u : List (List W32)) : List (List (W32 × Bool)) :=
  ((List.range a.length).zip a).map fun ir =>
    ((List.range ir.2.length).zip ir.2).map fun jv =>
      f jv.2 ((x.getD ir.1 []).getD jv.1 0) ((u.getD ir.1 []).getD jv.1 0)

/-- The additions of an ACCUM: each sum rounded and flushed (03 R74), and how many are not finite. -/
def accumBytes (old new : List Byte) : List Byte × Nat :=
  let sums := accumSums old new
  (sums.flatMap fun x => leBytes 4 x.toNat, (sums.filter nf32).length)

end Sys2Proof.Machine

namespace Sys2Proof

open Machine

/-- Coordinates of a DRAIN with DIGEST (15 Table 15-4). -/
def Insn.dSlot (i : Insn) : Nat := fld i.imm 63 48
def Insn.dRow (i : Insn) : Nat := fld i.imm 47 24
def Insn.dColBase (i : Insn) : Nat := fld i.imm 23 0

end Sys2Proof

namespace Sys2Proof.Machine

/-- What a DRAIN is to write: the tile, and the values that enter conversion. -/
structure DrainOut where
  tile : TileOut
  vals : List W32
  detections : Nat
  deriving DecidableEq, Repr

/-- Stages 2 to 4. -/
def State.drainTile (s : State) (core : Nat) (c : Core) (i : Insn) (d : W128) (useRec : Bool) (r : Rec) : DrainOut :=
  let seed := match s.ctxOfCore core with
    | some x => (s.getCtx x).seed
    | none => 0
  let (g, n) := drainSlots i.fmtN i.slot
  let slots := (List.range n).map fun q => c.slotRows i.engine (g + q)
  let rd := recRounding (useRec && r.rmode == 1) seed r (dIndex d)
  if i.fmtN = 0xB then
    let gainOf (a : W32) : W32 := (drainElem useRec r.inGain 0 a 0 0).1
    let ps := List.zipWith (fun a b => (gainOf a, gainOf b)) ((slots.getD 0 []).flatMap id) ((slots.getD 1 []).flatMap id)
    let t := doubletTile flush32 ps
    ⟨t, ps.map Prod.fst, (ps.filter fun p => nf32 p.1 || nf32 p.2).length⟩
  else
    let rows := (List.range 16).map fun k => slots.flatMap fun sl => sl.getD k []
    let cols := 16 * n
    let x := if i.deriv = 0 then [] else s.savedTile core (c.rdT i.src2) cols i.slot
    let u := if i.deriv = 8 ∨ i.deriv = 0xA then s.savedTile core (c.rdT i.src3) cols i.slot else []
    let es := zip3 (drainElem useRec r.inGain i.deriv) rows x u
    let vals := es.map fun l => l.map Prod.fst
    let t := convTile i.fmtN r.tscale rd vals
    let flat := es.flatMap id
    let hidden := (flat.filter fun p => p.2 && !nf32 p.1).length
    ⟨t, vals.flatMap id, hidden + (if isMx i.fmtN then t.nf else (flat.filter fun p => nf32 p.1).length)⟩

/-- The slots that a DRAIN compares with their witness vectors: those it reads, the hi slot of a doublet pair (05 R122). -/
def witnessSlots (i : Insn) : List Nat :=
  let (g, n) := drainSlots i.fmtN i.slot
  if i.fmtN = 0xB then [g] else (List.range n).map fun q => g + q

/-- Stage 1 of a DRAIN: a failed comparison is a witness event, one for each slot (05 R122, R124). -/
def State.drainWitness (s : State) (core : Nat) (i : Insn) : State :=
  let c := s.getCore core
  ((witnessSlots i).filter fun k => c.witnessFails i.engine k).foldl
    (fun s k => s.coreEvent core false ⟨some i.engine, some k, some (c.pc + c.pos)⟩) s

def drainBody (core : Nat) (i : Insn) (s1 : State) : State :=
  let c := s1.getCore core
  let d := c.rdT i.src1
  let useRec := c.drainReadsRec i d
  let r := s1.rdRec core d
  let ctx := s1.ctxOfCore core
  let a := (dAddr d).toNat
  let out := s1.drainTile core c i d useRec r
  let s2 := if useRec then (s1.wrRec core d ((r.addNf out.tile.nf).raise out.tile.amax)).sampleTensor ctx 1 r.tensorId.toNat out.vals else s1
  let s3 := s2.nonfinite core (c.pc + c.pos) 1 out.detections
  let (bytes, bad) := if i.flagB 0 then accumBytes (s3.rdLocal core a out.tile.bytes.length) out.tile.bytes else (out.tile.bytes, 0)
  let s4 := s3.nonfinite core (c.pc + c.pos) 2 bad
  let s5 := if i.flagB 2 then
      (match ctx with
       | some x => s4.addDigest x i.dSlot 0 (tileDigest r.tensorId.toNat i.dRow (i.dColBase + dIndex d) i.fmtN bytes)
       | none => s4)
    else s4
  let s6 := s5.wrLocal core a bytes
  let s7 := if i.flagB 1 then
      let t1 := s6.advance core i.src1 1
      let t2 := if i.deriv ≠ 0 then t1.advance core i.src2 1 else t1
      if i.deriv = 8 ∨ i.deriv = 0xA then t2.advance core i.src3 1 else t2
    else s6
  (s7.modCore core fun c => c.count 0x468 1).ctrField core i

/-- The addends of a DRAIN with ACCUM. -/
def State.drainAddends (s : State) (core : Nat) (i : Insn) : List Byte :=
  let c := s.getCore core
  let d := c.rdT i.src1
  (s.drainTile core c i d (c.drainReadsRec i d) (s.rdRec core d)).tile.bytes

def execDrain (core : Fin 512) (i : Insn) (hw : HwEvent) (s : State) : Out :=
  issueOp 1 8 core i (drainBody core i) s (fun s => (s.drainWitness core i).hwEvent core hw) (fun v => v.drainAddends core i)

end Sys2Proof.Machine
end

