-- ==== Sys2Proof/Machine/Vector.lean ====
section
/-!
DEFINITION. The vector engine (03 R71, 04 R106): arithmetic, reductions, conversion and the four functions over
walks of engine tiles.
-/

namespace Sys2Proof.Machine

/-- The FP32 values of an engine tile of a walk (03 R71). -/
def vecVals (code : Nat) (t : FVal) (l : List Byte) : List W32 :=
  if code = 1 then (unpack32 l).map fun p => rne32 (decodeF fp32 p)
  else if code = 0xB then (pairs (unpack32 l)).map fun p => dblTo32 p.1 p.2
  else (tileDecode code t l).flatMap id

/-- A tile of a walk read as FP32 values. -/
def State.vecTile (s : State) (core : Nat) (d : W128) (a : Int) : List W32 :=
  let t := if dScaled d then v32 (s.rdRec core d).tscale else FV.ofNat 1
  vecVals (dFmt d) t (s.rdLocal core a.toNat (vecBytes (dFmt d)))

/-- Results of a tile written as FP32 or BF16, with the number that are not finite. -/
def vecStore (code : Nat) (rd : Rounding) (vs : List W32) : List Byte × Nat :=
  if code = 1 then (vs.flatMap fun x => leBytes 4 x.toNat, (vs.filter nf32).length)
  else
    let ps := ((List.range vs.length).zip vs).map fun pv => encodeF bf16 (rd.mode pv.1) (v32 pv.2)
    (ps.flatMap (leBytes 2), (ps.filter fun p => FV.nonfinite (decodeF bf16 p)).length)

/-- Writes of a walk land three tiles after they are formed: a tile is read before the writes of the three tiles
before it (Table 03-6: 2 cc a tile and latency 6, or 4 and 12). -/
def State.lagWrite (s : State) (core : Nat) (q : List (Int × List Byte)) (w : Int × List Byte) : State × List (Int × List Byte) :=
  match q with
  | a :: b :: c :: [] => (s.wrLocal core a.1.toNat a.2, [b, c, w])
  | l => (s, l ++ [w])

/-- The writes still on their way. -/
def State.lagFlush (s : State) (core : Nat) (q : List (Int × List Byte)) : State :=
  q.foldl (fun s w => s.wrLocal core w.1.toNat w.2) s

/-- The context's rounding seed of a core (04 R103). -/
def State.seedOf (s : State) (core : Nat) : W64 :=
  match s.ctxOfCore core with
  | some x => (s.getCtx x).seed
  | none => 0

/-- The rounding of a destination tile: ROUND 1 draws from the record (04 R102). -/
def State.vecRounding (s : State) (core : Nat) (i : Insn) (d : W128) (index : Nat) : Rounding :=
  if fld i.flags 1 0 = 1 then recRounding true (s.seedOf core) (s.rdRec core d) index else nearest

/-- Positions of `n` steps of a walk. -/
def walkIdx (d : W128) : Nat → Nat → List Nat
  | 0, _ => []
  | n + 1, i => i :: walkIdx d n (nextIndex (dWrap d) i)

/-- Applies `f` to the operand tiles of each position and writes the results; counts detections of source 0x3. -/
def State.vecWalk (s : State) (core : Nat) (i : Insn) (srcs : List W128) (f : List (List W32) → List W32) : State :=
  let c := s.getCore core
  let d := c.rdT i.dst
  let idx := walkIdx d i.count (dIndex d)
  let srcA := srcs.map fun a => walk a i.count (dIndex a)
  let (s1, q, bad) := ((List.range i.count).zip idx).foldl (fun (st : State × List (Int × List Byte) × Nat) kj =>
    let (s, q, bad) := st
    let tiles := (srcs.zip srcA).map fun p => s.vecTile core p.1 (p.2.getD kj.1 0)
    let (bytes, n) := vecStore i.fmtN (s.vecRounding core i d kj.2) (f tiles)
    let (s1, q1) := s.lagWrite core q (dAddrAt d kj.2, bytes)
    (s1, q1, bad + n)) (s, [], 0)
  (s1.lagFlush core q).nonfinite core (c.pc + c.pos) 3 bad

/-- INC, the tile counter, and CTR. -/
def State.vecEnd (s : State) (core : Nat) (i : Insn) (regs : List (BitVec 6)) (off : Nat) : State :=
  let s1 := if i.flagB 2 then regs.foldl (fun s r => s.advance core r i.count) s else s
  (s1.modCore core fun c => c.count off i.count).ctrField core i

/-- Two and three operand arithmetic. -/
def zip2W (f : W32 → W32 → W32) (l : List (List W32)) : List W32 := List.zipWith f (l.getD 0 []) (l.getD 1 [])
def fmaW (l : List (List W32)) : List W32 :=
  List.zipWith (fun (p : W32 × W32) z => fma32 p.1 p.2 z) (List.zip (l.getD 0 []) (l.getD 1 [])) (l.getD 2 [])

def vecBody2 (core : Nat) (i : Insn) (f : W32 → W32 → W32) (s1 : State) : State :=
  let c := s1.getCore core
  (s1.vecWalk core i [c.rdT i.src1, c.rdT i.src2] (zip2W f)).vecEnd core i [i.dst, i.src1, i.src2] 0x478

def execVadd (core : Fin 512) (i : Insn) (hw : HwEvent) (s : State) : Out := issueOp 2 1 core i (vecBody2 core i add32) s (fun s => s.vecEvent core hw)
def execVsub (core : Fin 512) (i : Insn) (hw : HwEvent) (s : State) : Out := issueOp 2 2 core i (vecBody2 core i sub32) s (fun s => s.vecEvent core hw)
def execVmul (core : Fin 512) (i : Insn) (hw : HwEvent) (s : State) : Out := issueOp 2 3 core i (vecBody2 core i mul32) s (fun s => s.vecEvent core hw)
/-- VMAX and VMIN: maximum and minimum of IEEE 754-2019, for which −0 is less than +0 (04 R105, R106; log 53). -/
def vmax32 (a b : W32) : W32 := if zero32 a ∧ zero32 b ∧ a ≠ b then 0 else max32 a b
def vmin32 (a b : W32) : W32 := if zero32 a ∧ zero32 b ∧ a ≠ b then 0x80000000 else min32 a b

def execVmax (core : Fin 512) (i : Insn) (hw : HwEvent) (s : State) : Out := issueOp 2 5 core i (vecBody2 core i vmax32) s (fun s => s.vecEvent core hw)
def execVmin (core : Fin 512) (i : Insn) (hw : HwEvent) (s : State) : Out := issueOp 2 6 core i (vecBody2 core i vmin32) s (fun s => s.vecEvent core hw)

def vfmaBody (core : Nat) (i : Insn) (s1 : State) : State :=
  let c := s1.getCore core
  (s1.vecWalk core i [c.rdT i.src1, c.rdT i.src2, c.rdT i.src3] fmaW).vecEnd core i [i.dst, i.src1, i.src2, i.src3] 0x478
def execVfma (core : Fin 512) (i : Insn) (hw : HwEvent) (s : State) : Out := issueOp 2 4 core i (vfmaBody core i) s (fun s => s.vecEvent core hw)

def vecBody1 (core : Nat) (i : Insn) (f : W32 → W32) (s1 : State) : State :=
  let c := s1.getCore core
  (s1.vecWalk core i [c.rdT i.src1] (fun l => (l.getD 0 []).map f)).vecEnd core i [i.dst, i.src1] 0x490

def execVexp (core : Fin 512) (i : Insn) (hw : HwEvent) (s : State) : Out := issueOp 2 0x20 core i (vecBody1 core i exp32) s (fun s => s.vecEvent core hw)
def execVlog (core : Fin 512) (i : Insn) (hw : HwEvent) (s : State) : Out := issueOp 2 0x21 core i (vecBody1 core i ln32) s (fun s => s.vecEvent core hw)
def execVrsqrt (core : Fin 512) (i : Insn) (hw : HwEvent) (s : State) : Out := issueOp 2 0x22 core i (vecBody1 core i rsqrt32) s (fun s => s.vecEvent core hw)
def execVrcp (core : Fin 512) (i : Insn) (hw : HwEvent) (s : State) : Out := issueOp 2 0x23 core i (vecBody1 core i rcp32) s (fun s => s.vecEvent core hw)

/-- A reduction of every element of a walk into DST, as FP32 bits; a count of zero leaves DST unchanged (03 R78). -/
def reduceBody (core : Nat) (i : Insn) (f : List W32 → W32) (s1 : State) : State :=
  let c := s1.getCore core
  let d := c.rdT i.src1
  let r := f ((walk d i.count (dIndex d)).flatMap fun a => s1.vecTile core d a)
  let s2 := if i.count = 0 then s1
    else (s1.modCore core fun c => c.wrS i.dst.toNat (BitVec.ofNat 64 r.toNat)).nonfinite core (c.pc + c.pos) 3 (if nf32 r then 1 else 0)
  s2.vecEnd core i [i.src1] 0x480

def absMax (l : List W32) : W32 := l.foldl (fun m x => max32 m (abs32 x)) 0

def execVabsmax (core : Fin 512) (i : Insn) (hw : HwEvent) (s : State) : Out := issueOp 2 7 core i (reduceBody core i absMax) s (fun s => s.vecEvent core hw)
/-- VSUM: FP32 additions in an order that the manual leaves open (log 10). -/
def vsum32 (l : List W32) : W32 := (sumAny add32 Config.sumPick l.length l).getD 0

def execVsum (core : Fin 512) (i : Insn) (hw : HwEvent) (s : State) : Out :=
  issueOp 2 8 core i (reduceBody core i vsum32) s (fun s => s.vecEvent core hw)

/-! VCVT (04 R92, R100, R101, R472) -/

/-- One destination tile from its elements. -/
def cvtTile (code : Nat) (t : W32) (rd : Rounding) (vs : List W32) : TileOut :=
  if code = 0xB then doubletTile id (vs.map fun x => (rne32 (v32 x), 0))
  else if isMx code then mxTile code t rd (chunks (lineElems code) 16 vs)
  else plainTile code rd [vs]

/-- Doublet sources keep both parts where the destination is a doublet. -/
def State.vecPairs (s : State) (core : Nat) (a : Int) : List (W32 × W32) := pairs (unpack32 (s.rdLocal core a.toNat 512))

/-- Results of a converted tile that are not finite (06 Table 06-3, source 0x3; R92 counts the blocks of an MX tile). -/
def cvtBad (code : Nat) (t : TileOut) : Nat :=
  if isMx code then t.nf
  else if code = 0xB then ((pairs (unpack32 t.bytes)).filter fun p => nf32 p.1).length
  else ((unpackBytes code t.bytes).filter fun p => FV.nonfinite (decodeF (elemFmt code) p)).length

def vcvtBody (core : Nat) (i : Insn) (s1 : State) : State :=
  let c := s1.getCore core
  let d := c.rdT i.dst
  let a := c.rdT i.src1
  let code := dFmt d
  let per := vecElems code
  let useRec := (dScaled d || fld i.flags 1 0 == 1) && i.count != 0
  let srcA := walk a (vcvtSrcTiles code (dFmt a) i.count) (dIndex a)
  let perSrc := vecElems (dFmt a)
  let idx := walkIdx d i.count (dIndex d)
  let r0 := s1.rdRec core d
  let (s2, q, bad, r, vals) := ((List.range i.count).zip idx).foldl
    (fun (st : State × List (Int × List Byte) × Nat × Rec × List W32) kj =>
      let (s, q, bad, r, vals) := st
      let first := kj.1 * per / perSrc
      let tiles := (srcA.drop first).take (cdiv (kj.1 * per % perSrc + per) perSrc)
      let out :=
        if code = 0xB ∧ dFmt a = 0xB then doubletTile id (((tiles.flatMap fun x => s.vecPairs core x).drop (kj.1 * per % perSrc)).take per)
        else cvtTile code r.tscale (s.vecRounding core i d kj.2)
          (((tiles.flatMap fun x => s.vecTile core a x).drop (kj.1 * per % perSrc)).take per)
      let seen := ((tiles.flatMap fun x => s.vecTile core a x).drop (kj.1 * per % perSrc)).take per
      let (s1, q1) := s.lagWrite core q (dAddrAt d kj.2, out.bytes)
      (s1, q1, bad + cvtBad code out, (r.addNf out.nf).raise out.amax, vals ++ seen)) (s1, [], 0, r0, [])
  let s3 := s2.lagFlush core q
  let s4 := if useRec then (s3.wrRec core d r).sampleTensor (s3.ctxOfCore core) 1 r0.tensorId.toNat vals else s3
  (s4.nonfinite core (c.pc + c.pos) 3 bad).vecEnd core i [i.dst, i.src1] 0x488

def execVcvt (core : Fin 512) (i : Insn) (hw : HwEvent) (s : State) : Out := issueOp 2 0x10 core i (vcvtBody core i) s (fun s => s.vecEvent core hw)

end Sys2Proof.Machine
end

