-- ==== Sys2Proof/Machine/Solver.lean ====
section
/-!
DEFINITION. The solver engine (08): submission, durations, factorisations and solves, matrix roots, POLAR, root buffers,
deadlines.

A matrix is a list of rows of exact values, each representable in its working precision. Native sums run in the FP64 lanes,
products of a blocked job on the lent engines by MMA (R177); the order of their additions is open (log 10).
-/

namespace Sys2Proof.Machine

/-! Job descriptors (Table 08-1) -/
def jSrc (d : BitVec 1024) : W64 := BitVec.ofNat 64 (fld d 1023 960)
def jAux (d : BitVec 1024) : W64 := BitVec.ofNat 64 (fld d 959 896)
def jDst (d : BitVec 1024) : W64 := BitVec.ofNat 64 (fld d 895 832)
def jRec (d : BitVec 1024) : W64 := BitVec.ofNat 64 (fld d 831 768)
def jHash (d : BitVec 1024) : Nat := fld d 767 736
def jStart (d : BitVec 1024) : Nat × Nat := (fld d 703 640, fld d 575 565)
def jDeadline (d : BitVec 1024) : Nat × Nat := (fld d 639 576, fld d 564 554)
def jDamp (d : BitVec 1024) : W32 := BitVec.ofNat 32 (fld d 511 480)
def jMu (d : BitVec 1024) : W32 := BitVec.ofNat 32 (fld d 479 448)
def jN (d : BitVec 1024) : Nat := fld d 447 432
def jK (d : BitVec 1024) : Nat := fld d 431 416
def jBatch (d : BitVec 1024) : Nat := fld d 415 400
def jOp (d : BitVec 1024) : Nat := fld d 399 392
def jPrec (d : BitVec 1024) : Nat := fld d 391 384
def jIters (d : BitVec 1024) : Nat := fld d 383 376
def jWarmIters (d : BitVec 1024) : Nat := fld d 375 368
def jLend (d : BitVec 1024) : Nat := fld d 367 352
def jP (d : BitVec 1024) : Nat := fld d 351 349
def jWarm (d : BitVec 1024) : Bool := flag d 348
def jUpper (d : BitVec 1024) : Bool := flag d 347
def jTrans (d : BitVec 1024) : Bool := flag d 346
def jSide (d : BitVec 1024) : Bool := flag d 345
def jDoneCore (d : BitVec 1024) : Nat := fld d 344 342
def jDoneCtr (d : BitVec 1024) : Nat := fld d 341 336

def opChol : Nat := 0x01
def opLdlt : Nat := 0x02
def opTrsm : Nat := 0x03
def opTrinv : Nat := 0x04
def opSyrk : Nat := 0x05
def opInvroot : Nat := 0x10
def opSqrt : Nat := 0x11
def opPolar : Nat := 0x12

def jBlocked (d : BitVec 1024) : Bool := jLend d != 0
def jBatched (d : BitVec 1024) : Bool := decide (1 ≤ jOp d ∧ jOp d ≤ 5)
def jRoot (d : BitVec 1024) : Bool := jOp d == opInvroot || jOp d == opSqrt

/-- Whether a descriptor breaks a rule of Table 08-2. -/
def jobRefused (d : BitVec 1024) : Bool :=
  let op := jOp d
  let n := jN d
  let b := jBlocked d
  fld d 735 704 != 0 || fld d 553 512 != 0 || fld d 335 0 != 0
    || n == 0 || (!b && decide (n > 256)) || (b && decide (n % 16 ≠ 0 ∨ n > 4096))
    || (b && (op == opChol || op == opLdlt) && n % 256 != 0)
    || !(jBatched d || jRoot d || op == opPolar) || (b && decide (3 ≤ op ∧ op ≤ 5))
    || (if jBatched d then jPrec d != 1 && jPrec d != 0xB && jPrec d != 0xC
        else if jRoot d then jPrec d != 1 && jPrec d != 0xB else jPrec d != 2)
    || (b && jPrec d == 0xC) || (op == opInvroot && jP d != 1 && jP d != 2 && jP d != 4)
    || (decide (jBatch d > 1) && (b || !jBatched d))
    || (op == opPolar && (decide (jK d > 4096) || (b && jK d % 16 != 0)))
    || (jWarm d && op != opInvroot)
    || (jRoot d && (nf32 (jMu d) || !lt32 0 (jMu d)))
    || nf32 (jDamp d) || lt32 (jDamp d) 0
    || decide (48 ≤ jDoneCtr d ∧ jDoneCtr d ≤ 62) || decide ((jStart d).2 > 1249) || decide ((jDeadline d).2 > 1249)

/-- An XPUT to a cluster's solver window (R172, R175). -/
def State.solverCheck (s : State) (k : Nat) (data : List Byte) : Nat :=
  if data.length = 0 then stOk
  else if ¬ s.time.held ∨ data.length ≠ 128 ∨ jobRefused (BitVec.ofNat 1024 (leNat data)) ∨ (s.getCluster k).solverQ.length ≥ 64 then stAccess
  else stOk
def State.solverWrite (s : State) (k : Nat) (data : List Byte) : State :=
  if data.length = 0 then s
  else s.modCluster k fun c => { c with solverQ := c.solverQ ++ [BitVec.ofNat 1024 (leNat data)] }

def execSolverSubmission (o : Origin) (cluster : Fin 64) (data : List Byte) (s : State) : Out :=
  .next (s.structWrite o (s.solverCheck cluster data) fun s => s.solverWrite cluster data)

/-! Durations (R189) -/
def bitCount (w n : Nat) : Nat := (bitsOf w n).length
def fullProducts (p : Nat) : Nat := if p = 1 then 2 else if p = 2 then 3 else 4
def formProducts (p : Nat) : Nat := if p = 1 then 1 else if p = 2 then 2 else 3

/-- Half products of an INVROOT: FP32 or FP64 phase, doublet phase (Table 08-6, R180). -/
def halfProducts (dbl warm : Bool) (p count : Nat) : Nat × Nat :=
  let r := if warm then formProducts p else 0
  if dbl then
    if count < 3 then (0, r + (count - 1) * fullProducts p + 1)
    else (r + (count - 3) * fullProducts p + 1, formProducts p + fullProducts p + 1)
  else (r + (count - 1) * fullProducts p + 1, 0)

/-- The duration of a root job with given half products. -/
def rootDuration (d : BitVec 1024) (h : Nat × Nat) : Nat :=
  let n := jN d
  if jBlocked d then
    let t := n / 16
    2000 + cdiv (10 * (16 * h.1 + 64 * h.2) * (t * t * (t + 1) / 2)) (9 * bitCount (jLend d) 16)
  else 2000 + cdiv (10 * (h.1 + h.2) * (n * n * (n + 1))) (9 * 512)

/-- Root order and iteration count of a root job on a path. -/
def jOrder (d : BitVec 1024) : Nat := if jOp d = opSqrt then 2 else jP d
def jCount (d : BitVec 1024) (warm : Bool) : Nat := if warm then jWarmIters d else jIters d
def jDouble (d : BitVec 1024) : Bool := jBlocked d && jPrec d == 0xB

/-- Half products of a path, with SQRT's last product in the final precision (R182). -/
def pathProducts (d : BitVec 1024) (warm : Bool) : Nat × Nat :=
  let h := halfProducts (jDouble d) warm (jOrder d) (jCount d warm)
  if jOp d = opSqrt then (if jDouble d then (h.1, h.2 + 1) else (h.1 + 1, h.2)) else h

/-- The duration of a job on a path; `fb` is a fallback after the warm products, `x` the open duration of a native POLAR,
for which R189 gives no figure. -/
def jobDuration (d : BitVec 1024) (warm fb : Bool) (x : Nat) : Nat :=
  let n := jN d
  let k := jK d
  let op := jOp d
  if jRoot d then
    let h := pathProducts d (warm && !fb)
    let r := if fb then formProducts (jOrder d) else 0
    rootDuration d (if jDouble d && decide (jWarmIters d < 3) then (h.1, h.2 + r) else (h.1 + r, h.2))
  else if op = opPolar then
    if jBlocked d then
      let tn := n / 16
      let tk := k / 16
      2000 + cdiv (10 * 5 * (tn * (tn + 1) * tk / 2 + tn * tn * (tn + 1) / 2 + tn * tn * tk)) (9 * bitCount (jLend d) 16)
    else 2000 + x
  else if jBlocked d then
    let p := n / 256
    let q := 16 * ((List.range p).foldl (fun a i => a + (128 * i * i + 8 * i)) 0) + 2048 * p * (p - 1)
    2000 + 22246 * p + cdiv (10 * (if jPrec d = 0xB then 64 else 16) * q) (9 * bitCount (jLend d) 16)
  else
    let f2 := if op = opTrsm then 3 * n * n * k else if op = opSyrk then 3 * n * (n + 1) * k else n * n * n
    2000 + jBatch d * (200 + cdiv f2 (6 * 256))

/-! Values -/
abbrev Mat := List (List FVal)

def fzero : FVal := .fin false 0 0
def fone : FVal := .fin false 1 0

/-- A value rounded into a precision (R177, R100, R101). -/
def roundTo (prec : Nat) (v : FVal) : FVal :=
  if prec = 1 then decodeF fp32 (encodeF fp32 .rne v)
  else if prec = 2 then decodeF bf16 (encodeF bf16 .rne v)
  else if prec = 0xB then (let h := dblOfVal v; dblVal h.1 h.2)
  else decodeF fp64 (encodeF fp64 .rne v)

/-- Bytes of an element. -/
def precBytes (prec : Nat) : Nat := if prec = 1 then 4 else if prec = 2 then 2 else 8

def readElem (prec : Nat) (l : List Byte) : FVal :=
  if prec = 1 then decodeF fp32 (leNat (l.take 4))
  else if prec = 2 then decodeF bf16 (leNat (l.take 2))
  else if prec = 0xB then dblVal (BitVec.ofNat 32 (leNat (l.take 4))) (BitVec.ofNat 32 (leNat ((l.drop 4).take 4)))
  else decodeF fp64 (leNat (l.take 8))

def writeElem (prec : Nat) (v : FVal) : List Byte :=
  if prec = 1 then leBytes 4 (encodeF fp32 .rne v)
  else if prec = 2 then leBytes 2 (encodeF bf16 .rne v)
  else if prec = 0xB then (let h := dblOfVal v; leBytes 4 h.1.toNat ++ leBytes 4 h.2.toNat)
  else leBytes 8 (encodeF fp64 .rne v)

def readMat (prec rows cols : Nat) (l : List Byte) : Mat :=
  (List.range rows).map fun i => (List.range cols).map fun j =>
    readElem prec (l.drop (tileIndex rows cols i j * precBytes prec))

def Mat.at_ (m : Mat) (i j : Nat) : FVal := (m.getD i []).getD j fzero

def writeMat (prec rows cols : Nat) (m : Mat) : List Byte :=
  (List.range (cdiv rows 16)).flatMap fun a => (List.range (cdiv cols 16)).flatMap fun b =>
    (List.range (min 16 (rows - 16 * a))).flatMap fun i => (List.range (min 16 (cols - 16 * b))).flatMap fun j =>
      writeElem prec (m.at_ (16 * a + i) (16 * b + j))

def mkMat (rows cols : Nat) (f : Nat → Nat → FVal) : Mat :=
  (List.range rows).map fun i => (List.range cols).map fun j => f i j

def Mat.transposed (rows cols : Nat) (m : Mat) : Mat := mkMat cols rows fun i j => m.at_ j i
def Mat.finite (m : Mat) : Bool := m.all fun r => r.all fun v => !FV.nonfinite v

/-- An addition in the FP64 lanes: an exact product (`true`) enters by a fused multiply-add; of two products the first is rounded
on its own. -/
def laneAdd (x y : FVal × Bool) : FVal × Bool :=
  (roundTo 0xC (FV.add (if x.2 && y.2 then roundTo 0xC x.1 else x.1) y.1), false)

/-- A sum of products in the FP64 lanes (R169, R177), in an open order (log 10). -/
def laneDot (a b : List FVal) : FVal :=
  let l := (List.zipWith FV.mul a b).map fun v => (v, true)
  match sumAny laneAdd (fun l => Config.solverPick (l.map Prod.fst)) l.length l with
  | some v => roundTo 0xC v.1
  | none => fzero

/-- Part `k` of a list in parts of 16, zero beyond its end. -/
def part16 {α : Type} (z : α) (l : List α) (k : Nat) : List α := (List.range 16).map fun t => l.getD (16 * k + t) z

/-- A sum of products accumulated by MMA.fmt: the tree of 05 R109 over each 16 of them, the accumulations in an open order (log 10). -/
def engineSum (a b : List FVal) : W32 :=
  let n := cdiv a.length 16
  (sumAny fadd Config.sumPick n ((List.range n).map fun k => dotElem (part16 fzero a k) (part16 fzero b k))).getD 0

/-- The same by MMA.D (05 R111). -/
def engineSumD (a b : List FVal) : W32 × W32 :=
  let n := cdiv a.length 16
  let x (l : List FVal) (k : Nat) : List (W32 × W32) := part16 (0, 0) (l.map dblOfVal) k
  (sumAny dadd (fun l => Config.sumPick (l.map Prod.fst)) n ((List.range n).map fun k => dblDot (x a k) (x b k))).getD (0, 0)

/-- A sum of products in a precision: FP64 in the lanes, any other on the engines (R177). -/
def sdot (prec : Nat) (a b : List FVal) : FVal :=
  if prec = 0xC then laneDot a b
  else if prec = 0xB then (let h := engineSumD a b; dblVal h.1 h.2)
  else roundTo prec (v32 (engineSum a b))

/-- Elementwise work of the solver engine: computed in FP64, then held in the working precision. -/
def ew (prec : Nat) (v : FVal) : FVal := roundTo prec (roundTo 0xC v)

def fdiv (a b : FVal) : FVal := decodeF fp64 (divF fp64 .rne a b)
def fsqrt (a : FVal) : FVal := decodeF fp64 (sqrtF fp64 a)
def fge (a b : FVal) : Bool := FV.lt b a || (!FV.lt a b && !FV.nonfinite a && !FV.nonfinite b)
def fmax (a b : FVal) : FVal := if FV.lt a b then b else a

/-- A product of matrices. -/
def matMul (prec rows cols : Nat) (a b : Mat) : Mat :=
  let bt := b.transposed (b.length) cols
  mkMat rows cols fun i j => sdot prec (a.getD i []) (bt.getD j [])

/-- A symmetric product: the upper triangle and its exact mirror (R179). -/
def symMul (prec n : Nat) (a b : Mat) : Mat :=
  let bt := b.transposed b.length n
  let up := mkMat n n fun i j => if i ≤ j then sdot prec (a.getD i []) (bt.getD j []) else fzero
  mkMat n n fun i j => if i ≤ j then up.at_ i j else up.at_ j i

def frob (m : Mat) : FVal := fsqrt (sdot 0xC m.flatten m.flatten)

/-! Factorisations and solves (R177, R178) -/

/-- The result of one matrix: the output, and the rows whose pivots were regularised, in order. -/
structure Factored where
  out : Mat
  regs : List Nat
  deriving DecidableEq, Repr

/-- The largest diagonal magnitude, 1.0 where it is zero or subnormal in FP64. -/
def diagMax (n : Nat) (a : Mat) : FVal :=
  let m := (List.range n).foldl (fun m i => fmax m (FV.abs (a.at_ i i))) fzero
  if FV.lt m (.fin false 1 (-1022)) then fone else m

/-- θ of R178. -/
def pivotFloor (prec : Nat) (m : FVal) (divided : List FVal) : FVal :=
  let w := divided.foldl (fun w v => fmax w (FV.abs v)) fzero
  fmax (FV.scale (if prec = 1 then -20 else -40) m) (FV.scale (if prec = 0xC then -1022 else -126) w)

/-- A pivot, and whether it was replaced; `chol` also replaces negative pivots. -/
def pivotOf (chol : Bool) (th d : FVal) : FVal × Bool :=
  let low := FV.isZero d || FV.lt (FV.abs d) th
  if low ∨ (chol ∧ FV.lt d fzero) then
    (if !chol && FV.lt d fzero then FV.neg th else th, true)
  else (d, false)

/-- The symmetric matrix that one triangle gives. -/
def symOf (upper : Bool) (n : Nat) (a : Mat) : Mat :=
  mkMat n n fun i j => if upper then a.at_ (min i j) (max i j) else a.at_ (max i j) (min i j)

/-- Columns of the Cholesky factor in the FP64 lanes, newest last: `cols` holds the finished columns as full lists. -/
def cholCols (prec n : Nat) (m : FVal) (a : Mat) : Nat → List (List FVal) → List Nat → List (List FVal) × List Nat
  | 0, cols, regs => (cols, regs)
  | k + 1, cols, regs =>
    let j := n - (k + 1)
    let row (i : Nat) : List FVal := cols.map fun c => c.getD i fzero
    let num (i : Nat) : FVal := laneDot (a.at_ i j :: (row i).map FV.neg) (fone :: row j)
    let below := (List.range n).map fun i => if i > j then num i else fzero
    let pv := pivotOf true (pivotFloor prec m below) (num j)
    let l := fsqrt pv.1
    let col := (List.range n).map fun i => if i < j then fzero else if i = j then l else fdiv (below.getD i fzero) l
    cholCols prec n m a k (cols ++ [col]) (if pv.2 then regs ++ [j] else regs)

/-- Columns of LDLᵀ: unit columns with D in their diagonal, and the undivided columns. -/
def ldltCols (prec n : Nat) (m : FVal) (a : Mat) :
    Nat → List (List FVal) → List (List FVal) → List Nat → List (List FVal) × List Nat
  | 0, cols, _, regs => (cols, regs)
  | k + 1, cols, raws, regs =>
    let j := n - (k + 1)
    let row (i : Nat) : List FVal := cols.map fun c => c.getD i fzero
    let raw (i : Nat) : List FVal := raws.map fun c => c.getD i fzero
    let num (i : Nat) : FVal := laneDot (a.at_ i j :: (raw i).map FV.neg) (fone :: row j)
    let below := (List.range n).map fun i => if i > j then num i else fzero
    let pv := pivotOf false (pivotFloor prec m below) (num j)
    let col := (List.range n).map fun i => if i < j then fzero else if i = j then pv.1 else fdiv (below.getD i fzero) pv.1
    ldltCols prec n m a k (cols ++ [col]) (raws ++ [below]) (if pv.2 then regs ++ [j] else regs)

/-- The columns of a factor computed natively: CHOL, or LDLT with D on the diagonal. -/
def nativeCols (chol : Bool) (prec n : Nat) (m : FVal) (a : Mat) : List (List FVal) × List Nat :=
  if chol then cholCols prec n m a n [] [] else ldltCols prec n m a n [] [] []

/-- Rows of the solution of T X = B by substitution in the order of the list; `reg`: pivots are judged by R178. -/
def substitute (reg : Bool) (prec cols : Nat) (m : FVal) (t : Nat → Nat → FVal) (b : Mat) :
    List Nat → List (Nat × List FVal) → List Nat → List (Nat × List FVal) × List Nat
  | [], xs, regs => (xs, regs)
  | i :: r, xs, regs =>
    let num := (List.range cols).map fun j =>
      sdot 0xC (b.at_ i j :: xs.map fun x => FV.neg (x.2.getD j fzero)) (fone :: xs.map fun x => t i x.1)
    let pv := if reg then pivotOf false (pivotFloor prec m num) (t i i) else (t i i, false)
    substitute reg prec cols m t b r (xs ++ [(i, num.map fun v => fdiv v pv.1)]) (if pv.2 then regs ++ [i] else regs)

/-- A triangular solve T X = B with T lower or upper. -/
def triSolve (reg : Bool) (prec n cols : Nat) (lower : Bool) (t : Nat → Nat → FVal) (b : Mat) : Factored :=
  let m := diagMax n (mkMat n n t)
  let order := if lower then List.range n else (List.range n).reverse
  let (xs, regs) := substitute reg prec cols m t b order [] []
  ⟨mkMat n cols fun i j => (((xs.find? fun x => x.1 == i).map Prod.snd).getD []).getD j fzero, regs⟩

def identity (n : Nat) : Mat := mkMat n n fun i j => if i = j then fone else fzero
def mapMat (prec : Nat) (f : FVal → FVal) (m : Mat) : Mat := m.map fun r => r.map fun v => ew prec (f v)

/-- The columns of a blocked factor (R170, R177), panel by panel: the 256-edge diagonal block runs natively, as does the inverse of its
factor; the panel below it and the update of what remains are products on the lent engines. `a` is what remains. -/
def blockedCols (chol : Bool) (prec : Nat) (m : FVal) : Nat → Mat → List (List FVal) × List Nat
  | 0, _ => ([], [])
  | p + 1, a =>
    let n := 256 * p
    let (cols, regs) := nativeCols chol prec 256 m (mkMat 256 256 a.at_)
    let l (i j : Nat) : FVal := if !chol && i == j then fone else (cols.getD j []).getD i fzero
    let inv := (triSolve false prec 256 256 true l (identity 256)).out
    let raw := matMul prec n 256 (mkMat n 256 fun i j => ew prec (a.at_ (256 + i) j)) (mapMat prec id (inv.transposed 256 256))
    let low := if chol then raw else mkMat n 256 fun i j => ew prec (fdiv (raw.at_ i j) ((cols.getD j []).getD j fzero))
    let upd := symMul prec n raw (low.transposed n 256)
    let rest := blockedCols chol prec m p (mkMat n n fun i j => ew prec (FV.sub (a.at_ (256 + i) (256 + j)) (upd.at_ i j)))
    (((List.range 256).map fun j => cols.getD j [] ++ (List.range n).map fun i => low.at_ i j)
      ++ rest.1.map (List.replicate 256 fzero ++ ·), regs ++ rest.2.map (· + 256))

/-- CHOL: L, or U = Lᵀ; LDLT: unit L below the diagonal and D on it, Lᵀ above it for the upper triangle (Table 08-3). -/
def factorise (d : BitVec 1024) (a : Mat) : Factored :=
  let n := jN d
  let s := symOf (jUpper d) n a
  let chol := jOp d == opChol
  let (cols, regs) := if jBlocked d then blockedCols chol (jPrec d) (diagMax n s) (n / 256) s
    else nativeCols chol (jPrec d) n (diagMax n s) s
  ⟨if jUpper d then cols else Mat.transposed n n cols, regs⟩

/-- TRSM (Table 08-3): op(T)·X = B, or X·op(T) = B as op(T)ᵀ·Xᵀ = Bᵀ. -/
def trsm (d : BitVec 1024) (t b : Mat) : Factored :=
  let n := jN d
  let k := jK d
  let flip := jTrans d != jSide d
  let lower := jUpper d == flip
  let tt (i j : Nat) : FVal := if flip then t.at_ j i else t.at_ i j
  if jSide d then
    let r := triSolve true (jPrec d) n k lower tt (b.transposed k n)
    ⟨r.out.transposed n k, r.regs⟩
  else triSolve true (jPrec d) n k lower tt b

/-- SYRK (Table 08-3): the triangle named by UPLO, mirrored. -/
def syrk (d : BitVec 1024) (c b : Mat) : Mat :=
  let n := jN d
  let bo := if jTrans d then b.transposed (jK d) n else b
  let half := mkMat n n fun i j => sdot 0xC (c.at_ i j :: bo.getD i []) (fone :: bo.getD j [])
  symOf (jUpper d) n half

/-! Matrix functions (R179 to R183) -/

/-- x^k by repeated multiplication in FP64. -/
def fpow (x : FVal) : Nat → FVal
  | 0 => fone
  | k + 1 => roundTo 0xC (FV.mul (fpow x k) x)

/-- M := X^p · A1. -/
def formM (prec n p : Nat) (x a : Mat) : Mat :=
  if p = 1 then symMul prec n x a
  else
    let x2 := symMul prec n x x
    if p = 2 then symMul prec n x2 a else symMul prec n (symMul prec n x2 x2) a

/-- T := ((p + 1) I − M) / p. -/
def rootT (prec n p : Nat) (m : Mat) : Mat :=
  mkMat n n fun i j =>
    ew prec (fdiv (roundTo 0xC (FV.sub (if i = j then FV.ofNat (p + 1) else fzero) (m.at_ i j))) (FV.ofNat p))

/-- Iterations: X := X T, and M := T^p M except in the last one (or where only X is updated). -/
def rootIter (prec n p : Nat) : Nat → Mat → Mat → Mat × Mat
  | 0, x, m => (x, m)
  | k + 1, x, m =>
    let t := rootT prec n p m
    let x1 := symMul prec n x t
    if k = 0 then (x1, m)
    else
      let t2 := symMul prec n t t
      let m1 := if p = 1 then symMul prec n t m else if p = 2 then symMul prec n t2 m
        else symMul prec n (symMul prec n t2 t2) m
      rootIter prec n p k x1 m1

/-- x^(1/p) or its reciprocal in the lanes. How it rounds for p of 2 and 4 the manual does not state: a free value, no further from the
root than R181 lets a result lie (log 10). -/
def laneRoot (wide recip : Bool) (p : Nat) (x : FVal) : FVal :=
  let r := if p = 1 then x else if p = 2 then fsqrt x else fsqrt (fsqrt x)
  let y := if recip then fdiv fone r else r
  let q := roundTo 0xC (Config.solverRoot recip p x)
  if p = 1 ∨ FV.nonfinite y ∨ FV.nonfinite q then y
  else if FV.lt (FV.scale (if wide then -40 else -20) (FV.abs y)) (FV.abs (FV.sub q y)) then y else q

/-- A1 := A + (DAMP × trace(A)/N + MU) I. -/
def damped (d : BitVec 1024) (prec : Nat) (a : Mat) : Mat :=
  let n := jN d
  let tr := sdot 0xC (List.replicate n fone) ((List.range n).map fun i => a.at_ i i)
  let e := roundTo 0xC (FV.add (fdiv (roundTo 0xC (FV.mul (v32 (jDamp d)) tr)) (FV.ofNat n)) (v32 (jMu d)))
  mkMat n n fun i j => ew prec (if i = j then FV.add (a.at_ i j) e else a.at_ i j)

/-- The cold starting point: X and M. -/
def coldStart (wide : Bool) (prec n p : Nat) (a : Mat) : Mat × Mat :=
  let c := frob a
  (mkMat n n fun i j => if i = j then ew prec (laneRoot wide true p c) else fzero, mapMat prec (fun v => fdiv v c) a)

/-- The warm starting point: X and M, normalised. -/
def warmStart (wide : Bool) (prec n p : Nat) (root a : Mat) : Mat × Mat :=
  let m := formM prec n p root a
  let tr := sdot 0xC (List.replicate n fone) ((List.range n).map fun i => m.at_ i i)
  let sc := laneRoot wide false p (fdiv (FV.ofNat n) tr)
  (mapMat prec (fun v => FV.mul sc v) root, mapMat prec (fun v => FV.mul (fpow sc p) v) m)

/-- Whether the warm path falls back (R185). -/
def warmFails (n : Nat) (m : Mat) : Bool :=
  FV.lt (.fin false 1 (-1)) (frob (mkMat n n fun i j => roundTo 0xC (FV.sub (m.at_ i j) (if i = j then fone else fzero))))

/-- The precision of the first phase, and of the whole job. -/
def jWork (d : BitVec 1024) : Nat := if jBlocked d then jPrec d else 0xC
def jPhase (d : BitVec 1024) (count : Nat) : Nat := if jDouble d && decide (count ≥ 3) then 1 else jWork d

/-- The iterations of a path from its starting point (R179, R180). -/
def runRoot (d : BitVec 1024) (count : Nat) (xm : Mat × Mat) (a1 : Mat) : Mat :=
  let n := jN d
  let p := jOrder d
  if jDouble d && decide (count ≥ 3) then
    let x := (rootIter 1 n p (count - 2) xm.1 xm.2).1
    (rootIter 0xB n p 2 x (formM 0xB n p x a1)).1
  else (rootIter (jWork d) n p count xm.1 xm.2).1

/-- The starting point of the warm path, as the job forms it. -/
def warmPoint (d : BitVec 1024) (a : Mat) (root : Mat) : Mat × Mat :=
  let ph := jPhase d (jWarmIters d)
  warmStart (jPrec d == 0xB) ph (jN d) (jOrder d) (mapMat ph id root) (mapMat ph id (damped d (jWork d) a))

/-- INVROOT's result (R179). -/
def invroot (d : BitVec 1024) (warm : Bool) (a root : Mat) : Mat :=
  let a1 := damped d (jWork d) a
  if warm then runRoot d (jWarmIters d) (warmPoint d a root) a1
  else
    let ph := jPhase d (jIters d)
    runRoot d (jIters d) (coldStart (jPrec d == 0xB) ph (jN d) (jOrder d) (mapMat ph id a1)) a1

/-- POLAR (R183). -/
def polarIter (n k : Nat) : Nat → Mat → Mat
  | 0, x => x
  | i + 1, x =>
    let a := symMul 2 n x (x.transposed n k)
    let aa := symMul 2 n a a
    let b := mkMat n n fun i j =>
      ew 2 (FV.add (FV.mul (.fin true 5 (-2)) (a.at_ i j)) (FV.mul (.fin false 3 (-3)) (aa.at_ i j)))
    let bx := matMul 2 n k b x
    polarIter n k i (mkMat n k fun i j => ew 2 (FV.add (FV.mul (.fin false 15 (-3)) (x.at_ i j)) (bx.at_ i j)))

def polar (n k : Nat) (g : Mat) : Mat :=
  let f := roundTo 1 (frob g)
  if FV.isZero f then g else polarIter n k 5 (mapMat 2 (fun v => fdiv v f) g)

/-! Root buffers (Table 08-5) -/
def rhTag (h : BitVec 512) : Nat := fld h 447 384
def rhN (h : BitVec 512) : Nat := fld h 287 272
def rhPrec (h : BitVec 512) : Nat := fld h 271 264
def rhP (h : BitVec 512) : Nat := fld h 263 261
def rhCur (h : BitVec 512) : Nat := fld h 259 259
def rhInstalled (h : BitVec 512) : Bool := flag h 258
def rhPending (h : BitVec 512) : Bool := flag h 257

/-- The tag that a job composes (R184). -/
def jTag (d : BitVec 1024) : Nat :=
  jN d * 2 ^ 48 + (if jBlocked d then 256 else jN d) * 2 ^ 32 + jHash d

def addr64 (a : W64) (n : Nat) : W64 := a + BitVec.ofNat 64 n

/-- Changes a root buffer's header. -/
def State.setRootHdr (s : State) (ctx : Nat) (a : W64) (f : BitVec 512 → BitVec 512) (die : Nat := hubH0) : State :=
  let h := BitVec.ofNat 512 (leNat (s.engineRead ctx a 64).data)
  s.engineWrite ctx a (leBytes 64 (f h).toNat) die

/-- The header when a job begins writing (R186 item 1): a PENDING root is replaced. -/
def rhBegin (h : BitVec 512) : BitVec 512 :=
  let r := if rhPending h then setFld h 191 160 (fld h 191 160 + 1) else h
  setFlag (setFlag r 257 false) 256 true

/-- The header when the whole copy is written (R186 item 2). -/
def rhFinish (d : BitVec 1024) (h : BitVec 512) : BitVec 512 :=
  setFlag (setFlag (setFld h 383 320 (jTag d)) 257 true) 256 false

/-- Adds to a copy's REFS (R162). -/
def State.addRefs (s : State) (ctx : Nat) (a : W64) (k : Nat) (up : Bool) (die : Nat) : State :=
  let h := BitVec.ofNat 256 (leNat (s.engineRead ctx a 32).data)
  let v := if up then fhRefs h k + 1 else fhRefs h k - 1
  s.engineWrite ctx a (leBytes 32 (setFhRefs h k v).toNat) die

/-! Running a job -/

/-- Engines of cluster `k` that a mask of 16 bits names: logical core and engine (Table 08-1, LEND). -/
def maskEngines (k mask : Nat) : List (Nat × Nat) := (bitsOf mask 16).map fun b => (k * 8 + b / 2, b % 2)
/-- Engines that a job borrows. -/
def lentEngines (k : Nat) (d : BitVec 1024) : List (Nat × Nat) := maskEngines k (jLend d)

def State.lend (s : State) (k : Nat) (d : BitVec 1024) : State :=
  (lentEngines k d).foldl (fun s e => s.modCore e.1 fun c => { c with lent := setFlag c.lent e.2 true }) s

/-- An engine with all eight accumulator slots zero (R171). -/
def Core.zeroEngine (c : Core) (e : Nat) : Core :=
  { c with
    acc := c.acc.filter fun x => x.1 / 2048 != e, accScaled := c.accScaled.filter fun x => x.1 / 8 != e,
    witness := c.witness.filter fun x => x.1 / 512 != e, witnessN := c.witnessN.filter fun x => x.1 / 8 != e }

/-- Returns borrowed engines; the staging regions hold open contents (R171). -/
def State.giveBack (s : State) (l : List (Nat × Nat)) : State :=
  let s1 := l.foldl (fun s e => s.modCore e.1 fun c => { c.zeroEngine e.2 with lent := setFlag c.lent e.2 false }) s
  let cores := (l.map Prod.fst).eraseDups
  (cores.foldl (fun s n =>
    s.wrLocal n 0xC0000 ((List.range 262144).map fun i => Config.staging s.freeCtr (n * 2 ^ 32 + i))) s1).draw

def jobE (d : BitVec 1024) : Nat := precBytes (jPrec d)
def jSrcBytes (d : BitVec 1024) : Nat :=
  if jOp d = opPolar then jN d * jK d * jobE d else (if jBatched d then jBatch d else 1) * (jN d * jN d * jobE d)
def jAuxBytes (d : BitVec 1024) : Nat :=
  if jOp d = opTrsm ∨ jOp d = opSyrk then jBatch d * (jN d * jK d * jobE d) else 0
def jDstBytes (d : BitVec 1024) : Nat :=
  if jOp d = opTrsm then jBatch d * (jN d * jK d * jobE d) else jSrcBytes d

/-- Whether a job's count selects no work (R175; DEDUCED which count each operation has). -/
def noWork (d : BitVec 1024) (warm : Bool) : Bool :=
  (jBatched d && jBatch d == 0) || ((jOp d == opTrsm || jOp d == opSyrk || jOp d == opPolar) && jK d == 0)
    || (jRoot d && jCount d warm == 0)

/-- What ends a job: its status, flags and counts. -/
structure JobEnd where
  status : Nat
  iters : Nat
  regs : Nat
  firstMat : Nat
  firstRow : Nat
  duration : Nat
  flags : Nat        -- [3] stale left; [2] cold after warm request; [1] regularised; [0] abandoned
  at_ : Nat × Nat
  deriving DecidableEq, Repr

/-- The completion record (Table 08-4). -/
def jobRecord (e : JobEnd) : List Byte :=
  leBytes 32 (e.at_.1 % 2 ^ 64 * 2 ^ 192 + e.at_.2 % 2 ^ 11 * 2 ^ 181 + e.iters % 2 ^ 16 * 2 ^ 160
    + e.regs % 2 ^ 32 * 2 ^ 128 + e.firstMat % 2 ^ 16 * 2 ^ 112 + e.firstRow % 2 ^ 16 * 2 ^ 96
    + e.duration % 2 ^ 48 * 2 ^ 48 + e.flags % 16 * 2 ^ 8 + e.status % 256)

/-- The context for which a cluster's engine acts; 17 where none owns the cluster: it then reaches no long range (R169). -/
def State.engineCtx (s : State) (k : Nat) : Nat := (s.ctxOfCluster k).getD 17

/-- The end of a job (R176): REFS, the record, DONE_CTR, and the entries of 2B02h. -/
def State.endJob (s : State) (k : Nat) (d : BitVec 1024) (refs : Option Nat) (e : JobEnd) : State :=
  let ctx := s.engineCtx k
  let s1 := match refs with
    | some c => s.addRefs ctx (jSrc d) c false (k / 8)
    | none => s
  let s2 := (s1.engineWrite ctx (jRec d) (jobRecord e) (k / 8)).ctrDone (k * 8 + jDoneCore d) (jDoneCtr d)
  let s3 := s2.addOd 0x2B02 1 1
  let s4 := if e.status = stDeadline then s3.addOd 0x2B02 2 1 else s3
  let s5 := if e.status = stCold ∨ e.flags.testBit 2 then s4.addOd 0x2B02 3 1 else s4
  let s6 := if e.regs ≠ 0 then (s5.addOd 0x2B02 4 1).addOd 0x2B02 5 e.regs else s5
  if e.status = stPoison ∨ e.status = stNonfinite then s6.addOd 0x2B02 7 1 else s6

/-- A root buffer left without a result: WRITING clear, STALE, and MISSES for a deadline miss (R187, R188). -/
def State.rootStale (s : State) (ctx : Nat) (d : BitVec 1024) (miss : Bool) (die : Nat) : State :=
  if jOp d ≠ opInvroot then s
  else s.setRootHdr ctx (jDst d) (fun h =>
    let h1 := setFlag (setFlag h 256 false) 255 true
    if miss then setFld h1 223 192 (fld h1 223 192 + 1) else h1) die

/-- A job begins to write its root (R186 item 1): a PENDING root is replaced. -/
def State.rootBegin (s : State) (k : Nat) (r : SolverRun) : State :=
  let ctx := s.engineCtx k
  let h := BitVec.ofNat 512 (leNat (s.engineRead ctx (jDst r.desc) 64).data)
  let s1 := if rhPending h then s.addOd 0x2B02 6 1 else s
  (s1.setRootHdr ctx (jDst r.desc) rhBegin (k / 8)).modCluster k fun c => { c with solverRun := some { r with began := true } }

/-- A cluster's job that begins to write before cycle `cc`. -/
def State.rootBeginBy (s : State) (k cc : Nat) : State :=
  match (s.getCluster k).solverRun with
  | some r => if r.writes ∧ ¬ r.began ∧ r.startCc + r.writeAt < cc then s.rootBegin k r else s
  | none => s

/-- A job that ends at once, without having run. -/
def simpleEnd (s : State) (status flags : Nat) : JobEnd :=
  { status := status, iters := 0, regs := 0, firstMat := 0, firstRow := 0, duration := 0, flags := flags, at_ := s.now }

/-- The headers of an INVROOT: factor and root. -/
def State.jobHeaders (s : State) (ctx : Nat) (d : BitVec 1024) : BitVec 256 × BitVec 512 :=
  (BitVec.ofNat 256 (leNat (s.engineRead ctx (jSrc d) 32).data), BitVec.ofNat 512 (leNat (s.engineRead ctx (jDst d) 64).data))

/-- Where a job's input lies, and its element format and bytes. -/
def State.jobInput (s : State) (ctx : Nat) (d : BitVec 1024) : W64 × Nat × Nat :=
  if jOp d = opInvroot then
    let h := (s.jobHeaders ctx d).1
    (addr64 (jSrc d) (32 + (1 + fhCur h) * (fhB h * fhB h * fhElem h)), if fhElem h = 8 then 0xB else 1, jN d * jN d * fhElem h)
  else (jSrc d, jPrec d, jSrcBytes d)

/-- Bytes that a job with a root buffer, or one without, writes. -/
def State.jobWritable (s : State) (ctx : Nat) (d : BitVec 1024) : Bool :=
  if jOp d = opInvroot then s.engineOk ctx (jDst d) (64 + 2 * (jN d * jN d * jobE d)) && s.engineOk ctx (jSrc d) 32
  else s.engineOk ctx (jDst d) (jDstBytes d)

/-- Global addresses and lengths that a job reads at its start: headers, input, second operand, installed root. -/
def State.jobReads (s : State) (ctx : Nat) (d : BitVec 1024) : List (W64 × Nat) :=
  let (ia, _, ib) := s.jobInput ctx d
  (if jOp d = opInvroot then
      [(jSrc d, 32), (jDst d, 64), (addr64 (jDst d) (64 + rhCur (s.jobHeaders ctx d).2 * (jN d * jN d * jobE d)), jN d * jN d * jobE d)]
    else []) ++ [(ia, ib), (jAux d, jAuxBytes d)]

/-- The part of a matrix that an operation reads. -/
def readPart (d : BitVec 1024) (a : Mat) : Mat :=
  if jOp d = opSyrk ∨ jOp d = opPolar then a
  else mkMat (jN d) (jN d) fun i j => if jUpper d then (if i ≤ j then a.at_ i j else fzero) else (if j ≤ i then a.at_ i j else fzero)

/-- A queued job starts at cycle `cc` (R173, R184, R185, R187). The cycle at which it will begin to write a root is open (log 10). -/
def State.startJob (s : State) (k : Nat) (d : BitVec 1024) (cc : Nat) : State :=
  let ctx := s.engineCtx k
  let inv := jOp d == opInvroot
  let (fh, rh) := s.jobHeaders ctx d
  let hdrFault := inv && ((s.engineRead ctx (jSrc d) 32).fault || (s.engineRead ctx (jDst d) 64).fault
    || rhN rh != jN d || rhP rh != jP d || rhPrec rh != jPrec d)
  let warm := inv && jWarm d && rhInstalled rh && rhTag rh == jTag d
  let cold := inv && jWarm d && !warm
  let (ia, ip, ib) := s.jobInput ctx d
  let input := s.engineRead ctx ia ib
  let aux := s.engineRead ctx (jAux d) (jAuxBytes d)
  let root := if warm then s.engineRead ctx (addr64 (jDst d) (64 + rhCur rh * (jN d * jN d * jobE d))) (jN d * jN d * jobE d)
    else ⟨[], false, false⟩
  let x := (Config.freeWord s.freeCtr).toNat % 2 ^ 40
  let dur := jobDuration d warm false x
  if hdrFault then s.endJob k d none (simpleEnd s stAccess 0)
  else if noWork d warm then s.endJob k d none (simpleEnd s stOk 0)
  else if cc + dur ≥ lin (jDeadline d) * 18 then
    (s.rootStale ctx d true (k / 8)).endJob k d none
      (simpleEnd s stDeadline ((if inv then 8 else 0) + (if cold then 4 else 0)))
  else if input.fault || aux.fault || root.fault || !s.jobWritable ctx d then s.endJob k d none (simpleEnd s stAccess 0)
  else
    let n := jN d
    let a := readMat ip n n input.data
    let fb := warm && warmFails n (warmPoint d (symOf (jUpper d) n a) (readMat (jPrec d) n n root.data)).2
    let s1 := if inv then s.addRefs ctx (jSrc d) (fhCur fh) true (k / 8) else s
    let all := if fb then jobDuration d warm true x else dur
    let run : SolverRun :=
      { desc := d, startCc := cc, warm := warm, coldAsked := cold, fallback := fb, duration := all,
        refs := if inv then some (fhCur fh) else none, input := input.data, aux := aux.data, root := root.data,
        writeAt := (Config.freeWord2 s.freeCtr 1).toNat % (all + 1),
        writes := inv && (readPart d a).finite && (!warm || (readMat (jPrec d) n n root.data).finite), began := false }
    ((s1.modCluster k fun c => { c with solverRun := some run }).lend k d).draw

/-- The job at the front of a cluster's queue, if it may start: its predecessor has ended, its START has come, and no remap holds the
context (R173, 16 R366). -/
def State.jobReady (s : State) (k : Nat) : Option (BitVec 1024) :=
  let c := s.getCluster k
  match c.solverQ, c.solverRun with
  | d :: _, none =>
    let held := match s.ctxOfCluster k with
      | some x => (s.getCtx x).remapHold.isSome
      | none => false
    if s.reached (jStart d) ∧ held = false then some d else none
  | _, _ => none

/-- A queued job starts, at the later of cycle 0 of this tick and the end of the job before it. Its reads wait for a ladder that holds
one of their pages (10 R243). -/
def execSolverJobStart : Reading (Fin 64) → State → Out
  | ⟨cluster, hw⟩, s =>
    match s.jobReady cluster with
    | some d =>
      let r := s.unitReads (cluster * 8) hw (s.ownRanges (s.jobReads (s.engineCtx cluster) d))
      if r.2 then
        .next ((r.1.modCluster cluster fun c => { c with solverQ := c.solverQ.drop 1 }).startJob cluster d
          (max (lin s.now * 18) (s.getCluster cluster).solverEnd))
      else .next r.1
    | none => .next s

/-- What a job computes: its outputs matrix by matrix, and the regularised pivots as (matrix, row). -/
structure JobResult where
  outs : List Mat
  regs : List (Nat × Nat)
  badInput : Bool
  deriving DecidableEq, Repr

/-- One matrix of a batched job. -/
def batchOne (d : BitVec 1024) (a b : Mat) : Factored :=
  let n := jN d
  if jOp d = opChol ∨ jOp d = opLdlt then factorise d a
  else if jOp d = opTrsm then trsm d a b
  else if jOp d = opTrinv then
    triSolve true (jPrec d) n n (!jUpper d) (fun i j => (readPart d a).at_ i j) (identity n)
  else ⟨syrk d a b, []⟩

def jobCompute (d : BitVec 1024) (r : SolverRun) (srcPrec : Nat) : JobResult :=
  let n := jN d
  if jBatched d then
    let one := n * n * jobE d
    let oneB := n * jK d * jobE d
    let brows := if (jOp d = opTrsm ∧ jSide d) ∨ (jOp d = opSyrk ∧ jTrans d) then jK d else n
    let ms := (List.range (jBatch d)).map fun m =>
      let a := readMat (jPrec d) n n (r.input.drop (m * one))
      let b := if jOp d = opTrsm ∨ jOp d = opSyrk then
          readMat (jPrec d) brows (if brows = n then jK d else n) (r.aux.drop (m * oneB)) else []
      (m, a, b)
    let res := ms.map fun e => (e.1, batchOne d (mapMat 0xC id e.2.1) (mapMat 0xC id e.2.2))
    { outs := res.map fun e => e.2.out, regs := res.flatMap fun e => e.2.regs.map fun i => (e.1, i),
      badInput := ms.any fun e => !(readPart d e.2.1).finite || !e.2.2.finite }
  else if jOp d = opPolar then
    let g := readMat 2 n (jK d) r.input
    { outs := [polar n (jK d) g], regs := [], badInput := !g.finite }
  else
    let a := symOf (jUpper d) n (readMat srcPrec n n r.input)
    let root := readMat (jPrec d) n n r.root
    let x := invroot d (r.warm && !r.fallback) a root
    { outs := [if jOp d = opSqrt then symMul (jWork d) n (damped d (jWork d) a) x else x], regs := [],
      badInput := !a.finite || (r.warm && !root.finite) }

/-- Output bytes. -/
def jobBytes (d : BitVec 1024) (outs : List Mat) : List Byte :=
  let rows := if jOp d = opTrsm ∧ jSide d then jK d else jN d
  let cols := if (jOp d = opTrsm ∧ !jSide d) ∨ jOp d = opPolar then jK d else jN d
  outs.flatMap fun m => writeMat (jPrec d) rows cols m

/-- Whether an output in its precision holds only finite values. -/
def outFinite (d : BitVec 1024) (outs : List Mat) : Bool := outs.all fun m => (mapMat (jPrec d) id m).finite

/-- The point of a cycle. -/
def ccPoint (cc : Nat) : Nat × Nat := (cc / 18 / 1250, cc / 18 % 1250)

/-- What a running job computes from what it read. -/
def SolverRun.result (r : SolverRun) : JobResult :=
  let d := r.desc
  jobCompute d r (if r.input.length = jN d * jN d * 8 ∧ jRoot d then 0xB else if jOp d = opInvroot then 1 else jPrec d)

/-- A finished job writes its result and ends (R176, R186, R188). -/
def State.finishJob (s : State) (k : Nat) (r : SolverRun) (poisoned : Bool) : State :=
  let d := r.desc
  let ctx := s.engineCtx k
  let inv := jOp d == opInvroot
  let res := r.result
  let regs := res.regs.length
  let cold := r.coldAsked || r.fallback
  let bad := poisoned || !outFinite d res.outs
  let st := if res.badInput then stNonfinite else if bad then stPoison else if cold then stCold
    else if regs ≠ 0 then stRegularised else stOk
  let fail := isError st
  let e : JobEnd :=
    { status := st, iters := if jRoot d then jCount d (r.warm && !r.fallback) else if jOp d = opPolar then 5 else 0,
      regs := regs, firstMat := (res.regs.head?.map Prod.fst).getD 0, firstRow := (res.regs.head?.map Prod.snd).getD 0,
      duration := r.duration,
      flags := (if fail && inv then 8 else 0) + (if cold then 4 else 0) + (if regs ≠ 0 then 2 else 0),
      at_ := ccPoint (r.startCc + r.duration) }
  let s1 := if fail then s.rootStale ctx d false (k / 8)
    else if inv then
      let s1 := if r.began then s else s.rootBegin k r
      let a := addr64 (jDst d) (64 + (1 - rhCur (s.jobHeaders ctx d).2) * (jN d * jN d * jobE d))
      (s1.engineWrite ctx a (jobBytes d res.outs) (k / 8)).setRootHdr ctx (jDst d) (rhFinish d) (k / 8)
    else s.engineWrite ctx (jDst d) (jobBytes d res.outs) (k / 8)
  (((s1.modCluster k fun c => { c with solverRun := none, solverEnd := r.startCc + r.duration }).giveBack
    (lentEngines k d)).endJob k d r.refs e).draw

/-- A fault that the checks find while a job runs: a witness event on a lent engine, or a residue event of the lanes
(R188, 16 R361). -/
def State.jobEvent (s : State) (k : Nat) (d : BitVec 1024) : HwEvent → State
  | .witness e => match (lentEngines k d)[e.val]? with
    | some (n, g) => s.coreEvent n false ⟨some g, none, none⟩
    | none => s
  | .residue => s.clusterEvent k true
  | hw => s.memEvent (k * 8) hw

/-- Whether a job's event is a witness event of one of its lent engines. -/
def State.jobWitness (_s : State) (k : Nat) (d : BitVec 1024) : HwEvent → Bool
  | .witness e => ((lentEngines k d)[e.val]?).isSome
  | _ => false

/-- A job whose output is complete at or after cycle 0 of its deadline's tick misses it (02 R49). -/
def SolverRun.missesDeadline (r : SolverRun) : Bool := decide (lin (jDeadline r.desc) * 18 ≤ r.startCc + r.duration)

/-- The cycle at which a running job ends has come. -/
def State.jobDone (s : State) (r : SolverRun) : Bool := decide (r.startCc + r.duration ≤ lin s.now * 18 + 17)

/-- Abandons a running job: at its deadline, by a cut, or at a remap (R187, R188, 16 R367). A non-finite input is what its status says
first (R176); how many of its iterations had run and of its pivots had been regularised is open (log 10). -/
def State.abandonJob (s : State) (k : Nat) (r : SolverRun) : State :=
  let d := r.desc
  let res := r.result
  let st := if res.badInput then stNonfinite else stDeadline
  let all := if jRoot d then jCount d (r.warm && !r.fallback) else if jOp d = opPolar then 5 else 0
  let regs := res.regs.take ((Config.freeWord2 s.freeCtr 1).toNat % (res.regs.length + 1))
  let e : JobEnd :=
    { status := st, iters := (Config.freeWord s.freeCtr).toNat % (all + 1), regs := regs.length,
      firstMat := (regs.head?.map Prod.fst).getD 0, firstRow := (regs.head?.map Prod.snd).getD 0,
      duration := lin s.now * 18 - r.startCc,
      flags := (if jOp d = opInvroot then 8 else 0) + (if r.coldAsked || r.fallback then 4 else 0)
        + (if regs.length ≠ 0 then 2 else 0) + 1, at_ := s.now }
  let s1 := s.rootStale (s.engineCtx k) d (st == stDeadline) (k / 8)
  (((s1.modCluster k fun c => { c with solverRun := none, solverEnd := lin s.now * 18 }).giveBack (lentEngines k d)).endJob
    k d r.refs e).draw

/-- A ladder holds a page of what a job's end reads or writes: the end waits (10 R243). -/
def State.jobHeld (s : State) (d : BitVec 1024) : Bool :=
  s.rangesHeld ([(jRec d, 32)] ++ (if jOp d = opInvroot then
    [(jSrc d, 32), (jDst d, 64 + 2 * (jN d * jN d * jobE d))] else [(jDst d, jDstBytes d)]))

/-- A job ends; one whose output comes too late has missed its deadline (R176, 02 R49). -/
def execSolverJobEnd (cluster : Fin 64) (hw : HwEvent) (s : State) : Out :=
  match (s.getCluster cluster).solverRun with
  | some r =>
    if s.jobDone r ∧ r.missesDeadline then .next (s.abandonJob cluster r)
    else if s.jobDone r ∧ ¬ s.jobHeld r.desc then
      let s1 := s.rootBeginBy cluster (r.startCc + r.duration)
      let r1 := (s1.getCluster cluster).solverRun.getD r
      .next ((s1.jobEvent cluster r.desc hw).finishJob cluster r1 (hw = .residue ∨ s.jobWitness cluster r.desc hw))
    else .next s
  | none => .next s

/-- A cut ends every job of a cluster, running or queued, with DEADLINE_MISS (15 Table 15-11). -/
def State.cutJobs (s : State) (k : Nat) : State :=
  let s1 := match (s.getCluster k).solverRun with
    | some r => s.abandonJob k r
    | none => s
  let q := (s1.getCluster k).solverQ
  let s2 := s1.modCluster k fun c => { c with solverQ := [] }
  q.foldl (fun s d => (s.rootStale (s.engineCtx k) d true (k / 8)).endJob k d none
    (simpleEnd s stDeadline (if jOp d = opInvroot then 9 else 1))) s2

end Sys2Proof.Machine
end

