-- ==== Sys2Proof/Machine/Shard.lean ====
section
/-!
DEFINITION. The shard engines (09 R208 to R211) and the Prism (14 R322 to R326).
-/

namespace Sys2Proof.Machine

/-! Shard-engine descriptors (Table 09-7) -/
def sdSrc (d : BitVec 512) : W64 := BitVec.ofNat 64 (fld d 511 448)
def sdDst (d : BitVec 512) : W64 := BitVec.ofNat 64 (fld d 447 384)
def sdHdr (d : BitVec 512) : W64 := BitVec.ofNat 64 (fld d 383 320)
def sdRec (d : BitVec 512) : W64 := BitVec.ofNat 64 (fld d 319 256)
def sdCore (d : BitVec 512) : Nat := fld d 255 247
def sdCtr (d : BitVec 512) : Nat := fld d 246 241

/-- The context of the core that submits; 16 for a submission from elsewhere. -/
def State.originCtx (s : State) : Origin → Nat
  | .core n => (s.ctxOfCore n).getD 16
  | .firmware => 16
  | .host => 16
  | .vf c => c
  | .remote _ => 16

/-- An XPUT to the shard submission window of a die (R210). -/
def State.shardCheck (s : State) (die : Nat) (data : List Byte) : Nat :=
  if data.length = 0 then stOk
  else if data.length ≠ 64 ∨ leNat data % 2 ^ 241 ≠ 0 ∨ (s.getDie die).shardQ.length ≥ 256 then stAccess
  else stOk
/-- The context whose regions a descriptor's source lies in. -/
def State.exportCtx (s : State) (d : BitVec 512) : Option Nat :=
  if gaModule (sdSrc d) = s.moduleId ∧ gaSpace (sdSrc d) = 0 then s.pageCtx (gaOffset (sdSrc d) / 65536) else none

/-- Phase 2 of the context that a descriptor reads runs. -/
def State.exportWaits (s : State) (d : BitVec 512) : Bool := (s.exportCtx d).any fun c => (s.getCtx c).phase2.isSome

def State.shardWrite (s : State) (o : Origin) (die : Nat) (data : List Byte) : State :=
  if data.length = 0 then s
  else
    let d := BitVec.ofNat 512 (leNat data)
    s.modDie die fun x => { x with shardQ := x.shardQ ++ [(d, s.originCtx o, s.exportWaits d)] }

def execShardSubmission (o : Origin) (die : Fin 8) (data : List Byte) (s : State) : Out :=
  .next (s.structWrite o (s.shardCheck die data) fun s => s.shardWrite o die data)

/-- The header of a record from its template: STEP, WEIGHT_VERSION and PAYLOAD_LENGTH filled in. For a submission
without a context the first two are open (log 26). -/
def State.fillHeader (s : State) (h : BitVec 1024) (ctx : Nat) : BitVec 1024 :=
  let step := if ctx < 16 then (s.getCtx ctx).lastCommit.toNat else (Config.freeWord2 s.freeCtr 0).toNat
  let version := if ctx < 16 then s.versionOf ctx else (Config.freeWord2 s.freeCtr 1).toNat
  setFld (setFld (setFld h 191 128 step) 127 96 version) 255 192 (payloadLength h)

/-- The descriptor at the front of a die's queue runs: status and bytes written (R210). -/
def State.runShard (s : State) (die : Nat) (d : BitVec 512) (ctx : Nat) : State × Nat × Nat :=
  let t := s.engineRead ctx (sdHdr d) 128
  let h := s.fillHeader (BitVec.ofNat 1024 (leNat t.data)) ctx
  if t.fault ∨ ¬ headerOk h ∨ sdDst d % 128 ≠ 0 then (s, stAccess, 0)
  else
    let p := s.engineRead ctx (sdSrc d) (payloadLength h)
    let n := 128 + payloadLength h
    if p.fault ∨ ¬ s.engineOk ctx (sdDst d) n then (s, stAccess, 0)
    else
      (s.engineWrite ctx (sdDst d) (leBytes 128 h.toNat ++ p.data) die, if t.poison || p.poison then stPoison else stOk, n)

/-- What a descriptor reads: the header template and the payload. -/
def State.shardReads (s : State) (d : BitVec 512) (ctx : Nat) : List (W64 × Nat) :=
  [(sdHdr d, 128), (sdSrc d, payloadLength (BitVec.ofNat 1024 (leNat (s.engineRead ctx (sdHdr d) 128).data)))]

/-- The descriptor at the front of a die's queue ends. One submitted during the commit of the context that it reads waits for the commit's
end (01 R31, R211); its reads wait for a ladder that holds one of their pages (10 R243). -/
def execShardDescriptorEnd : Reading (Fin 8) → State → Out
  | ⟨die, hw⟩, s =>
    match (s.getDie die).shardQ with
    | (d, ctx, late) :: r =>
      if late ∧ s.exportWaits d then .next s
      else
        let u := s.unitReads (die * 64) hw (s.ownRanges (s.shardReads d ctx))
        if ¬ u.2 then .next u.1
        else
          let s0 := u.1.modDie die fun x => { x with shardQ := r }
          let (s1, st, n) := s0.runShard die d ctx
          .next ((s1.engineWrite ctx (sdRec d) (completion16 n 0 st) die).doneCtr (sdCore d) (sdCtr d)).draw
    | [] => .next s

/-! Prism jobs (Table 14-5) -/
def pjSrc (d : BitVec 512) : W64 := BitVec.ofNat 64 (fld d 511 448)
def pjPlace (d : BitVec 512) : W64 := BitVec.ofNat 64 (fld d 447 384)
def pjRec (d : BitVec 512) : W64 := BitVec.ofNat 64 (fld d 383 320)
def pjDeadline (d : BitVec 512) : Nat × Nat := (fld d 319 256, fld d 255 245)
def pjVersion (d : BitVec 512) : Nat := fld d 244 213
def pjSrcCount (d : BitVec 512) : Nat := fld d 212 181
def pjPlaceCount (d : BitVec 512) : Nat := fld d 180 149
def pjCore (d : BitVec 512) : Nat := fld d 148 140
def pjCtr (d : BitVec 512) : Nat := fld d 139 134
def pjCtx (d : BitVec 512) : Nat := fld d 133 130

/-- An XPUT to the Prism window of a die (R322). -/
def State.prismCheck (s : State) (die : Nat) (data : List Byte) : Nat :=
  let d := BitVec.ofNat 512 (leNat data)
  if data.length = 0 then stOk
  else if ¬ s.time.held ∨ data.length ≠ 64 ∨ fld d 129 0 ≠ 0 ∨ pjSrcCount d > 65536 ∨ (s.getDie die).prismQ.length ≥ 64 then stAccess
  else stOk
def State.prismWrite (s : State) (die : Nat) (data : List Byte) : State :=
  if data.length = 0 then s
  else s.modDie die fun d => { d with prismQ := d.prismQ ++ [BitVec.ofNat 512 (leNat data)] }

def execPrismSubmission (o : Origin) (die : Fin 8) (data : List Byte) (s : State) : Out :=
  .next (s.structWrite o (s.prismCheck die data) fun s => s.prismWrite die data)

/-- The source records of a job: offsets and headers; none where one breaks R323. A header read with POISON is the pattern of 10 R245, which
breaks Table 09-5. -/
def State.prismHeads (s : State) (ctx version : Nat) : Nat → Nat → Option (List (Nat × BitVec 1024))
  | 0, _ => some []
  | n + 1, off =>
    if ¬ s.longOk (.ctx ctx) false off 128 ∨ s.readPoison off 128 then none
    else
      let h := BitVec.ofNat 1024 (leNat (s.rdLong off 128))
      if ¬ headerOk h ∨ hLength h ≠ payloadLength h ∨ hWeightVersion h ≠ version ∨ (hLayout h ≠ 1 ∧ hLayout h ≠ 2)
          ∨ ¬ s.longOk (.ctx ctx) false off (128 + hLength h) then none
      else match s.prismHeads ctx version n (roundUp (off + 128 + hLength h) 128) with
        | some l => some ((off, h) :: l)
        | none => none

/-- The source records of a job: its first record lies in this module's long range, at a multiple of 128. -/
def State.jobHeads (s : State) (d : BitVec 512) : Option (List (Nat × BitVec 1024)) :=
  if gaModule (pjSrc d) = s.moduleId ∧ gaSpace (pjSrc d) = 0 ∧ gaOffset (pjSrc d) % 128 = 0 then
    s.prismHeads (pjCtx d) (pjVersion d) (pjSrcCount d) (gaOffset (pjSrc d))
  else none

/-- An export into the region of a job's source records has not ended (01 R31). -/
def State.exportsInto (s : State) (d : BitVec 512) : Bool :=
  s.dies.any fun x => x.2.shardQ.any fun e =>
    gaModule (sdDst e.1) == s.moduleId && gaSpace (sdDst e.1) == 0 && (s.regionOf (gaOffset (pjSrc d) / 65536)).isSome
      && s.regionOf (gaOffset (sdDst e.1) / 65536) == s.regionOf (gaOffset (pjSrc d) / 65536)

/-- A queued job starts once its predecessor has ended (R323) and no export into its source region is still to run (01 R31); its reads of
the headers wait for a ladder that holds one of their pages (10 R243). -/
def execPrismJobStart : Reading (Fin 8) → State → Out
  | ⟨die, hw⟩, s0 =>
    match (s0.getDie die).prismQ, (s0.getDie die).prismRun with
    | d :: r, none =>
      if s0.exportsInto d then .next s0
      else
        let u := s0.unitReads (die * 64) hw (((s0.jobHeads d).getD []).map fun h => (h.1, 128))
        let s := u.1
        if u.2 then
          let heads := s.jobHeads d
          let run : PrismRun :=
            { desc := d, heads := heads.getD [], next := 0, bytes := 0, fail := none,
              status := if heads.isSome then stOk else stAccess, recovered := false, stopped := heads.isNone }
          .next (s.modDie die fun x => { x with prismQ := r, prismRun := some run })
        else .next s
    | _, _ => .next s0

/-! Placements (Table 14-6) -/
def plTensor (e : BitVec 256) : Nat := fld e 255 224
def plRowOff (e : BitVec 256) : Nat := fld e 223 192
def plRowExt (e : BitVec 256) : Nat := fld e 191 160
def plColOff (e : BitVec 256) : Nat := fld e 159 128
def plColExt (e : BitVec 256) : Nat := fld e 127 96
def plQueue (e : BitVec 256) : Nat := fld e 95 80
def plOffset (e : BitVec 256) : Nat := fld e 79 36
def plLayout (e : BitVec 256) : Nat := fld e 35 34
def plSigCtr (e : BitVec 256) : Nat := fld e 33 28

/-- Bytes of a tile in a layout, and the packing of a format (06 Table 06-2). -/
def packOf (fmt : Nat) : Nat := if fmt ≤ 7 then 1 else 2
def tileBytes (layout fmt : Nat) : Nat := if layout = 2 then packSize (packOf fmt) else footprint fmt

/-- The header of a placement's record. -/
def placeHeader (h : BitVec 1024) (e : BitVec 256) (version : Nat) : BitVec 1024 :=
  let r := hRank h
  let h1 := setDim h (r - 2) (hFull h (r - 2)) (plRowOff e) (plRowExt e)
  let h2 := setDim h1 (r - 1) (hFull h (r - 1)) (plColOff e) (plColExt e)
  let h3 := setFld (setFld h2 127 96 version) 303 288 (plLayout e)
  setFld h3 255 192 (payloadLength h3)

/-- Whether the outer dimensions of two headers agree. -/
def sameOuter (a b : BitVec 1024) : Bool :=
  hRank a == hRank b && (List.range (hRank a - 2)).all fun d => hOffset a d == hOffset b d && hExtent a d == hExtent b d

/-- Where a source record holds tile (`tr`, `tc`) of a placement's grid: the tile's index in the record, if it lies there
whole. -/
def tileIn (h src : BitVec 1024) (tr tc : Nat) : Option Nat :=
  let r := hRank h
  let n := lineElems (hFmt h)
  let ext := hExtent h (r - 2)
  let sext := hExtent src (r - 2)
  let row (l : Nat) : Nat := hOffset h (r - 2) + l % ext
  let line (l : Nat) : Nat := l / ext * sext + (row l - hOffset src (r - 2))
  let last := Nat.min 16 (hRows h - 16 * tr)
  let c0 := hOffset h (r - 1) + tc * n
  let c1 := Nat.min (c0 + n) (hOffset h (r - 1) + hExtent h (r - 1))
  let so := hOffset src (r - 1)
  if hTensor src = hTensor h ∧ hFmt src = hFmt h ∧ sameOuter h src
      ∧ (List.range last).all (fun k =>
          let l := 16 * tr + k
          decide (hOffset src (r - 2) ≤ row l ∧ row l < hOffset src (r - 2) + sext ∧ line l = line (16 * tr) + k))
      ∧ line (16 * tr) % 16 = 0 ∧ so ≤ c0 ∧ c1 ≤ so + hExtent src (r - 1) ∧ (c0 - so) % n = 0 then
    some (line (16 * tr) / 16 * cdiv (hExtent src (r - 1)) n + (c0 - so) / n)
  else none

/-- A gathered tile: its bytes in the target's layout, and whether its read was poisoned. -/
def State.gatherTile (s : State) (heads : List (Nat × BitVec 1024)) (h : BitVec 1024) (tr tc : Nat) :
    Option (List Byte × Bool) :=
  (heads.findSome? fun e => (tileIn h e.2 tr tc).map fun k => (e, k)).map fun p =>
    let f := hFmt h
    let sl := hLayout p.1.2
    let size := tileBytes sl f
    let a := p.1.1 + 128 + p.2 * size
    let b := s.rdLong a size
    let m := packOf f
    (if sl = hLayout h then b else if sl = 1 then packTiles m 1 b else unpackTiles m 1 b, s.readPoison a size)

/-- The payload of a placement; none where a tile lies in no source record. -/
def State.gather (s : State) (heads : List (Nat × BitVec 1024)) (h : BitVec 1024) : Option (List Byte × Bool) :=
  let cols := cdiv (hCols h) (lineElems (hFmt h))
  (List.range (cdiv (hRows h) 16 * cols)).foldl (fun acc k =>
    match acc, s.gatherTile heads h (k / cols) (k % cols) with
    | some (l, p), some (b, q) => some (l ++ b, p || q)
    | _, _ => none) (some ([], false))

/-- An extent that is a multiple of `m`, or ends at the full extent. -/
def extentOk (m off ext full : Nat) : Bool := decide (off % m = 0 ∧ off + ext ≤ full ∧ (ext % m = 0 ∨ off + ext = full))

/-- Operations of a Prism in flight. -/
def State.prismInFlight (s : State) (die : Nat) : Nat := (s.ops.filter fun x => x.core == 513 + die).length

/-- What a placement gives: its record, or the status that ends the job there (R324, R325). -/
def State.placement (s : State) (r : PrismRun) (e : BitVec 256) : Except Nat (List Byte) :=
  let b := s.binding (plQueue e)
  match r.heads.find? fun p => hTensor p.2 == plTensor e with
  | none => .error stAccess
  | some (_, src) =>
    let k := hRank src
    let h := placeHeader src e (pjVersion r.desc)
    if fld e 27 0 ≠ 0 ∨ (plLayout e ≠ 1 ∧ plLayout e ≠ 2) ∨ plOffset e % 128 ≠ 0 ∨ ¬ headerOk h
        ∨ ¬ extentOk 16 (plRowOff e) (plRowExt e) (hFull src (k - 2))
        ∨ ¬ extentOk (lineElems (hFmt src)) (plColOff e) (plColExt e) (hFull src (k - 1))
        ∨ bPack b ≠ 0 ∨ bSide b then .error stAccess
    else match s.gather r.heads h with
      | none => .error stAccess
      | some (d, bad) => if bad then .error stPoison else .ok (leBytes 128 h.toNat ++ d)

/-- What the next placement reads: its entry, and the records of its tensor. -/
def State.placeReads (s : State) (r : PrismRun) : List (Nat × Nat) :=
  let a := addr64 (pjPlace r.desc) (32 * r.next)
  let t := plTensor (BitVec.ofNat 256 (leNat (s.engineRead (pjCtx r.desc) a 32).data))
  s.ownRanges [(a, 32)] ++ (r.heads.filter fun p => hTensor p.2 == t).map fun p => (p.1, 128 + hLength p.2)

/-- The next placement is sent, up to 64 in flight; its reads wait for a ladder that holds one of their pages (10 R243). -/
def execPrismPlacement : Reading (Fin 8) → State → Out
  | ⟨die, hw⟩, s0 =>
    match (s0.getDie die).prismRun with
    | some r =>
      let d := r.desc
      let u := s0.unitReads (die * 64) hw (s0.placeReads r)
      let s := u.1
      let x := s.getDie die
      if r.stopped ∨ r.next ≥ pjPlaceCount d ∨ s0.prismInFlight die ≥ 64 then .next s0
      else if ¬ u.2 then .next s
      else
        let p := s.engineRead (pjCtx d) (addr64 (pjPlace d) (32 * r.next)) 32
        let e := BitVec.ofNat 256 (leNat p.data)
        let out := if p.fault then .error stAccess else if p.poison then .error stPoison else s.placement r e
        match out with
        | .error st => .next (s.setDie die { x with prismRun := some (r.fails st r.next) })
        | .ok rec_ =>
          let b := s.binding (plQueue e)
          let s1 := s.setDie die { x with prismRun := some { r with next := r.next + 1, bytes := r.bytes + rec_.length } }
          let q : Request :=
            { who := 513 + die, ctx := some (pjCtx d), msg := prismMsg die r.next, kind := .put, ctr := 63,
              queue := plQueue e, gaddr := BitVec.ofNat 64 (bDest b * 2 ^ 48 + plOffset e), laddr := 0,
              len := rec_.length, fmt := 0, sig := true, sigCtr := plSigCtr e }
          .next ((s1.addOd 0x2600 0xB rec_.length).request q rec_)
    | none => .next s0

/-- Ends a running job with DEADLINE_MISS: it sends no further placement. -/
def State.prismMiss (s : State) (die : Nat) : State :=
  s.modDie die fun x => match x.prismRun with
    | some r => { x with prismRun := some (r.fails stDeadline r.next) }
    | none => x

/-- A job that is still running at its deadline has missed it (R326, 02 R49). -/
def State.prismCheckDeadline (s : State) (die : Nat) : State :=
  match (s.getDie die).prismRun with
  | some r => if s.reached (pjDeadline r.desc) ∧ ¬ r.stopped then s.prismMiss die else s
  | none => s

/-- The job ends when it sends nothing more and what it has sent is complete (R326). The index of a record without a
failing placement is open (log 34). -/
def execPrismJobEnd (die : Fin 8) (s0 : State) : Out :=
  let s := s0.prismCheckDeadline die
  let x := s.getDie die
  match x.prismRun with
  | some r =>
    let d := r.desc
    if (r.stopped ∨ r.next ≥ pjPlaceCount d) ∧ s.prismInFlight die = 0 then
      let st := if r.status ≠ stOk then r.status else if r.recovered then stRecovered else stOk
      let mid := r.fail.getD (Config.freeWord s.freeCtr).toNat
      let s1 := ((s.setDie die { x with prismRun := none }).engineWrite (pjCtx d) (pjRec d)
        (completion16 r.bytes mid st) die).doneCtr (pjCore d) (pjCtr d)
      let s2 := s1.addOd 0x2600 9 1
      .next (if isError st then s2.addOd 0x2600 0xA 1 else s2).draw
    else .next s0
  | none => .next s0

end Sys2Proof.Machine
end

