-- ==== Sys2Proof/Machine/Update.lean ====
section
/-!
DEFINITION. Phase 1 of the update (09 R193 to R199, R206, R207): the update rules, the staged copies, the digests of
what is staged, the exchange of digests (15 R346, R348), and the drift audit.
-/

namespace Sys2Proof.Machine

/-! Shard state headers (Table 09-2) -/
def shC1 (h : BitVec 512) : W32 := BitVec.ofNat 32 (fld h 415 384)
def shC2 (h : BitVec 512) : W32 := BitVec.ofNat 32 (fld h 383 352)
def shZ (h : BitVec 512) : W32 := BitVec.ofNat 32 (fld h 351 320)
def shTid (h : BitVec 512) : Nat := fld h 287 256
def shStaged (h : BitVec 512) : Bool := flag h 8
def shRule (h : BitVec 512) : Nat := fld h 7 4
def shFactored (h : BitVec 512) : Bool := flag h 3
def shDouble (h : BitVec 512) : Bool := flag h 2
def shCold (h : BitVec 512) : Bool := flag h 1
def shCur (h : BitVec 512) : Nat := fld h 0 0

/-- The two copies of a shard's master, moment and sketch. -/
def mapMaster (m : ShardMap) (k : Nat) : Nat := if k = 0 then m.master0 else m.master1
def mapMoment (m : ShardMap) (k : Nat) : Nat := if k = 0 then m.moment0 else m.moment1
def mapSketch (m : ShardMap) (k : Nat) : Nat := if k = 0 then m.sketch0 else m.sketch1

/-- Long-range bytes as a sequencer reads them: a poisoned page reads as the pattern of 10 R245. -/
def State.rdSafe (s : State) (off n : Nat) : List Byte :=
  (List.range n).map fun k => if (s.getPage ((off + k) / 65536)).poison then poisonByte (off + k) else rdByte s.lr (off + k)
def State.f32At (s : State) (off : Nat) : W32 := BitVec.ofNat 32 (leNat (s.rdSafe off 4))

/-- A shard's header. Before its first commit C1 and C2 hold their reset value 1.0 (Table 09-2); the other resets are those of a header
that software sets up, in memory that reads as zero before that (DESIGN CHOICE, log 130). -/
def State.shardHeader (s : State) (m : ShardMap) : BitVec 512 :=
  let h := BitVec.ofNat 512 (leNat (s.rdSafe m.header 64))
  if fld h 447 416 = 0 then setFld (setFld h 415 384 one32.toNat) 383 352 one32.toNat else h

/-- The global address of a long-range offset of this module. -/
def State.ownAddr (s : State) (off : Nat) : W64 := BitVec.ofNat 64 (s.moduleId * 2 ^ 48 + off)

/-- Element (i, j) of a shard in its row-major order, and in the tile order of its gradient sum region (06 R142). -/
def mapIdx (m : ShardMap) (i j : Nat) : Nat := i * m.cols + j
def gradOff (m : ShardMap) (i j : Nat) : Nat :=
  m.grad + 4 * ((i / 16 * cdiv m.cols 16 + j / 16) * 256 + i % 16 * 16 + j % 16)
def gradBytes (m : ShardMap) : Nat := cdiv m.rows 16 * cdiv m.cols 16 * 1024

/-- A master element: an FP32 with a zero low part, or a doublet. -/
def State.masterAt (s : State) (h : BitVec 512) (m : ShardMap) (k i j : Nat) : W32 × W32 :=
  let n := mapIdx m i j
  if shDouble h then (s.f32At (mapMaster m k + 8 * n), s.f32At (mapMaster m k + 8 * n + 4))
  else (s.f32At (mapMaster m k + 4 * n), 0)

/-- A first-moment element (BF16). -/
def State.momentAt (s : State) (m : ShardMap) (k i j : Nat) : W32 :=
  rne32 (decodeF bf16 (leNat (s.rdSafe (mapMoment m k + 2 * mapIdx m i j) 2)))

/-! The quantised sketch (R193) -/

/-- A code for `a` under a group scale. For a quotient outside (0, 1], which only non-finite values give, the manual
states no code (log 11). -/
def sketchCode (a sc : W32) (free : W64) : Nat :=
  if zero32 a then 0
  else
    let y := divRu32 a sc
    if nf32 y ∨ zero32 y ∨ lt32 one32 y then free.toNat % 16
    else
      let e := (-(FV.expo (v32 y))).toNat * 2
      let e1 := if sigGt (v32 y) (FV.ofNat 1) then e - 1 else e
      let e2 := if sigGt (v32 y) (v32 0x3FB504F3) then e1 - 1 else e1
      15 - min e2 14

def sketchValue (q : Nat) (sc : W32) : W32 :=
  if q = 0 then 0
  else
    let k := 15 - q
    let a := rne32 (FV.scale (-((k / 2 : Nat) : Int)) (v32 sc))
    if k % 2 = 1 then mul32 a 0x3F3504F3 else a

def State.sketchAt (s : State) (m : ShardMap) (k i j : Nat) : W32 :=
  let n := mapIdx m i j
  let g := mapSketch m k + 68 * (n / 128)
  let b := leNat (s.rdSafe (g + 4 + n % 128 / 2) 1)
  sketchValue (if n % 2 = 0 then b % 16 else b / 16) (s.f32At g)

/-- The 68 bytes of group `g` of a shard. -/
def sketchGroup (l : List W32) (free g : Nat) : List Byte :=
  let sc := l.foldl max32 0
  let q := ((List.range l.length).zip l).map fun a => sketchCode a.2 sc (Config.freeWord2 free (128 * g + a.1))
  leBytes 4 sc.toNat ++ pack4 (q ++ List.replicate (128 - q.length) 0)

/-! Sums of the update sequencer -/

/-- A mean of values, or of squares, in FP32; the order of the additions is open (log 11). -/
def meanOf (l : List W32) : W32 := div32 (vsum32 l) (rne32 (FV.ofNat l.length))
def meanSq (l : List W32) : W32 := meanOf (l.map fun x => mul32 x x)

/-- The Frobenius norm of R196: an FP32 sum of squares in tile order, each tile row-major. -/
def frobTiles (rows cols : Nat) (f : Nat → Nat → W32) : W32 :=
  sqrt32 (((List.range (cdiv rows 16)).flatMap fun a => (List.range (cdiv cols 16)).flatMap fun b =>
    (List.range (min 16 (rows - 16 * a))).flatMap fun i => (List.range (min 16 (cols - 16 * b))).map fun j =>
      f (16 * a + i) (16 * b + j)).foldl (fun t x => add32 t (mul32 x x)) 0)

/-! Settings of a tensor (2C01h) -/
def Ctx.upd (x : Ctx) (tid sub : Nat) : W32 := BitVec.ofNat 32 (x.setting 1 tid sub)

/-- A factor diagonal of a side: element `i` over all its blocks (R165, R194). -/
def State.diagOf (s : State) (ctx : Nat) (l : List Nat) : List W32 :=
  l.flatMap fun a =>
    let h := BitVec.ofNat 256 (leNat (s.engineRead ctx (BitVec.ofNat 64 a) 32).data)
    let e := fhElem h
    let d := (s.engineRead ctx (BitVec.ofNat 64 (a + 32 + 4 * (fhB h * fhB h * e))) (fhB h * e)).data
    (List.range (fhB h)).map fun i =>
      dblTo32 (BitVec.ofNat 32 (leNat ((d.drop (i * e)).take 4)))
        (if e = 8 then BitVec.ofNat 32 (leNat ((d.drop (i * e + 4)).take 4)) else 0)

/-- What the elementwise arithmetic of R195 gives for one element. -/
structure ElemStep where
  g : W32
  w : W32 × W32
  mom : W32          -- m′
  a : W32            -- √v
  uE : W32
  d : W32
  deriving DecidableEq, Repr

/-- The element's arithmetic (R194, R195); `dg` and `da` are the factor diagonals, `zs` the staged mean square. -/
def State.elemStep (s : State) (x : Ctx) (h : BitVec 512) (m : ShardMap) (dg da : List W32) (zs : W32) (i j : Nat) : ElemStep :=
  let t := shTid h
  let cur := shCur h
  let g := mul32 (x.upd t 0xF) (s.f32At (gradOff m i j))
  let m0 := s.momentAt m cur i j
  let b1 := x.upd t 4
  let b2 := x.upd t 5
  let plain := shRule h = 0 ∨ shRule h = 3
  let m1 := if plain then add32 (mul32 (x.upd t 8) m0) g else add32 (mul32 b1 m0) (mul32 (sub32 one32 b1) g)
  let v0 := s.sketchAt m cur i j
  let mg := meanOf dg
  let ma := meanOf da
  let v :=
    if shFactored h then
      if zero32 mg ∨ zero32 ma then zs
      else mul32 (mul32 zs (div32 (dg.getD (m.rowOff + i) 0) mg)) (div32 (da.getD (m.colOff + j) 0) ma)
    else add32 (mul32 (mul32 b2 v0) v0) (mul32 (mul32 (sub32 one32 b2) g) g)
  let c1 := mul32 (shC1 h) b1
  let c2 := mul32 (shC2 h) b2
  { g := g, w := s.masterAt h m cur i j, mom := m1, a := sqrt32 v,
    uE := div32 (div32 m1 (sub32 one32 c1)) (add32 (sqrt32 (div32 v (sub32 one32 c2))) (x.upd t 6)),
    d := if x.setting 1 t 9 ≠ 0 then add32 g (mul32 (x.upd t 8) m1) else m1 }

abbrev WMat := List (List W32)
def WMat.at_ (m : WMat) (i j : Nat) : W32 := (m.getD i []).getD j 0

/-- A value rounded to BF16. -/
def toBf16 (a : W32) : W32 := rne32 (decodeF bf16 (encodeF bf16 .rne (v32 a)))

/-- A root copy in force and its order; none where it is not usable (R196). -/
def State.usableRoot (s : State) (ctx : Nat) (x : Ctx) (tid : Nat) (l : List Nat) (k : Nat) : Option Mat :=
  match l[k]? with
  | none => none
  | some a =>
    let h := BitVec.ofNat 512 (leNat (s.engineRead ctx (BitVec.ofNat 64 a) 64).data)
    let n := rhN h
    let e := precBytes (rhPrec h)
    if rhInstalled h ∧ x.stepNo.toNat ≤ fld h 511 448 + x.setting 1 tid 0xB then
      some (readMat (rhPrec h) n n (s.engineRead ctx (BitVec.ofNat 64 (a + 64 + rhCur h * (n * n * e))) (n * n * e)).data)
    else none

/-- The part of a shard in block `k` of a side: local indices of the features k·b to (k + 1)·b − 1. -/
def blockPart (b off n k : Nat) : List Nat := (List.range n).filter fun i => (off + i) / b == k

/-- The step of a KRONECKER region (R196) at local (i, j), and whether it fell back to uE. -/
def State.kronRegion (s : State) (ctx : Nat) (x : Ctx) (h : BitVec 512) (m : ShardMap) (e : Nat → Nat → ElemStep) (o k : Nat) :
    (Nat → Nat → W32) × Bool :=
  let t := shTid h
  let b := m.blockEdge
  let rows := blockPart b m.rowOff m.rows o
  let cols := blockPart b m.colOff m.cols k
  match s.usableRoot ctx x t m.outRoots o, s.usableRoot ctx x t m.inRoots k with
  | some l, some r =>
    let c1 := mul32 (shC1 h) (x.upd t 4)
    let lAt (i i' : Nat) : W32 := toBf16 (rne32 (l.at_ (m.rowOff + i - o * b) (m.rowOff + i' - o * b)))
    let rAt (j' j : Nat) : W32 := toBf16 (rne32 (r.at_ (m.colOff + j' - k * b) (m.colOff + j - k * b)))
    let mAt (i j : Nat) : W32 := toBf16 (div32 (e i j).mom (sub32 one32 c1))
    let lm (i j : Nat) : W32 := engineSum (rows.map fun i' => v32 (lAt i i')) (rows.map fun i' => v32 (mAt i' j))
    let u (i j : Nat) : W32 := engineSum (cols.map fun j' => v32 (toBf16 (lm i j'))) (cols.map fun j' => v32 (rAt j' j))
    let nK := frobTiles rows.length cols.length fun i j => u (rows.getD i 0) (cols.getD j 0)
    let nE := frobTiles rows.length cols.length fun i j => (e (rows.getD i 0) (cols.getD j 0)).uE
    if lt32 0 nK then (fun i j => mul32 (u i j) (div32 nE nK), false) else (fun i j => (e i j).uE, true)
  | _, _ => (fun i j => (e i j).uE, true)

/-- The step of an ORTHO piece (R198): `at_` is where its POLAR result lies, if its job ended OK. -/
def State.orthoPiece (s : State) (x : Ctx) (h : BitVec 512) (m : ShardMap) (e : Nat → Nat → ElemStep) (a b : Nat)
    (res : Option Nat) : Nat → Nat → W32 :=
  let r := min 4096 (m.rows - 4096 * a)
  let c := min 4096 (m.cols - 4096 * b)
  let p (i j : Nat) : W32 := (e i j).d
  let o : Nat → Nat → W32 := match res with
    | some off =>
      let q := readMat 2 (min r c) (max r c) (s.rdSafe off (2 * (r * c)))
      fun i j =>
        let i := i - 4096 * a
        let j := j - 4096 * b
        rne32 (if r > c then q.at_ j i else q.at_ i j)
    | none =>
      let f := frobTiles r c fun i j => p (4096 * a + i) (4096 * b + j)
      fun i j => if zero32 f then 0 else mul32 (p i j) (div32 (sqrt32 (rne32 (FV.ofNat (min r c)))) f)
  let k := mul32 (x.upd (shTid h) 0xA) (sqrt32 (max32 one32 (div32 (rne32 (FV.ofNat r)) (rne32 (FV.ofNat c)))))
  fun i j => mul32 k (o i j)

/-- The POLAR job of piece `k` of a shard was accepted and its record says OK (R198). -/
def State.polarResult (s : State) (ctx : Nat) (x : Ctx) (m : ShardMap) (k : Nat) : Option Nat :=
  match m.polar[k]?, (x.ortho.find? fun o => o.1 == m.header).map fun o => o.2.getD k false with
  | some d, some true =>
    let r := s.engineRead ctx (jRec d) 32
    if r.fault ∨ leNat r.data % 256 ≠ stOk ∨ gaSpace (jDst d) ≠ 0 ∨ gaModule (jDst d) ≠ s.moduleId then none
    else some (gaOffset (jDst d))
  | _, _ => none

/-- The direction of every element by the shard's rule, and the regions and pieces that fell back. For a reserved RULE
code the manual states none (log 11). -/
def State.direction (s : State) (ctx : Nat) (x : Ctx) (h : BitVec 512) (m : ShardMap) (e : Nat → Nat → ElemStep) :
    (Nat → Nat → W32) × Nat × Nat :=
  let rule := shRule h
  if rule = 0 then (fun i j => (e i j).d, 0, 0)
  else if rule = 1 then (fun i j => (e i j).uE, 0, 0)
  else if rule = 2 then
    let b := m.blockEdge
    let os := ((List.range m.rows).map fun i => (m.rowOff + i) / b).eraseDups
    let ks := ((List.range m.cols).map fun j => (m.colOff + j) / b).eraseDups
    (fun i j => (s.kronRegion ctx x h m e ((m.rowOff + i) / b) ((m.colOff + j) / b)).1 i j,
      ((os.flatMap fun o => ks.map fun k => (s.kronRegion ctx x h m e o k).2).filter id).length, 0)
  else if rule = 3 then
    let nc := cdiv m.cols 4096
    let res (k : Nat) : Option Nat := s.polarResult ctx x m k
    (fun i j => s.orthoPiece x h m e (i / 4096) (j / 4096) (res (i / 4096 * nc + j / 4096)) i j, 0,
      ((List.range (cdiv m.rows 4096 * nc)).filter fun k => (res k).isNone).length)
  else (fun i j => (Config.freeWord2 s.freeCtr (mapIdx m i j)).truncate 32, 0, 0)

/-! Tiles of a shard (15 R346) -/

/-- The 16 lines of tile (a, b) of a matrix with lines of `n` elements; positions outside hold `z`. -/
def tileOf {α : Type} (rows cols n : Nat) (z : α) (f : Nat → Nat → α) (a b : Nat) : List (List α) :=
  (List.range 16).map fun i => (List.range n).map fun j =>
    if 16 * a + i < rows ∧ n * b + j < cols then f (16 * a + i) (n * b + j) else z

/-- The grid of a shard's tiles with lines of `n` elements. -/
def tileGrid (m : ShardMap) (n : Nat) : List (Nat × Nat) :=
  (List.range (cdiv m.rows 16)).flatMap fun a => (List.range (cdiv m.cols n)).map fun b => (a, b)

/-- The digest of tiles of a shard. -/
def shardDigest (m : ShardMap) (tid fmt : Nat) (f : Nat → Nat → List Byte) : W64 :=
  let n := lineElems fmt
  (tileGrid m n).foldl (fun t p =>
    t + tileDigest tid ((m.rowOff + 16 * p.1) / 16) ((m.colOff + n * p.2) / n) fmt (f p.1 p.2)) 0

/-- A tile of a master. -/
def masterTile (h : BitVec 512) (m : ShardMap) (f : Nat → Nat → W32 × W32) (a b : Nat) : List Byte :=
  let l := (tileOf m.rows m.cols 16 (0, 0) f a b).flatten
  if shDouble h then (doubletTile id l).bytes else packBytes 1 (l.map fun p => p.1.toNat)

/-! Working copies (R203) -/

/-- A slot group of 04 Table 04-4, by its key in the stores. The table's reset values are those of a group that software has set up:
the store's bytes hold what was written to them, zero before that (DESIGN CHOICE, log 130). -/
def State.slotGroup (s : State) (key : Nat) : BitVec 1024 := BitVec.ofNat 1024 (leNat (rdBytes s.stores key 128))
def State.curT (s : State) (m : ShardMap) : W32 := BitVec.ofNat 32 (fld (s.slotGroup m.amax) 95 64)

/-- A tile of the working copy re-derived from a master copy. -/
def State.workTile (s : State) (h : BitVec 512) (m : ShardMap) (fmt k a b : Nat) : List Byte :=
  (convTile fmt (s.curT m) nearest
    (tileOf m.rows m.cols (lineElems fmt) 0 (fun i j => (s.masterAt h m k i j).1) a b)).bytes

/-- Tile number of a shard's working copy. -/
def workIdx (m : ShardMap) (fmt a b : Nat) : Nat := a * cdiv m.cols (lineElems fmt) + b

/-- A tile as it is stored: MX tiles with their sidecars (10 R225; log 36). -/
def State.storedTile (s : State) (m : ShardMap) (fmt a b : Nat) : List Byte :=
  let k := workIdx m fmt a b
  if isMx fmt then s.rdStream m.work (544 * k) 544 else s.rdLong (m.work + 512 * k) 512

/-- Writes a whole working copy. -/
def State.writeWork (s : State) (m : ShardMap) (fmt : Nat) (f : Nat → Nat → List Byte) : State :=
  (tileGrid m (lineElems fmt)).foldl (fun s p =>
    let k := workIdx m fmt p.1 p.2
    if isMx fmt then s.longWriteStream m.work (544 * k) (f p.1 p.2) else s.longWrite (m.work + 512 * k) (f p.1 p.2)) s

/-- WORK_FMT of a shard's tensor. -/
def Ctx.workFmt (x : Ctx) (h : BitVec 512) : Nat := x.setting 1 (shTid h) 0x10

/-- The drift audit (R206), when the step's number is a multiple of DRIFT_PERIOD. -/
def State.driftAudit (s : State) (ctx : Nat) (h : BitVec 512) (m : ShardMap) : State :=
  let x := s.getCtx ctx
  let fmt := x.workFmt h
  if x.stepNo.toNat % s.od 0x2C00 5 ≠ 0 then s
  else
    let fresh := s.workTile h m fmt (shCur h)
    if shardDigest m (shTid h) fmt (s.storedTile m fmt) = shardDigest m (shTid h) fmt fresh then s
    else
      ((((s.writeWork m fmt fresh).addOd 0x2C00 6 1).emcy 0xFF10 (shTid h * 2 ^ 32 + m.shardNo.toNat)).modCtx ctx fun x =>
        { x with driftMark := true })

/-! The exchange of digests (15 R348) -/

/-- The row of a member in the exchange area. -/
def Ctx.exchangeRow (x : Ctx) (member : Nat) : Nat := x.dTable + 0x200000 + member * x.dSlots * 32

/-- Multicasts records 0 to SLOTS − 1 into row INDEX of every member, with a signal to CMP_CTR. The frames are not
awaited (log 26). -/
def State.exchangeDigests (s : State) (ctx : Nat) : State :=
  let x := s.getCtx ctx
  let n := x.dSlots * 32
  let d := s.rdLong x.dTable n
  let row := x.exchangeRow x.dIndex
  let g := s.groupOf x.dGroup
  let die := coreDie x.dCmpCore
  let hops := if isGroup x.dGroup ∧ grValid g ∧ grKind g = 1 then s.treeNeighbours g else []
  let a : FrameArgs :=
    { msg := 509 * 2 ^ 39 + 2 ^ 38 + ctx * 2 ^ 34 + x.stepNo.toNat % 2 ^ 34, addr := row, sigCore := x.dCmpCore,
      sigCtr := x.dCmpCtr, sig := true }
  let s1 := if n = 0 then
      hops.foldl (fun s m => s.sendVia (s.mkFrame x.dGroup 4 2 { a with total := 1 } []) 65536 m (some die)) s
    else s.sendData x.dGroup 0 2 65536 a d hops die
  (s1.longWrite row d).ctrAdd x.dCmpCore x.dCmpCtr 1

/-! Phase 1 (R199) -/

/-- Pages of a cold tensor's gradient sum region that hold only zeros (R207). -/
def State.skippedPages (s : State) (h : BitVec 512) (m : ShardMap) : List Nat :=
  if shCold h then
    (pagesOf m.grad (gradBytes m)).filter fun p =>
      (List.range m.rows).all fun i => (List.range m.cols).all fun j =>
        gradOff m i j / 65536 != p || zero32 (s.f32At (gradOff m i j))
  else []

/-- Everything that phase 1 prepares for a shard: the new master, the BF16 pattern of the new moment, √v, the step, and
g, by element; ZS; the fallbacks; the skipped pages. -/
structure Prepared where
  master : List (List (W32 × W32))
  moment : List (List Nat)
  root : WMat
  delta : WMat
  grad : WMat
  zs : W32
  kronFallbacks : Nat
  orthoFallbacks : Nat
  skipped : List Nat
  deriving DecidableEq, Repr

def State.prepare (s : State) (ctx : Nat) (h : BitVec 512) (m : ShardMap) : Prepared :=
  let x := s.getCtx ctx
  let t := shTid h
  let skipped := s.skippedPages h m
  let skip (i j : Nat) : Bool := skipped.contains (gradOff m i j / 65536)
  let all {α : Type} (f : Nat → Nat → α) : List (List α) := (List.range m.rows).map fun i => (List.range m.cols).map fun j => f i j
  let grads := all fun i j => mul32 (x.upd t 0xF) (s.f32At (gradOff m i j))
  let fact := shFactored h && (shRule h == 1 || shRule h == 2)
  let b2 := x.upd t 5
  let zs := if fact then add32 (mul32 b2 (shZ h)) (mul32 (sub32 one32 b2) (meanSq grads.flatten)) else shZ h
  let dg := if fact then s.diagOf ctx m.outFactors else []
  let da := if fact then s.diagOf ctx m.inFactors else []
  let e (i j : Nat) : ElemStep := s.elemStep x h m dg da zs i j
  let (u, kf, of) := s.direction ctx x h m e
  let eta := mul32 (x.upd t 3) (x.lrMult.getD (BitVec.ofNat 32 (s.od 0x2C02 (ctx + 1))))
  let delta (i j : Nat) : W32 := mul32 eta (add32 (u i j) (mul32 (x.upd t 7) (e i j).w.1))
  let cur := shCur h
  { master := all fun i j =>
      let w := (e i j).w
      if skip i j then w
      else if shDouble h then dadd w (neg32 (delta i j), 0) else (sub32 w.1 (delta i j), 0),
    moment := all fun i j =>
      if skip i j then leNat (s.rdSafe (mapMoment m cur + 2 * mapIdx m i j) 2)
      else
        let k := x.stepNo.toNat * 2 ^ 32 + (m.rowOff + i) * m.fullCols + m.colOff + j
        encodeF bf16 (elemMode true x.seed (BitVec.ofNat 32 t) (BitVec.ofNat 64 k)) (v32 (e i j).mom),
    root := all fun i j => if skip i j then s.sketchAt m cur i j else (e i j).a,
    delta := all fun i j => if skip i j then 0 else delta i j,
    grad := grads, zs := zs, kronFallbacks := kf, orthoFallbacks := of, skipped := skipped }

/-- Whether a shard keeps a quantised sketch (R192). -/
def keepsSketch (h : BitVec 512) : Bool := (shRule h == 1 || shRule h == 2) && !shFactored h

/-- Whether a staged result holds a non-finite value: source 0x7 (R200). -/
def Prepared.bad (p : Prepared) (h : BitVec 512) : Bool :=
  nf32 p.zs || p.master.flatten.any (fun w => nf32 w.1 || nf32 w.2) || p.moment.flatten.any (fun b => b % 2 ^ 15 ≥ 0x7F80)
    || (keepsSketch h && p.root.flatten.any nf32)

/-- Elements that were not skipped. -/
def Prepared.live {α : Type} (p : Prepared) (m : ShardMap) (l : List (List α)) : List α :=
  ((List.range m.rows).zip l).flatMap fun r => ((List.range m.cols).zip r.2).filterMap fun c =>
    if p.skipped.contains (gradOff m r.1 c.1 / 65536) then none else some c.2

/-- Groups of 128 elements of a sketch; a group whose elements are all skipped keeps its bytes. -/
def State.sketchBytes (s : State) (h : BitVec 512) (m : ShardMap) (p : Prepared) : List Byte :=
  let l := p.root.flatten
  let offs := (List.range m.rows).flatMap fun i => (List.range m.cols).map fun j => gradOff m i j / 65536
  (List.range (cdiv l.length 128)).flatMap fun g =>
    if ((offs.drop (128 * g)).take 128).all p.skipped.contains then s.rdSafe (mapSketch m (shCur h) + 68 * g) 68
    else sketchGroup ((l.drop (128 * g)).take 128) s.freeCtr g

/-- Writes the pages of a range whose bytes change: a cold shard's pages that nothing changes are not written (R207). -/
def State.longWriteChanged (s : State) (off : Nat) (d : List Byte) : State :=
  (pagesOf off d.length).foldl (fun s p =>
    let a := max off (p * 65536)
    let l := (d.drop (a - off)).take (p * 65536 + 65536 - a)
    if s.rdLong a l.length = l then s else s.longWrite a l) s

/-- Writes the staged copies of a shard (R199): master, moment and sketch, the zeroed gradient sums, ZS and STAGED. -/
def State.stageShard (s : State) (h : BitVec 512) (m : ShardMap) (p : Prepared) : State :=
  let k := 1 - shCur h
  let sketch := s.sketchBytes h m p
  let write (s : State) (off : Nat) (d : List Byte) : State := if shCold h then s.longWriteChanged off d else s.longWrite off d
  let s1 := write s (mapMaster m k) (p.master.flatten.flatMap fun w =>
    leBytes 4 w.1.toNat ++ (if shDouble h then leBytes 4 w.2.toNat else []))
  let s2 := write s1 (mapMoment m k) (p.moment.flatten.flatMap (leBytes 2))
  let s3 := if keepsSketch h then write s2 (mapSketch m k) sketch else s2
  let s4 := s3.longWrite m.grad (zeroBytes (gradBytes m))
  s4.longWrite m.header (leBytes 64 (setFlag (setFld h 319 288 p.zs.toNat) 8 true).toNat)

/-- What phase 1 of a shard reads: its sums, its copies in force, the headers of its factors and roots. -/
def State.phaseReads (s : State) (m : ShardMap) : List (Nat × Nat) :=
  let h := s.shardHeader m
  let n := m.rows * m.cols
  [(m.header, 64), (m.grad, gradBytes m), (mapMaster m (shCur h), n * (if shDouble h then 8 else 4)), (mapMoment m (shCur h), n * 2)]
    ++ (if keepsSketch h then [(mapSketch m (shCur h), cdiv n 128 * 68)] else [])
    ++ s.ownRanges ((m.inFactors ++ m.outFactors ++ m.inRoots ++ m.outRoots).map fun a => (BitVec.ofNat 64 a, 64))

/-- Phase 1 of a shard once its count is reached. -/
def State.phaseOne (s : State) (ctx : Nat) (m : ShardMap) : State :=
  let h := s.shardHeader m
  let s1 := s.driftAudit ctx h m
  let p := s1.prepare ctx h m
  let t := shTid h
  let s2 := s1.stageShard h m p
  let amax := p.master.flatten.foldl (fun a w => if nf32 w.1 then a else max32 a (abs32 w.1)) 0
  let grads := p.live m p.grad
  let badGrad := (List.range m.rows).any fun i => (List.range m.cols).any fun j => nf32 (s1.f32At (gradOff m i j))
  let s3 : State := s2.modCtx ctx fun x =>
    { x with
      shards := x.shards ++ [m], wAmax := tblUpd w32z x.wAmax m.amax (fun v => max32 v amax),
      poison7 := x.poison7 || badGrad || p.bad h,
      nfSources := x.nfSources ||| BitVec.ofNat 8 ((if badGrad then 0x10 else 0) + (if p.bad h then 0x40 else 0)) }
  let s4 : State := match s3.digestSlot ctx t with
    | some k => s3.addDigest ctx k 1
        (shardDigest m t (if shDouble h then 0xB else 1) (masterTile h m fun i j => (p.master.getD i []).getD j (0, 0)))
    | none => s3
  let s5 : State := (s4.sampleTensor (some ctx) 2 t grads).sampleTensor (some ctx) 3 t (p.live m p.delta)
  let s6 : State := ((s5.addOd 0x2C00 7 p.kronFallbacks).addOd 0x2C00 8 p.orthoFallbacks).addOd 0x2C00 9 p.skipped.length
  let s7 : State := (s6.ctrSub m.ctrCore m.ctrNum.toNat m.count.toNat).draw
  if m.lastShard ∧ (s7.getCtx ctx).dMembers ≥ 2 then s7.exchangeDigests ctx else s7

/-- What the checks found during phase 1: a witness on a lent engine, a residue event of the sequencer (16 R361). -/
def State.sequencerEvent (s : State) (m : ShardMap) : HwEvent → State
  | .witness e =>
    if m.lend.getLsbD e.val then s.coreEvent (m.ctrCore.val / 8 * 8 + e.val / 2) false ⟨some (e.val % 2), none, none⟩ else s
  | .residue => s.clusterEvent (m.ctrCore.val / 8) true
  | _ => s

/-- The ranges of a shard that phase 1 and phase 2 write: they lie in the context's own regions (01 R32, 10 R231). -/
def State.mapOk (s : State) (ctx : Nat) (m : ShardMap) : Bool :=
  let h := s.shardHeader m
  let n := m.rows * m.cols
  let e := if shDouble h then 8 else 4
  let fmt := (s.getCtx ctx).workFmt h
  let tiles := cdiv m.rows 16 * cdiv m.cols (lineElems fmt)
  ([(m.header, 64), (m.master0, n * e), (m.master1, n * e), (m.moment0, 2 * n), (m.moment1, 2 * n), (m.grad, gradBytes m),
      (m.work, 512 * tiles)]
    ++ if keepsSketch h then [(m.sketch0, cdiv n 128 * 68), (m.sketch1, cdiv n 128 * 68)] else []).all
    fun r => s.longOk (.ctx ctx) true r.1 r.2

/-- The engines that the sequencer borrows for the products of R196 are all free (R197). -/
def State.enginesFree (s : State) (m : ShardMap) : Bool :=
  (maskEngines (m.ctrCore.val / 8) m.lend.toNat).all fun e => !(s.getCore e.1).lent.getLsbD e.2

/-- Phase 1 of a shard may run: its step runs, its count is reached at its owner cluster, which no step changes (01 R30), and it is not
staged yet. -/
def State.phaseOneDue (s : State) (ctx : Nat) (m : ShardMap) : Bool :=
  let x := s.getCtx ctx
  x.active && x.stepRun && x.phase2.isNone && s.ctxOfCore m.ctrCore == some ctx && decide (m.ctrNum.toNat < 48)
    && decide ((s.getCore m.ctrCore).ctrVal m.ctrNum.toNat ≥ m.count.toNat)
    && !shStaged (s.shardHeader m) && !x.shards.contains m && !s.cutCovers ctx s.now
    && (x.ownerOf (s.ownAddr m.header)).all (· == m.ctrCore.val / 8) && s.mapOk ctx m
    && (shRule (s.shardHeader m) != 2 || s.enginesFree m)

/-- The piece of d that a POLAR job takes, in BF16, transposed where it has more rows than columns (R198). -/
def State.pieceBytes (s : State) (ctx : Nat) (m : ShardMap) (k : Nat) : List Byte :=
  let h := s.shardHeader m
  let x := s.getCtx ctx
  let nc := cdiv m.cols 4096
  let a := k / nc
  let b := k % nc
  let r := min 4096 (m.rows - 4096 * a)
  let c := min 4096 (m.cols - 4096 * b)
  let p (i j : Nat) : FVal := v32 (s.elemStep x h m [] [] 0 (4096 * a + i) (4096 * b + j)).d
  if r > c then writeMat 2 c r (mkMat c r fun i j => p j i) else writeMat 2 r c (mkMat r c p)

/-- The sequencer writes the pieces of an ORTHO shard into their jobs' inputs and submits the jobs through the solver window (08 R172); a
descriptor that the window refuses gives its piece no job. -/
def State.submitPolar (s : State) (ctx : Nat) (m : ShardMap) : State :=
  let k := m.ctrCore.val / 8
  let r := ((List.range m.polar.length).zip m.polar).foldl (fun (t : State × List Bool) (p : Nat × BitVec 1024) =>
    let d := leBytes 128 p.2.toNat
    if t.1.solverCheck k d = stOk then
      ((t.1.engineWrite ctx (jSrc p.2) (s.pieceBytes ctx m p.1) (k / 8)).solverWrite k d, t.2 ++ [true])
    else (t.1, t.2 ++ [false])) (s, [])
  r.1.modCtx ctx fun x => { x with ortho := x.ortho ++ [(m.header, r.2)] }

/-- A POLAR job of the shard is still queued or running. -/
def State.polarRuns (s : State) (m : ShardMap) : Bool :=
  let c := s.getCluster (m.ctrCore.val / 8)
  m.polar.any fun d => c.solverQ.contains d || c.solverRun.any fun r => r.desc == d

/-- Room in the cluster's solver queue for the shard's jobs (08 R172). -/
def State.polarRoom (s : State) (m : ShardMap) : Bool :=
  decide ((s.getCluster (m.ctrCore.val / 8)).solverQ.length + m.polar.length ≤ 64)

/-- Where an ORTHO shard stands: its jobs are still to be submitted, or some of them still to end. -/
def State.orthoStage (s : State) (ctx : Nat) (m : ShardMap) : Option State :=
  if shRule (s.shardHeader m) ≠ 3 then none
  else if (s.getCtx ctx).ortho.any fun o => o.1 == m.header then (if s.polarRuns m then some s else none)
  else if s.polarRoom m then some (s.submitPolar ctx m) else some s

/-- A ladder holds a page of a shard's structures: its update waits (10 R243). -/
def State.shardHeld (s : State) (m : ShardMap) : Bool :=
  let h := s.shardHeader m
  let n := m.rows * m.cols
  ([(m.header, 64), (m.grad, gradBytes m), (m.work, n)] ++ (List.range 2).flatMap fun k =>
    [(mapMaster m k, n * (if shDouble h then 8 else 4)), (mapMoment m k, n * 2), (mapSketch m k, cdiv n 128 * 68)]).any fun r =>
      (s.heldAt r.1 r.2).isSome

/-- Phase 1 of a shard (R199). Of an ORTHO shard it first submits the POLAR jobs, and waits for their ends; under KRONECKER the borrowed
engines return with their slots zero (R197). Its reads wait for a ladder that holds one of their pages (10 R243). -/
def execPhase1 (ctx : Fin 16) (m : ShardMap) (hw : HwEvent) (s0 : State) : Out :=
  if s0.phaseOneDue ctx m ∧ ¬ s0.shardHeld m then
    let u := s0.unitReads m.ctrCore hw (s0.phaseReads m)
    let s := u.1.modCtx ctx fun x =>
      { x.know 0 (s0.ownAddr m.header) (m.ctrCore.val / 8) with
        lrMult := some (x.lrMult.getD (BitVec.ofNat 32 (s0.od 0x2C02 (ctx.val + 1)))) }
    if ¬ u.2 then .next u.1
    else match s.orthoStage ctx m with
    | some s1 => .next s1
    | none =>
      let s1 := s.phaseOne ctx m
      let s2 := if shRule (s.shardHeader m) = 2 then s1.giveBack (maskEngines (m.ctrCore.val / 8) m.lend.toNat) else s1
      .next (s2.sequencerEvent m hw)
  else .next s0

end Sys2Proof.Machine
end

