-- ==== Sys2Proof/Machine/Commit.lean ====
section
/-!
DEFINITION. The comparison of digests (15 R348, R349), the release of a barrier (12 R294), the outcome of a step and the
two phases of its commit (09 R200 to R205, 04 R95, 07 R163, R164, 08 R186).
-/

namespace Sys2Proof.Machine

/-! Mismatches (15 R349) -/

/-- The values of field `k` of slot `slot` held by the members: 0 OUT, 1 MASTER, 2 WORK. -/
def State.memberValues (s : State) (x : Ctx) (slot k : Nat) : List Nat :=
  (List.range x.dMembers).map fun m => leNat (s.rdLong (x.exchangeRow m + 32 * slot + 8 * k) 8)

def allEqual (l : List Nat) : Bool := l.all (· == l.headD 0)

/-- The value held by more than half of the members. -/
def majority (l : List Nat) : Option Nat := l.find? fun v => decide (2 * l.count v > l.length)

/-- What a slot shows: WORK differs, MASTER differs with WORK equal, OUT alone differs. -/
def State.slotMismatch (s : State) (x : Ctx) (slot : Nat) : Bool × Bool × Bool :=
  let w := !allEqual (s.memberValues x slot 2)
  let m := !w && !allEqual (s.memberValues x slot 1)
  (w, m, !w && !m && x.dOutCmp && !allEqual (s.memberValues x slot 0))

/-- Records slots that differ (2700h subs 0Bh to 0Fh). -/
def State.recordMismatch (s : State) (ctx slot sub : Nat) : State :=
  ((s.addOd 0x2700 sub 1).setOd 0x2700 0xE (s.getCtx ctx).stepNo.toNat).setOd 0x2700 0xF (ctx * 2 ^ 16 + slot % 2 ^ 16)

/-- Bytes that come from another member: open (log 26). -/
def State.memberBytes (s : State) (n : Nat) : List Byte := (List.range n).map fun k => (Config.freeWord2 s.freeCtr k).truncate 8

/-- The staged shards of a context whose tensor has a digest slot. -/
def State.slotShards (s : State) (ctx slot : Nat) : List ShardMap :=
  (s.getCtx ctx).shards.filter fun m => s.digestSlot ctx (shTid (s.shardHeader m)) == some slot

/-- The WORK digest of a slot recomputed from the working copies stored. -/
def State.redoWork (s : State) (ctx slot : Nat) : State :=
  let x := s.getCtx ctx
  let d := (s.slotShards ctx slot).foldl (fun t m =>
    let h := s.shardHeader m
    t + shardDigest m (shTid h) (x.workFmt h) (s.storedTile m (x.workFmt h))) (0 : W64)
  s.setDigest ctx slot 2 d.toNat

/-- A minority member takes the slot's working copies from the source member. -/
def State.fetchWork (s : State) (ctx slot : Nat) : State :=
  ((s.slotShards ctx slot).foldl (fun s m =>
    let fmt := (s.getCtx ctx).workFmt (s.shardHeader m)
    (s.writeWork m fmt fun _ _ => s.memberBytes (footprint fmt)).draw) s).redoWork ctx slot

/-- A minority member takes the slot's staged masters, moments, sketches and ZS from the source member. -/
def State.fetchStaged (s : State) (ctx slot : Nat) : State :=
  (s.slotShards ctx slot).foldl (fun s m =>
    let h := s.shardHeader m
    let k := 1 - shCur h
    let n := m.rows * m.cols
    let s1 := (s.longWrite (mapMaster m k) (s.memberBytes (n * (if shDouble h then 8 else 4)))).draw
    let s2 := (s1.longWrite (mapMoment m k) (s1.memberBytes (2 * n))).draw
    let s3 := if keepsSketch h then (s2.longWrite (mapSketch m k) (s2.memberBytes (cdiv n 128 * 68))).draw else s2
    (s3.longWrite m.header (leBytes 64 (setFld h 319 288 (leNat (s3.memberBytes 4))).toNat)).draw) s

/-- Working copies of a slot re-derived from the committed masters (R203). -/
def State.rederive (s : State) (ctx slot : Nat) : State :=
  ((s.slotShards ctx slot).foldl (fun s m =>
    let h := s.shardHeader m
    let fmt := (s.getCtx ctx).workFmt h
    s.writeWork m fmt (s.workTile h m fmt (shCur h))) s).redoWork ctx slot

def State.setReplay (s : State) (ctx : Nat) : State := s.modCtx ctx fun x => { x with replayMark := true }

/-- The procedure for one slot (Table 15-7). -/
def State.slotProcedure (s : State) (ctx slot : Nat) : State :=
  let x := s.getCtx ctx
  let own (k : Nat) : Nat := (s.memberValues x slot k).getD x.dIndex 0
  let maj (k : Nat) : Option Nat := if x.dMembers ≥ 3 then majority (s.memberValues x slot k) else none
  match s.slotMismatch x slot with
  | (true, _, _) =>
    let s1 := s.recordMismatch ctx slot 0xB
    (match maj 2 with
     | some v => if own 2 = v then s1 else (s1.fetchWork ctx slot).setReplay ctx
     | none => (s1.rederive ctx slot).modCtx ctx fun x => { x with rederived := true })
  | (_, true, _) =>
    let s1 := s.recordMismatch ctx slot 0xC
    (match maj 1 with
     | some v => if own 1 = v then s1 else s1.fetchStaged ctx slot
     | none => s1.setReplay ctx)
  | (_, _, true) => (s.recordMismatch ctx slot 0xD).setReplay ctx
  | _ => s

/-- The second comparison, of re-derived working copies: equal, REPLAY; unequal, a cut with reason 9. -/
def State.compareAgain (s : State) (ctx : Nat) : State :=
  let x := s.getCtx ctx
  if (List.range x.dSlots).all fun k => allEqual (s.memberValues x k 2) then s.setReplay ctx
  else s.cutNext (2 ^ ctx) cutDigests

/-- CMP_CTR reaches MEMBERS (R348). -/
def execDigestCompare (ctx : Fin 16) (s : State) : Out :=
  let x := s.getCtx ctx
  if x.stepRun ∧ x.active ∧ ¬ x.voted ∧ x.dMembers ≥ 2 ∧ (s.getCore x.dCmpCore).ctrVal x.dCmpCtr ≥ x.dMembers then
    let s1 := if x.rederived then s.compareAgain ctx
      else (List.range x.dSlots).foldl (fun s k => s.slotProcedure ctx k) s
    let s2 := s1.ctrSub x.dCmpCore x.dCmpCtr x.dMembers
    if (s2.getCtx ctx).rederived ∧ ¬ x.rederived then .next (s2.exchangeDigests ctx)
    else .next (s2.modCtx ctx fun x => { x with voted := true })
  else .next s

/-! The outcome of a step (R200 to R202, R205) -/

/-- Outcome codes: 1 COMMIT, 2 DISCARD, 3 REPLAY. -/
def outcomeOf (vote : Nat) : Nat := if vote.testBit 1 then 3 else if vote.testBit 0 then 2 else 1

/-- Order 1 of Table 09-3 for a staged shard, or the clearing of STAGED. -/
def State.settleShard (s : State) (ctx : Nat) (commit : Bool) (m : ShardMap) : State :=
  let x := s.getCtx ctx
  let h := s.shardHeader m
  if ¬ shStaged h then s
  else if commit then
    let t := shTid h
    let c1 := mul32 (shC1 h) (x.upd t 4)
    let c2 := mul32 (shC2 h) (x.upd t 5)
    let h1 := setFld (setFld h 511 448 x.stepNo.toNat) 447 416 (fld h 447 416 + 1)
    let h2 := setFld (setFld (setFld h1 415 384 c1.toNat) 383 352 c2.toNat) 351 320 (fld h 319 288)
    s.longWrite m.header (leBytes 64 (setFlag (setFld h2 0 0 (1 - shCur h)) 8 false).toNat)
  else s.longWrite m.header (leBytes 64 (setFlag h 8 false).toNat)

/-- Exports that still read the context's regions (R204); one submitted during its phase 2 waits for its end (R211). -/
def State.exportRuns (s : State) (ctx : Nat) : Bool :=
  s.dies.any fun d => d.2.shardQ.any fun e => !e.2.2 && s.exportCtx e.1 == some ctx

/-- First events of the step in its context: a REPLAY begins their replay, any other outcome forgets them (16 R364). -/
def State.settleEvents (s : State) (ctx outcome : Nat) : State :=
  let x := s.getCtx ctx
  let evs := s.repair.firstEvent
  let s1 : State := { s with repair := { s.repair with
    firstEvent := if outcome = 3 then evs.map fun e => if e.ctx = ctx ∧ e.step = x.stepNo.toNat then { e with replay := true } else e
      else evs.filter fun e => e.ctx != ctx } }
  if outcome = 3 ∧ (evs.any fun e => e.ctx == ctx && e.step == x.stepNo.toNat) then s1.addOd 0x2300 0x13 1 else s1

/-- The counts of an outcome in 2C00h, and POISON_LIMIT (R202, R205, Table 09-8). -/
def State.countOutcome (s : State) (ctx outcome : Nat) : State :=
  let x := s.getCtx ctx
  if outcome = 1 then s.modCtx ctx fun x => { x with discards := 0 }
  else if outcome = 2 then
    let s1 := ((s.addOd 0x2C00 1 1).setOd 0x2C00 2 x.stepNo.toNat).setOd 0x2C00 3 x.nfSources.toNat
    let s2 := s1.modCtx ctx fun x => { x with discards := x.discards + 1 }
    if x.discards + 1 ≥ s.od 0x2C00 4 then s2.cutNext (2 ^ ctx) cutPoison else s2
  else s.addOd 0x2C00 0xA 1

/-- The decision at the release of a step's commit barrier. -/
def State.decideStep (s : State) (ctx vote : Nat) (map : CommitMap) : State :=
  let o := outcomeOf vote
  let s1 := ((s.countOutcome ctx o).settleEvents ctx o).eachCore ctx fun c => { c with stepNf := 0 }
  let s2 := (s1.watchesDone ctx o).recordOutcome ctx o
  let s3 := if s2.exportRuns ctx then s2
    else (s2.getCtx ctx).shards.foldl (fun s m => s.settleShard ctx (o == 1) m) s2
  s3.modCtx ctx fun x =>
    { x with phase2 := some o, phase2Map := some map, replayMark := false, driftMark := false, poison7 := false, nfSources := 0 }

/-! Phase 2 (Table 09-3) -/

/-- The tensor scale that a history gives (04 R91). -/
def historyScale (fmt : Nat) (l : List W32) : W32 :=
  let r := l.foldl max32 0
  if zero32 r then one32
  else
    let sig (v : FVal) : FVal := FV.scale (-(FV.expo v)) v
    let fm := decodeF (elemFmt fmt) (elemFmt fmt).maxMag
    let q := BitVec.ofNat 32 (divF fp32 .rne (sig (v32 r)) (sig fm))
    if lt32 q one32 then mul32 0x40000000 q else q

/-- One slot group at a commit (04 R95, R96). -/
def commitAmax (g : BitVec 1024) (m : W32) : BitVec 1024 :=
  let h := min 16 (fld g 44 40)
  if h = 0 then setFld (setFld g 95 64 one32.toNat) 51 48 0
  else
    let pos := fld g 51 48
    let g1 := setFld g (128 + 32 * pos + 31) (128 + 32 * pos) m.toNat
    let hist := (List.range h).map fun i => BitVec.ofNat 32 (fld g1 (128 + 32 * i + 31) (128 + 32 * i))
    setFld (setFld g1 51 48 ((pos + 1) % h)) 95 64 (historyScale (fld g 39 32) hist).toNat

def State.amaxCommit (s : State) (ctx : Nat) (a : AmaxMap) : State :=
  let m := max32 a.m (tblGet w32z (s.getCtx ctx).wAmax a.slot)
  { s with stores := wrBytes s.stores a.slot (leBytes 128 (commitAmax (s.slotGroup a.slot) m).toNat) }

/-! Factor blocks (07 R163) -/

/-- Sums and products in a block's precision: FP32, or doublet by dadd and exact products renormalised. -/
def pAdd (dbl : Bool) (a b : W32 × W32) : W32 × W32 := if dbl then dadd a b else (add32 a.1 b.1, 0)
def pMul (dbl : Bool) (a b : W32 × W32) : W32 × W32 :=
  if dbl then dblOfVal (FV.mul (dblVal a.1 a.2) (dblVal b.1 b.2)) else (mul32 a.1 b.1, 0)

/-- 1/n in a block's precision. -/
def pInv (dbl : Bool) (n : Nat) : W32 × W32 :=
  let hi := BitVec.ofNat 32 (divF fp32 .rne (FV.ofNat 1) (FV.ofNat n))
  let rest := FV.sub (FV.ofNat 1) (FV.mul (v32 hi) (FV.ofNat n))
  (hi, if dbl then BitVec.ofNat 32 (divF fp32 .rne rest (FV.ofNat n)) else 0)

/-- The matrices of a factor buffer. -/
structure FactorParts where
  sum : Nat → Nat → W32 × W32
  cur : Nat → Nat → W32 × W32
  carry : Nat → Nat → W32 × W32

/-- What a commit makes of a factor block: the new header, the carry, and the copy it writes, if it writes one. -/
structure FactorCommit where
  header : BitVec 256
  carry : Nat → Nat → W32 × W32
  copy : Option (Nat → Nat → W32 × W32)
  deferred : Bool

/-- βᴷ as R163 forms it. -/
def pPow (dbl : Bool) (b : W32 × W32) : Nat → W32 × W32
  | 0 => b
  | n + 1 => pMul dbl (pPow dbl b n) b

def factorCommit (h : BitVec 256) (beta : W32) (step : Nat) (p : FactorParts) : FactorCommit :=
  let dbl := fhElem h == 8
  let n := fld h 223 192
  let w := pInv dbl n
  let b := (beta, 0)
  let y (i j : Nat) : W32 × W32 := pMul dbl (pMul dbl (pAdd dbl (p.sum i j) (p.sum j i)) (0x3F000000, 0)) w
  let one := pAdd dbl (one32, 0) (neg32 beta, 0)
  let other := 1 - fhCur h
  let done (x : Nat → Nat → W32 × W32) (h : BitVec 256) : FactorCommit :=
    { header := setFld (setFld (setFld (setFld h 118 118 other) 159 144 0) 191 160 (fld h 191 160 + 1)) 63 0 step,
      carry := fun _ _ => (0, 0), copy := some x, deferred := false }
  if n = 0 then { header := h, carry := p.carry, copy := none, deferred := false }
  else if fld h 191 160 = 0 then done y h
  else
    let c (i j : Nat) : W32 × W32 := pAdd dbl (pMul dbl b (p.carry i j)) (pMul dbl one (y i j))
    let k := fld h 159 144 + 1
    let h1 := setFld h 159 144 k
    if fhRefs h other ≠ 0 then { header := h1, carry := c, copy := none, deferred := true }
    else done (fun i j => pAdd dbl (pMul dbl (pPow dbl b (k - 1)) (p.cur i j)) (c i j)) h1

/-- Zeroes S and STAGED_N (R160, R164). -/
def State.clearFactor (s : State) (ctx : Nat) (f : FactorMap) : State :=
  let a := BitVec.ofNat 64 f.buffer
  let h := s.factorHeader ctx f
  let s1 := s.engineWrite ctx (BitVec.ofNat 64 (f.buffer + 32)) (zeroBytes (fhB h * fhB h * fhElem h)) (coreDie f.ctrCore)
  s1.engineWrite ctx a (leBytes 32 (setFld h 223 192 0).toNat) (coreDie f.ctrCore)

/-- Order 3 of Table 09-3 for one block. -/
def State.commitFactor (s0 : State) (ctx : Nat) (f : FactorMap) : State :=
  let s := s0.sumFactor ctx f
  let a := BitVec.ofNat 64 f.buffer
  let h := s.factorHeader ctx f
  let x := s.getCtx ctx
  let n := fhB h
  let e := fhElem h
  let dbl := e == 8
  let die := coreDie f.ctrCore
  let at_ (k : Nat) : W64 := BitVec.ofNat 64 (f.buffer + 32 + k * (n * n * e))
  let read (k : Nat) : List Byte := (s.engineRead ctx (at_ k) (n * n * e)).data
  let r := factorCommit h (BitVec.ofNat 32 (x.setting 0 (fld h 255 224) 7)) x.stepNo.toNat
    { sum := partAt dbl n (s.factorSum ctx f), cur := partAt dbl n (read (1 + fhCur h)), carry := partAt dbl n (read 3) }
  let s1 := if fld h 223 192 = 0 then s else s.engineWrite ctx (at_ 3) (partBytes dbl n r.carry) die
  let s2 := match r.copy with
    | some y =>
      let s2 := s1.engineWrite ctx (at_ (2 - fhCur h)) (partBytes dbl n y) die
      s2.engineWrite ctx (at_ 4) ((List.range n).flatMap fun i =>
        leBytes 4 (y i i).1.toNat ++ (if dbl then leBytes 4 (y i i).2.toNat else [])) die
    | none => s1
  let s3 := s2.engineWrite ctx a (leBytes 32 r.header.toNat) die
  (if r.deferred then s3.addOd 0x2B00 4 1 else s3).clearFactor ctx f

/-- A root buffer with PENDING set is installed (08 R186). -/
def rootInstall (step : Nat) (h : BitVec 512) : BitVec 512 :=
  if rhPending h then
    let h1 := setFld (setFld (setFld h 259 259 (1 - rhCur h)) 447 384 (fld h 383 320)) 511 448 step
    setFlag (setFlag (setFlag h1 258 true) 257 false) 255 false
  else h

/-- Order 5 of Table 09-3: WORK digests from zero, then every shard's working copy and its digest. -/
def State.deriveWork (s : State) (ctx : Nat) : State :=
  let x := s.getCtx ctx
  let s0 : State := (List.range x.dSlots).foldl (fun s k => s.setDigest ctx k 2 0) s
  x.shards.foldl (fun s m =>
    let h := s.shardHeader m
    let fmt := x.workFmt h
    let tile := s.workTile h m fmt (shCur h)
    let s1 := s.writeWork m fmt tile
    match s.digestSlot ctx (shTid h) with
    | some k => s1.addDigest ctx k 2 (shardDigest m (shTid h) fmt tile)
    | none => s1) s0

/-- Orders 2 to 5 of a commit. -/
def State.commitLayers (s : State) (ctx : Nat) (map : CommitMap) : State :=
  let step := (s.getCtx ctx).stepNo.toNat
  let s1 : State := (s.getCtx ctx).shards.foldl (fun s m => s.settleShard ctx true m) s
  let s2 : State := map.amaxes.foldl (fun s a => s.amaxCommit ctx a) s1
  let s3 : State := map.factors.foldl (fun s f => s.commitFactor ctx f) s2
  let s4 : State := map.roots.foldl (fun s r => s.setRootHdr ctx (BitVec.ofNat 64 r) (rootInstall step)) s3
  s4.deriveWork ctx

/-- The counts of the factor blocks, decremented after the commit or discard (07 R160). -/
def State.factorsDone (s : State) (map : CommitMap) : State :=
  map.factors.foldl (fun s f => s.ctrSub f.ctrCore f.ctrNum.toNat f.count.toNat) s

/-- The end of a step: the step number advances but for a REPLAY, and no step runs (R201, R202). -/
def Ctx.stepDone (x : Ctx) (outcome : Nat) : Ctx :=
  { x with
    stepNo := if outcome = 3 then x.stepNo else x.stepNo + 1,
    lastCommit := if outcome = 1 then x.stepNo else x.lastCommit,
    stepRun := false, phase2 := none, phase2Map := none, shards := [], wAmax := [], lrMult := none, summed := [], ortho := [],
    voted := false, rederived := false }

/-- What a discarded or replayed step leaves (R202, 06 R142, 07 R164): STAGED clear, S and STAGED_N zero, and the gradient sum regions that
no phase 1 has zeroed. -/
def State.dropLayers (s : State) (ctx : Nat) (map : CommitMap) : State :=
  let done := (s.getCtx ctx).shards.map fun m => m.grad
  let s1 : State := (s.getCtx ctx).shards.foldl (fun s m => s.settleShard ctx false m) s
  let s2 : State := map.factors.foldl (fun s f => s.clearFactor ctx f) s1
  map.grads.foldl (fun s g => if done.contains g.1 then s else s.longWrite g.1 (zeroBytes g.2)) s2

/-- Remembers the structures of a context's mapping (01 R30). -/
def Ctx.knowMap (x : Ctx) (map : CommitMap) : Ctx :=
  let x1 := map.factors.foldl (fun x f => x.know 1 (BitVec.ofNat 64 f.buffer) (f.ctrCore.val / 8)) x
  map.roots.foldl (fun x r => x.know 2 (BitVec.ofNat 64 r) 64) x1

/-- Phase 2 ends: it waits for the contributions of its factor blocks (07 R160), for running exports (R204), and for a ladder that holds a
page of its shards (10 R243). -/
def execPhase2Complete (ctx : Fin 16) (s : State) : Out :=
  let x := s.getCtx ctx
  match x.phase2, x.phase2Map with
  | some o, some map =>
    if map.factors.all s.factorIn ∧ ¬ s.exportRuns ctx ∧ ¬ x.shards.any s.shardHeld then
      let s1 := if o = 1 then s.commitLayers ctx map else s.dropLayers ctx map
      .next ((s1.factorsDone map).modCtx ctx fun x => (x.knowMap map).stepDone o)
    else .next s
  | _, _ => .next s

end Sys2Proof.Machine
end

