-- ==== Sys2Proof/Machine/Shutter.lean ====
section
/-!
DEFINITION. The sources of a Shutter cut that are commands of their own: the Shutter register (15 R353, Table 15-10)
and the pin SHUTTER_IN_N (R354), and the release of SHUTTER_OUT_N (R358).
-/

namespace Sys2Proof.Machine

/-! The Shutter register -/
def shSweep (w : W128) : Nat := fld w 127 64
def shContexts (w : W128) : Nat := fld w 63 48
def shState (w : W128) : Nat := fld w 3 2
def shCancel (w : W128) : Bool := flag w 1
def shArm (w : W128) : Bool := flag w 0

/-- The status of a write of the Shutter register; a reserved bit set is refused (00 R7). -/
def State.shutterCheck (s : State) (o : Origin) (w : W128) : Nat :=
  if originIsCore o then stDenied
  else if fld w 47 4 ≠ 0 then stAccess
  else if shArm w then s.pointStatus (shSweep w, 0)
  else stOk

/-- Takes an ARMED request back (R353). -/
def State.shutterDrop (s : State) : State :=
  match s.armedCut with
  | some c => { s with cuts := s.cuts.erase c, armedCut := none, shutter := setFld s.shutter 3 2 0 }
  | none => s

/-- An accepted write: CANCEL, then the fields, then ARM. -/
def State.shutterWrite (s : State) (w : W128) : State :=
  let s1 := if shCancel w ∨ shArm w then s.shutterDrop else s
  let v := setFld (setFld w 3 2 (shState s1.shutter)) 1 0 0
  if shArm w then
    let c : Cut := ⟨s1.time.boundaries + (shSweep w - s1.time.sweep), BitVec.ofNat 16 (shContexts w), cutRegister⟩
    { s1 with shutter := setFld v 3 2 1, cuts := s1.cuts ++ [c], armedCut := some c }
  else { s1 with shutter := v }

def execShutterArm (o : Origin) (w : BitVec 128) (s : State) : Out :=
  .next (s.structWrite o (s.shutterCheck o w) fun s => s.shutterWrite w)
def execShutterCancel (o : Origin) (w : BitVec 128) (s : State) : Out :=
  .next (s.structWrite o (s.shutterCheck o w) fun s => s.shutterWrite w)

/-! SHUTTER_IN_N (R354) and SHUTTER_OUT_N (R358) -/

/-- The sample in tick 1,000 of a sweep. -/
def execShutterInSample (asserted : Bool) (s : State) : Out :=
  if s.time.tick = 1000 then
    let s1 : State := { s with power := { s.power with shutterIn := asserted } }
    .next (if asserted then s1.cutNext (s1.activeMask &&& s1.od 0x2700 6) cutPin else s1)
  else .next s

/-- A write of OUT_CLEAR. -/
def State.writeOutClear (s : State) (v : Nat) : State :=
  if v > 1 then s.abort abRange
  else
    let s1 : State := if v = 1 then { s with power := { s.power with shutterOut := false } } else s
    s1.abort 0

def execOutClear (v : BitVec 8) (s : State) : Out := .next (s.ownRow 0x270008 1 v.toNat fun s => s.writeOutClear v.toNat)

end Sys2Proof.Machine
end

