-- ==== Sys2Proof/Machine/Control.lean ====
section
/-!
DEFINITION. The control space: which structure each offset belongs to, and its reads and writes (03 R80 to R82, 08 R172,
09 R210, 10 R228, R237, 11 R253, R260, R272, 12 R290, R291, R296, 13 R299, 14 R311, R322, 15 R340, R347, R353, 17 R378, R382,
R387, R392, R398, 18 R414).

A structure has a kind (a number below), an index, its base offset and its length in bytes.
-/

namespace Sys2Proof.Machine

/-- One structure of the control space. -/
structure CtlUnit where
  kind : Nat
  index : Nat
  base : Nat
  len : Nat
  deriving DecidableEq, Repr

/-- Entry `off / len` of an array of `n` structures of `len` bytes that starts at `base`. -/
def ctlArray (kind base n len off : Nat) : Option CtlUnit :=
  if base ≤ off ∧ off < base + n * len then some ⟨kind, (off - base) / len, base + (off - base) / len * len, len⟩ else none

/-- The register of a bank: `n` banks of `size` bytes; the register starts at `at_` in each and has `len` bytes. -/
def ctlReg (kind base n size at_ len off : Nat) : Option CtlUnit :=
  let b := (off - base) / size
  if base ≤ off ∧ off < base + n * size ∧ at_ ≤ (off - base) % size ∧ (off - base) % size < at_ + len then
    some ⟨kind, b, base + b * size + at_, len⟩ else none

/-- The structures, kinds 0 to 37. -/
def ctlUnits (off : Nat) : List (Option CtlUnit) :=
  [ctlArray 0 0x08000000 512 0x20000 off,
   ctlReg 1 0x0C000000 64 0x1000 0 128 off,
   ctlReg 2 0x0D000000 8 0x1000 0 64 off,
   ctlReg 3 0x0D008000 8 0x1000 0 64 off,
   ctlArray 4 0x0E000000 4096 32 off,
   ctlReg 5 0x0E100000 16 0x100 0 8 off,
   ctlReg 6 0x0E100000 16 0x100 8 8 off,
   ctlArray 7 0x0F000000 65536 16 off,
   ctlArray 8 0x0F100000 65536 16 off,
   ctlArray 9 0x0F200000 16384 32 off,
   ctlArray 10 0x0F300000 49152 4 off,
   ctlArray 11 0x0F400000 256 64 off,
   ctlArray 12 0x0F480000 256 8 off,
   ctlReg 13 0x0F500000 16 0x40 0 8 off,
   ctlReg 14 0x0F500000 16 0x40 8 8 off,
   ctlReg 15 0x0F500000 16 0x40 0x10 32 off,
   ctlArray 16 0x0F600000 16 128 off,
   ctlReg 17 0x0F700000 16 0x200 0 64 off,
   ctlReg 18 0x0F700000 16 0x200 0x40 16 off,
   ctlReg 19 0x0F700000 16 0x200 0x50 16 off,
   ctlReg 20 0x0F700000 16 0x200 0x60 16 off,
   ctlReg 21 0x0F700000 16 0x200 0x70 16 off,
   ctlReg 22 0x0F700000 16 0x200 0x80 8 off,
   ctlReg 23 0x0F700000 16 0x200 0x88 8 off,
   ctlReg 24 0x0F700000 16 0x200 0x90 16 off,
   ctlReg 25 0x0F700000 16 0x200 0xA0 8 off,
   ctlReg 26 0x0F700000 16 0x200 0xA8 8 off,
   ctlArray 27 0x0F800000 16 64 off,
   ctlArray 28 0x0F900000 32768 4 off,
   ctlArray 29 0x0F940000 49152 2 off,
   ctlArray 30 0x0FA00000 1 16 off,
   ctlArray 31 0x0FB00000 64 64 off,
   ctlArray 32 0x0FC00000 64 64 off,
   ctlArray 33 0x0FD00000 4096 32 off,
   ctlArray 34 0x0FD20000 256 16 off,
   ctlArray 35 0x0FE00000 1 0x18 off,
   ctlReg 36 0x0FE00000 1 0x200 0x100 0x100 off,
   ctlArray 37 0x0FF00000 4096 256 off]

/-- The structure that an offset belongs to. -/
def ctlUnit (off : Nat) : Option CtlUnit := (ctlUnits off).findSome? id

/-! Core control banks (03 R80). The shadow bank is laid out as the counters are, 0x400 above them (17 R378; log 40). -/

/-- The counters of Table 17-1 by their offset in the bank. -/
def counterOffsets : List Nat :=
  (List.range 19).map (fun k => 0x400 + 8 * k) ++ (List.range 32).map (fun k => 0x4A0 + 8 * k)

/-- Whether an 8-byte word of a bank is listed. -/
def bankWord (w : Nat) : Bool :=
  [0, 8, 0x10, 0x20, 0x28, 0x30].contains w || decide (0x100 ≤ w ∧ w < 0x1C0) || counterOffsets.contains w
    || w == 0x7F8 || decide (0x800 ≤ w) && counterOffsets.contains (w - 0x400) || decide (0x10000 ≤ w)

/-- Whether an access of `n` bytes at offset `w` of one bank keeps R80. -/
def bankAccessOk (w n : Nat) : Bool :=
  decide (w % 8 = 0 ∧ n % 8 = 0 ∧ w + n ≤ 0x20000)
    && (List.range (n / 8)).all (fun k => bankWord (w + 8 * k))
    && (decide (w + n ≤ 0x10000) || decide (w % 16 = 0 ∧ n % 16 = 0))

/-- The value of a listed word of a bank. -/
def State.bankRead (s : State) (core w : Nat) : W64 :=
  let c := s.getCore core
  if w = 0 then BitVec.ofNat 64 (c.entry % 4096 * 2 ^ 16)
  else if w = 8 then BitVec.ofNat 64 (c.pc % 4096 * 2 ^ 32 + runCode c.run)
  else if w = 0x10 then c.faultInfo
  else if w = 0x20 then c.startSweep
  else if w = 0x28 then BitVec.ofNat 64 c.startTick.toNat
  else if w = 0x30 then c.stepNf
  else if w < 0x1C0 then BitVec.ofNat 64 (c.ctrVal ((w - 0x100) / 4) + c.ctrVal ((w - 0x100) / 4 + 1) * 2 ^ 32)
  else if w < 0x7F8 then BitVec.ofNat 64 (tblGet w48z c.counts w).toNat
  else if w = 0x7F8 then c.shadowSweep
  else if w < 0x10000 then BitVec.ofNat 64 (tblGet w48z c.shadow (w - 0x400)).toNat
  else BitVec.ofNat 64 (leNat (rdImem s.imem (core * 65536 + (w - 0x10000)) 8))

/-- The words of a list of bytes, with their offsets from `w`. -/
def wordsAt : Nat → Nat → List Byte → List (Nat × W64)
  | 0, _, _ => []
  | n + 1, w, l => (w, BitVec.ofNat 64 (leNat (l.take 8))) :: wordsAt n (w + 8) (l.drop 8)

/-- The status of one word of a bank write. -/
def State.bankCheck (s : State) (core w : Nat) (v : W64) : Nat :=
  let c := s.getCore core
  if w = 0 then s.startStatus core v
  else if w = 0x28 ∧ fld v 63 11 ≠ 0 then stAccess
  else if 0x10000 ≤ w ∧ (c.run = .armed ∨ c.run = .running) then stAccess
  else stOk

/-- The effect of one word of a bank write; words of read-only registers are ignored. -/
def State.bankWrite (s : State) (core w : Nat) (v : W64) : State :=
  if w = 0 then s.writeCoreCtl core v
  else if w = 0x20 then s.modCore core fun c => { c with startSweep := v }
  else if w = 0x28 then s.modCore core fun c => { c with startTick := BitVec.ofNat 11 v.toNat }
  else if 0x10000 ≤ w then { s with imem := wrImem s.imem (core * 65536 + (w - 0x10000)) (leBytes 8 v.toNat) }
  else s

/-! Structures without a row of their own -/

/-- The digest bank (15 R347, Table 15-5). -/
def State.digestCheck (s : State) (ctx : Nat) (w : BitVec 512) : Nat :=
  if (s.getCtx ctx).stepRun ∨ fld w 294 0 ≠ 0 ∨ fld w 319 315 = 1 ∨ fld w 319 315 > 16 then stAccess else stOk
def State.digestWrite (s : State) (ctx : Nat) (w : BitVec 512) : State := s.modCtx ctx fun x => { x with digest := w }

/-- One ORDER_COUNT (15 R340). -/
def State.orderCheck (s : State) (k : Nat) : Nat :=
  match s.ctxOfCore (k / 64) with
  | some c => if (s.getCtx c).stepRun then stAccess else stOk
  | none => stOk

/-- The rank table concerns every context (log 39). -/
def State.rankCheck (s : State) : Nat := if (List.range 16).any fun c => (s.getCtx c).stepRun then stAccess else stOk

/-! The mailbox (18 R414) -/

/-- A word of REQUEST, CONTROL or DATA. -/
def State.mailWord (s : State) (off : Nat) : W64 :=
  if off = 0 then BitVec.ofNat 64 (fld s.dict.mbReq 63 16 * 2 ^ 16)
  else if off < 0x10 then BitVec.ofNat 64 (fld s.dict.mbReq (8 * off + 63) (8 * off))
  else if off = 0x10 then BitVec.ofNat 64 ((if s.dict.mbBusy then 1 else 0) + (if s.dict.mbDone then 2 else 0))
  else BitVec.ofNat 64 (rdLe s.dict.mbData (off - 0x100) 8)

/-- The request that the mailbox holds. -/
def State.mailRequest (s : State) : DictReq :=
  let w := s.dict.mbReq
  { path := 0, src := 0, tag := BitVec.ofNat 32 (fld w 127 96), op := BitVec.ofNat 8 (fld w 39 32),
    index := BitVec.ofNat 16 (fld w 63 48), sub := BitVec.ofNat 8 (fld w 47 40), length := BitVec.ofNat 16 (fld w 31 16),
    rsv := BitVec.ofNat 16 (fld w 15 0), data := rdBytes s.dict.mbData 0 (Nat.min 256 (fld w 31 16)) }

def mailCheck (o : Origin) (off : Nat) (w : W64) : Nat :=
  if originIsCore o then stDenied else if off = 0x10 ∧ fld w 63 3 ≠ 0 then stAccess else stOk

/-- A write of a word: ABORT is read-only; REQUEST, DATA and GO are ignored while BUSY is set. -/
def State.mailWrite (s : State) (off : Nat) (w : W64) : State :=
  let d := s.dict
  if off = 0x10 then
    let d1 := if flag w 1 then { d with mbDone := false } else d
    if flag w 2 ∧ ¬ d.mbBusy then
      { s with dict := { d1 with mbBusy := true, queue := d1.queue ++ [s.mailRequest] } }
    else { s with dict := d1 }
  else if d.mbBusy then s
  else if off = 0 then { s with dict := { d with mbReq := setFld d.mbReq 63 0 w.toNat } }
  else if off = 8 then { s with dict := { d with mbReq := setFld d.mbReq 127 96 (fld w 63 32) } }
  else { s with dict := { d with mbData := wrBytes d.mbData (off - 0x100) (leBytes 8 w.toNat) } }

def execMailboxGo (o : Origin) (w : BitVec 64) (s : State) : Out :=
  .next (s.structWrite o (mailCheck o 0x10 w) fun s => s.mailWrite 0x10 w)
def execMailboxDoneClear (o : Origin) (w : BitVec 64) (s : State) : Out :=
  .next (s.structWrite o (mailCheck o 0x10 w) fun s => s.mailWrite 0x10 w)

/-! Writes -/

/-- Kinds that take several entries in one write. -/
def ctlMany (kind : Nat) : Bool := [10, 28, 29].contains kind

/-- Kinds whose words are written one by one. -/
def ctlWords (kind : Nat) : Bool := [0, 13, 14, 15, 35, 36].contains kind

/-- The status of a write of one whole structure. -/
def State.unitCheck (s : State) (o : Origin) (u : CtlUnit) (d : List Byte) : Nat :=
  let v := leNat d
  let i := u.index
  match u.kind with
  | 1 => s.solverCheck i d
  | 2 => s.shardCheck i d
  | 3 => s.prismCheck i d
  | 4 => s.regionCheck i (BitVec.ofNat 256 v)
  | 5 => s.schedBaseCheck i
  | 6 => s.schedCheck i (BitVec.ofNat 64 v)
  | 7 => s.bindingCheck o i (BitVec.ofNat 128 v)
  | 9 => s.groupCheck i (BitVec.ofNat 256 v)
  | 10 => routeCheck (BitVec.ofNat 32 v)
  | 11 => s.barrierCheck i (BitVec.ofNat 512 v)
  | 12 => s.voteCheck i (BitVec.ofNat 64 v)
  | 16 => s.stageCheck i (BitVec.ofNat 1024 v)
  | 17 => s.descCheck i (BitVec.ofNat 512 v)
  | 18 => s.slotCheck i (BitVec.ofNat 128 v)
  | 19 => s.slotCheck i (BitVec.ofNat 128 v)
  | 20 => s.slotCheck i (BitVec.ofNat 128 v)
  | 21 => s.slotCheck i (BitVec.ofNat 128 v)
  | 23 => s.releaseCheck i (BitVec.ofNat 64 v)
  | 24 => s.switchCheck i (BitVec.ofNat 128 v)
  | 25 => ringBaseCheck (BitVec.ofNat 64 v)
  | 27 => s.digestCheck i (BitVec.ofNat 512 v)
  | 28 => s.orderCheck i
  | 29 => s.rankCheck
  | 30 => s.shutterCheck o (BitVec.ofNat 128 v)
  | 31 => s.traceCheck i (BitVec.ofNat 512 v)
  | 32 => s.watchCheck i (BitVec.ofNat 512 v)
  | 33 => s.chanCheck i (BitVec.ofNat 256 v)
  | 34 => s.windowCheck i (BitVec.ofNat 128 v)
  | 8 => stOk
  | 37 => stOk
  | _ => stAccess

/-- The effect of an accepted write of one whole structure; queue status and live channels are read-only. -/
def State.unitWrite (s : State) (o : Origin) (u : CtlUnit) (d : List Byte) : State :=
  let v := leNat d
  let i := u.index
  match u.kind with
  | 1 => s.solverWrite i d
  | 2 => s.shardWrite o i d
  | 3 => s.prismWrite i d
  | 4 => s.regionWrite i (BitVec.ofNat 256 v)
  | 5 => s.schedBaseWrite i (BitVec.ofNat 64 v)
  | 6 => s.schedWrite i (BitVec.ofNat 64 v)
  | 7 => s.bindingWrite i (BitVec.ofNat 128 v)
  | 9 => s.groupWrite i (BitVec.ofNat 256 v)
  | 10 => s.routeWrite i (BitVec.ofNat 32 v)
  | 11 => s.barrierWrite i (BitVec.ofNat 512 v)
  | 12 => s.voteWrite i (BitVec.ofNat 64 v)
  | 16 => s.stageWrite i (BitVec.ofNat 1024 v)
  | 17 => s.descWrite i (BitVec.ofNat 512 v)
  | 18 => s.slotWrite i 0 (BitVec.ofNat 128 v)
  | 19 => s.slotWrite i 1 (BitVec.ofNat 128 v)
  | 20 => s.slotWrite i 2 (BitVec.ofNat 128 v)
  | 21 => s.slotWrite i 3 (BitVec.ofNat 128 v)
  | 23 => s.releaseWrite i (BitVec.ofNat 64 v)
  | 24 => s.switchWrite i (BitVec.ofNat 128 v)
  | 25 => s.ringBaseWrite i (BitVec.ofNat 64 v)
  | 27 => s.digestWrite i (BitVec.ofNat 512 v)
  | 28 => { s with orderCount := tblSet w32z s.orderCount i (BitVec.ofNat 32 v) }
  | 29 => { s with ranks := tblSet rank0 s.ranks i (BitVec.ofNat 16 v) }
  | 30 => s.shutterWrite (BitVec.ofNat 128 v)
  | 31 => s.traceWrite i (BitVec.ofNat 512 v)
  | 32 => s.watchWrite i (BitVec.ofNat 512 v)
  | 33 => s.chanWrite i (BitVec.ofNat 256 v)
  | 34 => s.windowWrite i (BitVec.ofNat 128 v)
  | _ => s

/-- The status of one word of a kind whose words are written one by one. -/
def State.wordCheck (s : State) (o : Origin) (u : CtlUnit) (off : Nat) (v : W64) : Nat :=
  match u.kind with
  | 0 => s.bankCheck u.index (off - u.base) v
  | 13 => dumpAddrCheck v
  | 14 => dumpCtlCheck v
  | 35 => mailCheck o (off - 0x0FE00000) v
  | 36 => mailCheck o (off - 0x0FE00000) v
  | _ => stOk

def State.wordWrite (s : State) (u : CtlUnit) (off : Nat) (v : W64) : State :=
  match u.kind with
  | 0 => s.bankWrite u.index (off - u.base) v
  | 13 => s.dumpAddrWrite u.index v
  | 14 => s.dumpCtlWrite u.index v
  | 35 => s.mailWrite (off - 0x0FE00000) v
  | 36 => s.mailWrite (off - 0x0FE00000) v
  | _ => s

/-- What refusals count besides their status: the switch refusals of 14 R319 and the host regions of 17 R382. -/
def State.ctlCounts (s : State) (u : CtlUnit) (d : List Byte) : State :=
  if u.kind = 24 ∧ s.noSlot u.index (BitVec.ofNat 128 (leNat d)) then s.addOd 0x2600 8 1
  else if u.kind = 31 then s.traceDenial u.index (BitVec.ofNat 512 (leNat d))
  else s

/-- Pieces of `len` bytes. -/
def piecesOf (len : Nat) : Nat → List Byte → List (List Byte)
  | 0, _ => []
  | n + 1, l => l.take len :: piecesOf len n (l.drop len)

/-- A write of whole entries of a table. -/
def State.ctlEntries (s : State) (o : Origin) (u : CtlUnit) (d : List Byte) : State × Nat :=
  let n := d.length / u.len
  let es := (List.range n).zip (piecesOf u.len n d)
  let unit (k : Nat) : Option CtlUnit := ctlUnit (u.base + k * u.len)
  if d.length % u.len ≠ 0 ∨ es.any (fun e => (unit e.1).all fun v => v.kind != u.kind) then (s, stAccess)
  else match es.findSome? fun e => (unit e.1).bind fun v =>
      let st := s.unitCheck o v e.2
      if st = stOk then none else some st with
    | some st => (s, st)
    | none => (es.foldl (fun s e => match unit e.1 with
        | some v => s.unitWrite o v e.2
        | none => s) s, stOk)

/-- A write of words one by one: every word is checked before the first takes effect. -/
def State.ctlWordWrites (s : State) (o : Origin) (off : Nat) (d : List Byte) : State × Nat :=
  let ws := wordsAt (d.length / 8) off d
  if off % 8 ≠ 0 ∨ d.length % 8 ≠ 0 ∨ ws.any (fun w => (ctlUnit w.1).all fun u => !ctlWords u.kind) then (s, stAccess)
  else match ws.findSome? fun w => (ctlUnit w.1).bind fun u =>
      let st := s.wordCheck o u w.1 w.2
      if st = stOk then none else some st with
    | some st => (s, st)
    | none => (ws.foldl (fun s w => match ctlUnit w.1 with
        | some u => s.wordWrite u w.1 w.2
        | none => s) s, stOk)

/-- A write of `d` at a control-space offset: its status, and the state after it. A length of zero writes nothing
(03 R78). -/
def State.ctlWrite (s : State) (o : Origin) (off : Nat) (d : List Byte) : State × Nat :=
  if d.isEmpty then (s, stOk)
  else match ctlUnit off with
    | none => (s, stAccess)
    | some u =>
      if u.kind = 0 then
        if bankAccessOk (off - u.base) d.length then s.ctlWordWrites o off d else (s, stAccess)
      else if ctlWords u.kind then s.ctlWordWrites o off d
      else if u.kind = 17 ∧ o = .host ∧ s.frozen u.index then (s.tdiError u.index, stDenied)
      else if off ≠ u.base then (s, stAccess)
      else if ctlMany u.kind then s.ctlEntries o u d
      else if d.length ≠ u.len then (s, if (u.kind = 30 ∨ u.kind = 35) ∧ originIsCore o then stDenied else stAccess)
      else
        let s1 := s.ctlCounts u d
        let st := s.unitCheck o u d
        if st = stOk then (s1.unitWrite o u d, stOk) else (s1, st)

/-! Reads -/

/-- The bytes of a structure; none where it is not readable. -/
def State.unitRead (s : State) (u : CtlUnit) : Option (List Byte) :=
  let i := u.index
  let x := s.getCtx i
  let of (n : Nat) : Option (List Byte) := some (leBytes u.len n)
  match u.kind with
  | 4 => of (s.region i).toNat
  | 5 => of x.schedBase.toNat
  | 6 => of x.schedCount.toNat
  | 7 => of (s.binding i).toNat
  | 8 => of (tblGet w128z s.qstatus i).toNat
  | 9 => of (s.group i).toNat
  | 10 => of (s.route i).toNat
  | 11 => of (s.barrier i).toNat
  | 12 => of (barVoteIn (s.barrier i))
  | 13 => of x.dumpAddr.toNat
  | 14 => of (if x.dumpReady then 1 else 0)
  | 15 => of ((List.range 7).foldl (fun n k => n + (tblGet w32z x.syncCounts k).toNat * 2 ^ (32 * k)) 0)
  | 16 => of x.stage.toNat
  | 17 => of x.desc.toNat
  | 18 => of (x.getSlot 0).toNat
  | 19 => of (x.getSlot 1).toNat
  | 20 => of (x.getSlot 2).toNat
  | 21 => of (x.getSlot 3).toNat
  | 24 => of x.switch.toNat
  | 25 => of x.ringBase.toNat
  | 27 => of x.digest.toNat
  | 28 => of (tblGet w32z s.orderCount i).toNat
  | 29 => of (tblGet rank0 s.ranks i).toNat
  | 30 => of s.shutter.toNat
  | 31 => of (s.getCluster i).traceBank.toNat
  | 32 => of (s.watch i).toNat
  | 33 => of (s.getChan i).defn.toNat
  | 34 => of (s.window i).toNat
  | 35 => some ((List.range 3).flatMap fun k => leBytes 8 (s.mailWord (8 * k)).toNat)
  | 36 => some ((List.range 32).flatMap fun k => leBytes 8 (s.mailWord (0x100 + 8 * k)).toNat)
  | 37 => of ((s.getChan i).record i (s.getChan i).seq 0 false).toNat
  | _ => none

/-- One byte of a readable structure. -/
def State.ctlByte (s : State) (off : Nat) : Option Byte :=
  match ctlUnit off with
  | some u =>
    if u.kind = 0 then
      let w := (off - u.base) / 8 * 8
      if bankWord w then some (BitVec.ofNat 8 ((s.bankRead u.index w).toNat / 256 ^ (off % 8))) else none
    else (s.unitRead u).map fun l => l.getD (off - u.base) 0
  | none => none

/-- A read of `n` bytes at a control-space offset: its status, its bytes, and the state after it (ACQUIRE and RING_CLAIM
have an effect). -/
def State.ctlRead (s : State) (o : Origin) (off n : Nat) : State × Nat × List Byte :=
  if n = 0 then (s, stOk, [])
  else match ctlUnit off with
    | none => (s, stAccess, [])
    | some u =>
      if u.kind = 22 ∨ u.kind = 26 then
        if off ≠ u.base ∨ n ≠ 8 then (s, stAccess, [])
        else
          let st := if u.kind = 26 then s.ringCheck u.index else stOk
          if st ≠ stOk then (s, st, [])
          else
            let r := if u.kind = 22 then s.acquireRead u.index else s.ringRead u.index
            (r.1, stOk, leBytes 8 r.2.toNat)
      else if (u.kind = 35 ∨ u.kind = 36) ∧ originIsCore o then (s, stDenied, [])
      else if u.kind = 0 ∧ ¬ bankAccessOk (off - u.base) n then (s, stAccess, [])
      else
        let l := (List.range n).map fun k => s.ctlByte (off + k)
        if l.all Option.isSome then (s, stOk, l.map fun b => b.getD 0) else (s, stAccess, [])

end Sys2Proof.Machine
end

