-- ==== Sys2Proof/Machine/Deliver.lean ====
section
/-!
DEFINITION. What happens at the target of an operation and on the way back (11 R267 to R279, 15 R340 to R342): the checks, the
writes, reads and additions, multicast relays, and the frames PUT, GET_REQ, GET_DATA, ADD, SIGNAL, ACK, NACK and MGMT, and the beats
of operations inside the package.
-/

namespace Sys2Proof.Machine

/-! The checks at a target (R268) -/

/-- Whether other modules may reach a core's stores: its context's bit of 2510h sub 08h, and no cut that has drained
(15 Table 15-11). -/
def State.storeOpen (s : State) (core : Nat) : Bool :=
  match s.ctxOfCore core with
  | some c => (s.od 0x2510 8).testBit c && !s.ctxClosed c
  | none => false

/-- An access: whose it is, where it goes, and which bytes of its operation it carries. -/
structure Access where
  remote : Option Nat     -- the module it comes from; none for an access of this module
  who : Who
  tc : Nat
  write : Bool
  addr : Nat              -- space and offset of the operation's first byte
  pos : Nat               -- bytes of the operation before this access
  len : Nat
  total : Nat             -- bytes of the whole operation at this target
  side : Bool
  op : Option (Nat × Nat) -- source and message of the write that a frame carries a part of
  deriving DecidableEq, Repr

/-- The bytes of the long range that an access touches. -/
def Access.range (a : Access) : Nat × Nat :=
  if a.side then streamRange (a.addr % 2 ^ 44) a.pos a.len else (a.addr % 2 ^ 44 + a.pos, a.len)

/-- Bytes from the operation's first byte to its last: its pages and its store range are checked as a whole, so that an
operation of which any byte fails transfers nothing (01 R28, 10 R231; log 120). -/
def Access.span (a : Access) : Nat := Nat.max a.total (a.pos + a.len)

/-- The bytes of the long range that the operation names. -/
def Access.wholeRange (a : Access) : Nat × Nat :=
  if a.side then streamRange (a.addr % 2 ^ 44) 0 a.span else (a.addr % 2 ^ 44, a.span)

/-- The status of an access by items 2 to 6 of R268. A length of zero meets no range check (03 R78). -/
def State.accessStatus (s : State) (a : Access) : Nat :=
  let off := a.addr % 2 ^ 44
  let sp := a.addr / 2 ^ 44
  if sp ≥ 3 then stAccess
  else if sp = 2 then
    match a.remote with
    | some m => if a.tc = 3 ∧ s.allowed m then stOk else stDenied
    | none => stOk
  else if sp = 0 then (if a.span = 0 ∨ s.longOk a.who a.write a.wholeRange.1 a.wholeRange.2 then stOk else stAccess)
  else if off / 2 ^ 41 ≠ 0 ∨ (a.span ≠ 0 ∧ ¬ localOk (off % 2 ^ 32) a.span) then stAccess
  else if a.remote.isSome ∧ ¬ s.storeOpen (off / 2 ^ 32 % 512) then stAccess
  else stOk

/-- The page whose ladder holds an access (10 R243). -/
def State.accessHeld (s : State) (a : Access) : Option Nat :=
  if a.addr / 2 ^ 44 = 0 then s.heldAt a.range.1 a.range.2 else none

/-- Who makes a control-space access. -/
def Access.origin (a : Access) (core : Nat) : Origin :=
  match a.remote with
  | some m => .remote (BitVec.ofNat 16 m)
  | none => if h : core < 512 then .core ⟨core, h⟩ else if core = 512 then .host else .firmware

/-- Writes the bytes of a checked access; the read-only fields of headers in memory keep their values (00 R8), and a control-space structure
has a status of its own. -/
def State.accessWrite (s : State) (a : Access) (core : Nat) (d : List Byte) : State × Nat :=
  let off := a.addr % 2 ^ 44
  let sp := a.addr / 2 ^ 44
  if sp = 0 then (s.keepHeaders (if a.side then s.longWriteStream off a.pos d a.op else s.longWrite (off + a.pos) d a.op), stOk)
  else if sp = 1 then (s.wrLocal (off / 2 ^ 32 % 512) (off % 2 ^ 32 + a.pos) d, stOk)
  else s.ctlWrite (a.origin core) (off + a.pos) d

/-- The region whose unmapping a write of its descriptor begins: the write is answered when the unmapping completes (10 R230). -/
def State.unmapBy (s : State) (a : Access) (d : List Byte) : Option Nat :=
  if a.addr / 2 ^ 44 ≠ 2 then none
  else match ctlUnit (a.addr % 2 ^ 44 + a.pos) with
    | some u =>
      if u.kind = 4 ∧ a.addr % 2 ^ 44 + a.pos = u.base ∧ d.length = u.len ∧ s.regionCheck u.index (BitVec.ofNat 256 (leNat d)) = stOk
          ∧ rgValid (s.region u.index) then some u.index else none
    | none => none

/-- A write waits for the unmapping of a region. -/
def State.waitUnmap (s : State) (r : Nat) (h : HeldReq) : State :=
  { s with long := { s.long with unmapWait := s.long.unmapWait ++ [(r, h)] } }

/-- Byte `k` of the pattern of a poisoned read (10 R245). -/
def poisonAt (side : Bool) (k : Nat) : Byte := if side && sideStream k then 0xFF else poisonByte k

/-- Reads the bytes of a checked access, with its status. -/
def State.accessRead (s : State) (a : Access) (core : Nat) : State × Nat × List Byte :=
  let off := a.addr % 2 ^ 44
  let sp := a.addr / 2 ^ 44
  if sp = 0 then
    let s1 := s.touchRange false a.range.1 a.range.2
    if s.readPoison a.range.1 a.range.2 then
      (s1, stPoison, (List.range a.len).map fun k => poisonAt a.side (a.pos + k))
    else (s1, stOk, if a.side then s.rdStream off a.pos a.len else s.rdLong (off + a.pos) a.len)
  else if sp = 1 then (s, stOk, s.rdLocal (off / 2 ^ 32 % 512) (off % 2 ^ 32 + a.pos) a.len)
  else s.ctlRead (a.origin core) (off + a.pos) a.len

/-! Additions (R269) -/

/-- The sum of two elements of a format. -/
def addElement (fmt : Nat) (a b : Nat) : Nat :=
  if fmt = 0x10 then (a + b) % 2 ^ 32
  else if fmt = 2 then
    encodeF bf16 .rne (v32 (add32 (BitVec.ofNat 32 (a * 2 ^ 16)) (BitVec.ofNat 32 (b * 2 ^ 16))))
  else (add32 (BitVec.ofNat 32 a) (BitVec.ofNat 32 b)).toNat

/-- Whether an element is not finite. -/
def badElement (fmt : Nat) (v : Nat) : Bool :=
  if fmt = 0x10 then false else nf32 (BitVec.ofNat 32 (if fmt = 2 then v * 2 ^ 16 else v))

/-- Element bytes added to what memory holds: the sums, and how many of them are not finite. -/
def addList (fmt e : Nat) : Nat → List Byte → List Byte → List Byte × Nat
  | 0, _, _ => ([], 0)
  | n + 1, m, d =>
    let v := addElement fmt (leNat (m.take e)) (leNat (d.take e))
    let r := addList fmt e n (m.drop e) (d.drop e)
    (leBytes e v ++ r.1, r.2 + (if badElement fmt v then 1 else 0))

/-- Elements of a payload that are not finite. -/
def badCount (fmt e : Nat) : Nat → List Byte → Nat
  | 0, _ => 0
  | n + 1, d => badCount fmt e n (d.drop e) + (if badElement fmt (leNat (d.take e)) then 1 else 0)

/-- Whether an addition lands in the store of a reduce-scatter's owner (06 Table 06-3, source 0x6): its own piece, or an address in
the region or core that a VALID REDUCE entry's DEST_BASE names. -/
def State.reduceTarget (s : State) (addr : Nat) : Bool :=
  s.groups.any fun g => grValid g.2 && grKind g.2 == 2 && grDest g.2 / 2 ^ 44 == addr / 2 ^ 44 &&
    (if addr / 2 ^ 44 = 1 then grDest g.2 / 2 ^ 32 == addr / 2 ^ 32
     else (s.regionOf (grDest g.2 % 2 ^ 44 / 65536)).any fun r => rgHolds r.2 (addr % 2 ^ 44 / 65536))

/-- Records detections at a core, with its PC (06 R147, R148). -/
def State.detect (s : State) (core src n : Nat) : State :=
  if n = 0 then s else s.nonfinite core (s.getCore core).pc src n

/-- Adds a payload at an address; `sigCore` is the core that receives a contribution to the long range. -/
def State.addAt (s : State) (addr fmt sigCore : Nat) (own : Bool) (d : List Byte) : State :=
  let off := addr % 2 ^ 44
  let e := addElem fmt
  let n := d.length / e
  let core := if addr / 2 ^ 44 = 1 then off / 2 ^ 32 % 512 else sigCore
  let s0 := if own || s.reduceTarget addr then s.detect core 6 (badCount fmt e n d) else s
  if addr / 2 ^ 44 = 0 then s0.longWrite off (addList fmt e n (s0.rdLong off d.length) d).1
  else
    let a := off % 2 ^ 32
    let r := addList fmt e n (s0.rdLocal core a d.length) d
    let s1 := s0.wrLocal core a r.1
    if a < 0x140000 then s1.detect core 4 r.2 else s1

/-! Replies, and relays of a multicast (R273, R276) -/

/-- A reply towards a module, formed on the die that served the frame. -/
def State.replyTo (s : State) (f : Frame) (dest st : Nat) : State :=
  s.send (s.replyFrame f dest (if isError st then 6 else 5) st) 65536 (s.frameDie f)

/-- Whether a frame's destination group is one that this module is in (R272). -/
def State.memberOf (s : State) (f : Frame) : Bool := grValid (s.groupOf f.dest) && grKind (s.groupOf f.dest) == 1

/-- The tree neighbours that a multicast frame goes on to: all but the one it came by. -/
def State.onward (s : State) (f : Frame) (via : Nat) : List Nat := (s.treeNeighbours (s.groupOf f.dest)).filter (· != via)

/-- A frame with HOPS zero, as it leaves for a tree neighbour (log 42). -/
def freshHops (f : Frame) : Frame := { f with hdr := setFld f.hdr 13 11 0 }

/-- Answers a frame: a multicast frame is answered once its subtree has answered. -/
def State.settle (s : State) (f : Frame) (via st : Nat) : State :=
  if isGroup f.dest ∧ s.memberOf f then
    let next := s.onward f via
    if next.isEmpty then s.replyTo f via st
    else { s with relays := s.relays ++ [⟨f, via, next.length, st⟩] }
  else if isGroup f.dest then s.replyTo f via st
  else s.replyTo f f.src st

/-- Sends a multicast frame on along the tree. -/
def State.relayOn (s : State) (f : Frame) (via : Nat) : State :=
  if isGroup f.dest ∧ s.memberOf f then (s.onward f via).foldl (fun s m => s.sendVia (freshHops f) 65536 m none) s else s

/-- The access of a frame. -/
def frameAccess (f : Frame) (write : Bool) (len : Nat) : Access :=
  { remote := some f.src, who := .remote, tc := f.tc, write := write, addr := f.addr, pos := f.foffset, len := len,
    total := if f.kind = 4 then 0 else f.total, side := f.sidecar, op := some (f.src, f.msg) }

/-- The status of a frame by R268 and R272, its sweep window apart. -/
def State.frameStatus (s : State) (f : Frame) (write : Bool) (len : Nat) : Nat :=
  if isGroup f.dest ∧ ¬ s.memberOf f then stAccess
  else
    let st := s.accessStatus (frameAccess f write len)
    if st ≠ stOk then st else if (f.sig ∨ f.kind = 4) ∧ f.sigCtr > 47 then stAccess else stOk

/-- Counts a denial of the fabric limits (19 R442). -/
def State.countDenied (s : State) (st : Nat) : State := if st = stDenied then s.denial else s

/-- Bytes of a signalled frame counted as written or refused; the status that answers the frame (R274, R275). -/
def State.frameSignal (s : State) (f : Frame) (written refused st : Nat) : State × Nat :=
  if ¬ f.sig ∨ f.sigCtr > 47 then (s, st)
  else
    let r := s.sigBytes f.src f.msg f.total f.sigCore f.sigCtr f.tc written refused
    (r.1, if r.2 ∧ ¬ isError st then stPendOverflow else st)

/-- Refuses a frame that carries data. -/
def State.refuseFrame (s : State) (f : Frame) (via st : Nat) : State :=
  let r := (s.countDenied st).frameSignal f 0 f.payload.length st
  r.1.settle f via st

/-! PUT (R267, R268) -/

/-- Writes a PUT frame that nothing holds; `rec_` when a ladder served it. -/
def State.putNow (s : State) (f : Frame) (via : Nat) (rec_ : Bool) : State :=
  let st := s.frameStatus f true f.payload.length
  if st ≠ stOk then s.refuseFrame f via st
  else
    let w := s.accessWrite (frameAccess f true f.payload.length) 512 f.payload
    if w.2 ≠ stOk then w.1.refuseFrame f via w.2
    else match s.unmapBy (frameAccess f true f.payload.length) f.payload with
    | some k => w.1.waitUnmap k ⟨some f, via, none, 16, none⟩
    | none =>
      let r := w.1.frameSignal f f.payload.length 0 (if rec_ then stRecovered else stOk)
      r.1.settle f via r.2

/-- A frame outside the sweep window also counts as refused bytes of its operation. -/
def State.putOutside (s : State) (f : Frame) : State := (s.frameSignal f 0 f.payload.length stWindow).1.outsideWindow f

/-- Whether a frame has come to its destination. -/
def State.isHere (s : State) (f : Frame) : Bool := f.dest == s.moduleId || isGroup f.dest

/-- A PUT frame. One that meets a ladder is held (10 R243); one for which there is no ladder or no room waits at its source, and
nothing changes. -/
def execPut (f : Frame) (via : BitVec 16) (hw : HwEvent) (s : State) : Out :=
  if ¬ f.hasKind 0 ∨ ¬ s.isHere f then .next s
  else if ¬ s.inWindow f then .next (s.putOutside f)
  else if s.ladderFull hw then .next s
  else
    let s1 := s.memEvent f.sigCore hw
    match s1.accessHeld (frameAccess f true f.payload.length) with
    | some p =>
      if s1.frameStatus f true f.payload.length ≠ stOk then .next ((s1.relayOn f via.toNat).putNow f via.toNat false)
      else if s1.holdFull p then .next s1
      else .next ((s1.relayOn f via.toNat).holdAt p ⟨some f, via.toNat, none, 16, none⟩)
    | none => .next ((s1.relayOn f via.toNat).putNow f via.toNat false)

/-! GET_REQ and GET_DATA -/

/-- The access of a read request: TOTAL bytes from its address. -/
def getAccess (f : Frame) : Access := { frameAccess f false f.total with pos := 0 }

/-- The access of `n` returned bytes from byte `p`. -/
def Access.part (a : Access) (p n : Nat) : Access := { a with pos := p, len := n }

/-- The status and the bytes of one frame's worth of a read: POISON with the pattern where its own bytes lie in a poisoned
page, RECOVERED where a ladder has just recovered a page of them (R276, 10 R244, R245). -/
def State.readPart (s : State) (a : Access) (recovered : Option Nat) (all : List Byte) : Nat × List Byte :=
  let d := (all.drop a.pos).take a.len
  if a.addr / 2 ^ 44 ≠ 0 then (stOk, d)
  else if s.readPoison a.range.1 a.range.2 then (stPoison, (List.range a.len).map fun k => poisonAt a.side (a.pos + k))
  else
    let d := if a.side then s.rdStream (a.addr % 2 ^ 44) a.pos a.len else s.rdLong (a.addr % 2 ^ 44 + a.pos) a.len
    (if recovered.any fun p => (pagesOf a.range.1 a.range.2).contains p then stRecovered else stOk, d)

/-- Returns bytes in GET_DATA frames, each with the status of its own bytes. -/
def State.returnData (s : State) (f : Frame) (status : Nat → List Byte → Nat × List Byte) (d : List Byte) : State :=
  (framePieces d).foldl (fun s p =>
    let r := status p.1 p.2
    s.send (s.mkFrame f.src 2 f.tc
      { msg := f.msg, addr := f.addr, total := d.length, foffset := p.1, packed := f.packed, sidecar := f.sidecar, fmt := r.1 } r.2)
      65536 (s.frameDie f)) s

/-- Serves a read request; `recovered` is the page that a ladder has recovered for it. -/
def State.getNow (s : State) (f : Frame) (recovered : Option Nat) : State :=
  let st := if isGroup f.dest then stAccess else s.accessStatus (getAccess f)
  if st ≠ stOk then (s.countDenied st).replyTo f f.src st
  else
    let r := s.accessRead (getAccess f) 512
    if r.2.1 ≠ stOk ∧ r.2.1 ≠ stPoison then r.1.replyTo f f.src r.2.1
    else r.1.returnData f (fun p d => s.readPart ((getAccess f).part p d.length) recovered r.2.2) r.2.2

/-- A GET_REQ frame; an XGET on a group is refused (R272, R273). -/
def execGetReq (f : Frame) (hw : HwEvent) (s : State) : Out :=
  if ¬ f.hasKind 1 ∨ ¬ s.isHere f then .next s
  else if ¬ s.inWindow f then .next (s.outsideWindow f)
  else if s.ladderFull hw then .next s
  else
    let s1 := s.memEvent (f.addr % 2 ^ 44 / 2 ^ 32 % 512) hw
    match s1.accessHeld (getAccess f) with
    | some p =>
      if isGroup f.dest ∨ s1.accessStatus (getAccess f) ≠ stOk then .next (s1.getNow f none)
      else .next (s1.holdAt p ⟨some f, f.src, none, 16, none⟩)
    | none => .next (s1.getNow f none)

/-- The operation of this module that a returning frame belongs to. -/
def State.opOf (s : State) (f : Frame) (get : Bool) : Option Xfer :=
  s.ops.find? fun x => x.msg == f.msg && (x.kind == .get) == get && x.awaited != 0 &&
    (gaModule x.gaddr == f.src ||
      (isGroup (gaModule x.gaddr) &&
        (let g := s.groupOf (gaModule x.gaddr)
         if grKind g = 2 then (s.reduceMembers g).contains f.src else (s.treeNeighbours g).contains f.src)))

/-- The bytes that a returned frame writes: a poisoned read writes the pattern into its destination (10 R245). -/
def returnedBytes (x : Xfer) (f : Frame) : List Byte :=
  if f.fmt = stPoison ∧ x.pack = 0 then (List.range f.payload.length).map fun k => poisonAt x.side (f.foffset + k) else f.payload

/-- Returned bytes reach the core that asked, or host memory (20 R453; output). -/
def State.takeReturned (s : State) (x : Xfer) (p : Nat) (ep : Bool) (d : List Byte) : State :=
  if x.core < 512 then s.writeReturned x.core x.laddr x.pack p d
  else if x.core = 512 then { s with host := { s.host with hostOut := d, hostEp := ep } }
  else s

def execGetData (f : Frame) (s : State) : Out :=
  if ¬ f.hasKind 2 then .next s
  else if ¬ s.inWindow f then .next (s.outsideWindow f)
  else match s.opOf f true with
    | none => .next s
    | some x =>
      let s1 := s.takeReturned x f.foffset (f.fmt == stPoison) (returnedBytes x f)
      let y := { x.fold f.fmt with moved := x.moved + f.payload.length }
      .next (s1.setOp (if y.moved ≥ wireLen x.pack x.len then { y with awaited := 0 } else y))

/-! ADD (R269, 15 R340 to R342) -/

/-- ORDER_COUNT of a counter. -/
def State.orderOf (s : State) (core ctr : Nat) : Nat := (tblGet w32z s.orderCount (core * 64 + ctr)).toNat

def StagedAdd.bytes (a : StagedAdd) : Nat := (a.parts.map fun p => p.2.2.2.length).sum
def StagedAdd.whole (a : StagedAdd) : Bool := decide (a.bytes ≥ a.total)
def StagedAdd.hasKey (a : StagedAdd) (core ctr : Nat) : Bool := a.sigCore == core && a.sigCtr == ctr

/-- Bytes of a die's reorder region in use: each staged frame's payload rounded up to 4 KiB (R342). -/
def State.reorderUsed (s : State) (die : Nat) : Nat :=
  ((s.staged.filter fun a => a.sigCore / 64 == die).map fun a => (a.parts.map fun p => roundUp p.2.2.2.length 4096).sum).sum

/-- Whether operation `a` comes before `b`: rank of SRC, logical core, count by serial arithmetic (R340). -/
def State.addBefore (s : State) (a b : StagedAdd) : Bool :=
  let r (x : StagedAdd) : Nat := (tblGet rank0 s.ranks x.src).toNat
  let d := (b.msg % 2 ^ 39 + 2 ^ 39 - a.msg % 2 ^ 39) % 2 ^ 39
  if r a ≠ r b then decide (r a < r b)
  else if a.msg / 2 ^ 39 % 512 ≠ b.msg / 2 ^ 39 % 512 then decide (a.msg / 2 ^ 39 % 512 < b.msg / 2 ^ 39 % 512)
  else decide (d ≠ 0 ∧ d < 2 ^ 38)

/-- Inserts by an order. -/
def insertBy {α : Type} (lt : α → α → Bool) (a : α) : List α → List α
  | [] => [a]
  | b :: l => if lt a b then a :: b :: l else b :: insertBy lt a l

def sortBy {α : Type} (lt : α → α → Bool) (l : List α) : List α := l.foldl (fun m a => insertBy lt a m) []

/-- The traffic class of a staged operation: its frames', or its own queue's. -/
def State.stagedClass (s : State) (a : StagedAdd) : Nat :=
  match a.frames, s.ops.find? fun x => x.msg == a.msg && x.own && x.kind == .add with
  | f :: _, _ => f.1.tc
  | [], some x => bTc (s.binding x.queue)
  | [], none => 1

/-- Applies one operation of a set: its elements in ascending address order, its signal, its acknowledgements; those that a
ladder held carry RECOVERED (10 R244). -/
def State.applyStaged (s : State) (a : StagedAdd) : State :=
  let s1 : State := (sortBy (fun p q => decide (p.2.2.1 < q.2.2.1)) a.parts).foldl
    (fun s p => s.addAt p.1 p.2.1 a.sigCore a.own p.2.2.2) s
  let r := s1.sigBytes a.src a.msg a.total a.sigCore a.sigCtr (s.stagedClass a) a.total 0
  let s2 : State := a.frames.foldl (fun s f => s.replyTo f.1 f.1.src (if r.2 then stPendOverflow else f.2)) r.1
  if a.own then
    match s2.ops.find? fun x => x.msg == a.msg && x.own && x.kind == .add with
    | some x =>
      let y := (x.fold (if r.2 then stPendOverflow else stOk)).fold (if a.recovered then stRecovered else stOk)
      s2.setOp { y with own := false, moved := x.moved + a.total }
    | none => s2
  else s2

/-- Applies a key's set once ORDER_COUNT operations of it are staged in full. -/
def State.applySet (s : State) (core ctr : Nat) : State :=
  let set := s.staged.filter fun a => a.hasKey core ctr && a.whole
  if set.length < s.orderOf core ctr then s
  else
    (sortBy s.addBefore set).foldl State.applyStaged
      { s with staged := s.staged.filter fun a => !(a.hasKey core ctr && a.whole) }

/-- Stages a part of an operation. -/
def State.stagePart (s : State) (new : StagedAdd) : State :=
  let mine (a : StagedAdd) : Bool := a.src == new.src && a.msg == new.msg && a.own == new.own
  let merged := match s.staged.find? mine with
    | some a => { a with parts := a.parts ++ new.parts, frames := a.frames ++ new.frames, recovered := a.recovered || new.recovered }
    | none => new
  ({ s with staged := s.staged.filter (fun a => !mine a) ++ [merged] } : State).applySet new.sigCore new.sigCtr

/-- Whether an address and a payload suit an addition. -/
def addShape (addr fmt n : Nat) : Bool :=
  decide ((fmt = 1 ∨ fmt = 2 ∨ fmt = 0x10) ∧ addr / 2 ^ 44 < 2 ∧ addr % addElem fmt = 0 ∧ n % addElem fmt = 0)

/-- The status of an ADD frame. -/
def State.addStatus (s : State) (f : Frame) : Nat :=
  let st := if isGroup f.dest then stAccess else s.frameStatus f true f.payload.length
  if st ≠ stOk then st
  else if ¬ addShape (f.addr + f.foffset) f.fmt f.payload.length then stAccess
  else if s.collimate ∧ (¬ f.sig ∨ s.orderOf f.sigCore f.sigCtr = 0) then stAccess
  else stOk

/-- Whether a die's reorder region has no room for a payload (R342). -/
def State.reorderFull (s : State) (die n : Nat) : Bool :=
  decide (s.reorderUsed die + roundUp n 4096 > s.od 0x2700 0x18 * 65536)

/-- Stages an ADD frame; `rec_` when a ladder held it. -/
def State.stageFrame (s : State) (f : Frame) (rec_ : Bool) : State :=
  s.stagePart
    { src := f.src, msg := f.msg, sigCore := f.sigCore, sigCtr := f.sigCtr, total := f.total,
      parts := [(f.addr + f.foffset, f.fmt, f.foffset, f.payload)], frames := [(f, if rec_ then stRecovered else stOk)],
      own := false, recovered := rec_ }

/-- Stages the frames that waited and for which there is room now, in arrival order (R342). -/
def State.retryAdds (s : State) : State :=
  s.addWait.foldl (fun s e =>
    if s.reorderFull (e.1.sigCore / 64) e.1.payload.length then { s with addWait := s.addWait ++ [e] } else s.stageFrame e.1 e.2)
    { s with addWait := [] }

/-- Applies or stages an ADD frame. A frame that finds its die's reorder region full waits, and is counted (R342). -/
def State.addNow (s : State) (f : Frame) (rec_ : Bool) : State :=
  let st := s.addStatus f
  if st ≠ stOk then s.refuseFrame f f.src st
  else if s.collimate then
    if s.reorderFull (f.sigCore / 64) f.payload.length then
      ({ s with addWait := s.addWait ++ [(f, rec_)] } : State).addOd 0x2700 0x19 1
    else (s.stageFrame f rec_).retryAdds
  else
    let s1 := s.addAt (f.addr + f.foffset) f.fmt f.sigCore false f.payload
    let r := s1.frameSignal f f.payload.length 0 (if rec_ then stRecovered else stOk)
    r.1.replyTo f f.src r.2

def execAddFrame (f : Frame) (hw : HwEvent) (s : State) : Out :=
  if ¬ f.hasKind 3 ∨ ¬ s.isHere f then .next s
  else if ¬ s.inWindow f then .next (s.putOutside f)
  else if s.ladderFull hw then .next s
  else
    let s1 := s.memEvent f.sigCore hw
    match s1.accessHeld (frameAccess f true f.payload.length) with
    | some p => .next (if s1.addStatus f = stOk then s1.holdAt p ⟨some f, f.src, none, 16, none⟩ else s1.addNow f false)
    | none => .next (s1.addNow f false)

/-! SIGNAL (R270, R279) -/

def State.signalNow (s : State) (f : Frame) (via : Nat) : State :=
  let st := s.frameStatus f true 0
  if st ≠ stOk then (s.countDenied st).settle f via st
  else (s.applySignal f.src f.msg f.sigCore f.sigCtr f.tc f.total).settle f via stOk

def execSignal (f : Frame) (via : BitVec 16) (s : State) : Out :=
  if ¬ f.hasKind 4 ∨ ¬ s.isHere f then .next s
  else if ¬ s.inWindow f then .next (s.outsideWindow f)
  else .next ((s.relayOn f via.toNat).signalNow f via.toNat)

/-! ACK and NACK (R263, R276, R277) -/

/-- Destination bytes of the frame that an answer names. -/
def ackBytes (f : Frame) : Nat := Nat.min 4096 (f.total - f.foffset)

/-- Takes an answer that belongs to an operation. -/
def State.answerOp (s : State) (x : Xfer) (f : Frame) : State :=
  let n := if x.kind = .put ∨ x.kind = .add then ackBytes f else 0
  let s1 : State := { s with qflight := tblUpd nat0 s.qflight x.queue (· - n) }
  let y := x.fold f.fmt
  if x.kind = .get then s1.setOp { y with awaited := 0 }
  else s1.setOp { y with awaited := x.awaited - 1, moved := x.moved + (if isError f.fmt then 0 else n) }

/-- Takes an answer of a relayed frame's subtree. -/
def State.answerRelay (s : State) (r : Relay) (f : Frame) : State :=
  let st := if isError r.status then r.status else if isError f.fmt ∨ f.fmt = stRecovered then f.fmt else r.status
  let rest := s.relays.erase r
  if r.awaited ≤ 1 then ({ s with relays := rest } : State).replyTo r.frame r.via st
  else { s with relays := rest ++ [{ r with awaited := r.awaited - 1, status := st }] }

/-- Takes an ACK or a NACK: of an operation of this module, of a frame that it relayed, or from a transit module that discarded
the operation's frame (R256), which its message ID names. -/
def State.takeAnswer (s : State) (f : Frame) : State :=
  let op := match s.opOf f false with
    | some x => some x
    | none => if isError f.fmt then s.opOf f true else none
  match op with
  | some x => s.answerOp x f
  | none => match s.relays.find? fun r => r.frame.msg == f.msg && r.frame.foffset == f.foffset && r.frame.total == f.total with
    | some r => s.answerRelay r f
    | none =>
      if isError f.fmt then
        match s.ops.find? fun x => x.msg == f.msg && x.awaited != 0 with
        | some x => s.answerOp x f
        | none => s
      else s

def execAck (f : Frame) (s : State) : Out :=
  if ¬ f.hasKind 5 ∨ f.dest ≠ s.moduleId then .next s
  else .next (if s.inWindow f then s.takeAnswer f else s.outsideWindow f)
def execNack (f : Frame) (s : State) : Out :=
  if ¬ f.hasKind 6 ∨ f.dest ≠ s.moduleId then .next s
  else .next (if s.inWindow f then s.takeAnswer f else s.outsideWindow f)

/-! MGMT (18 R415) and reserved kinds (Table 11-4) -/

/-- The request that a MGMT frame carries. -/
def mgmtRequest (f : Frame) : DictReq :=
  let w := BitVec.ofNat 128 (leNat (f.payload.take 16))
  { path := 3, src := BitVec.ofNat 16 f.src, tag := BitVec.ofNat 32 (fld w 127 96), op := BitVec.ofNat 8 (fld w 39 32),
    index := BitVec.ofNat 16 (fld w 63 48), sub := BitVec.ofNat 8 (fld w 47 40), length := BitVec.ofNat 16 (fld w 31 16),
    rsv := BitVec.ofNat 16 (fld w 15 0), data := f.payload.drop 16 }

/-- Whether a payload has the size of its request: the header alone for a read, the data with it for a write or a read
response. -/
def mgmtSizeOk (f : Frame) : Bool :=
  let r := mgmtRequest f
  decide (16 ≤ f.payload.length ∧
    f.payload.length = 16 + (if r.op = 2 ∨ r.op = 3 then r.length.toNat else 0))

def execMgmt (f : Frame) (s : State) : Out :=
  if ¬ f.hasKind 10 ∨ f.dest ≠ s.moduleId then .next s
  else if ¬ s.inWindow f then .next (s.outsideWindow f)
  else if ¬ (f.tc = 3 ∧ s.allowed f.src) then .next (s.denial.reply f 6 stDenied)
  else if ¬ mgmtSizeOk f then .next (s.reply f 6 stAccess)
  else
    let r := mgmtRequest f
    let s1 := s.reply f 5 stOk
    if r.op = 3 ∨ r.op = 4 then .next s1
    else .next { s1 with dict := { s1.dict with queue := s1.dict.queue ++ [r] } }

def execReservedKindDiscard (f : Frame) (s : State) : Out := .next (if f.wf ∧ f.kind ≥ 0xB then s.discard else s)

/-! Operations inside the package (R267, 12 R471) -/

/-- As whom an operation of this module is checked: its core's context, or the context of its host queue (20 R453); a Prism's write of a
generator's copy as that of the region's own context (01 R32). -/
def State.opWho (s : State) (x : Xfer) : Who :=
  if x.core < 512 then .ctx ((s.ctxOfCore x.core).getD 16) else if x.core = 512 then .ctx (x.laddr / 16) else .owner

/-- Bytes of the part inside the package. -/
def Xfer.ownTotal (x : Xfer) : Nat := if x.kind = .get then wireLen x.pack x.len else x.data.length

/-- The access of `n` bytes of the part inside the package, from byte `p`. -/
def State.ownAccess (s : State) (x : Xfer) (p n : Nat) : Access :=
  { remote := none, who := s.opWho x, tc := 0, write := decide (x.kind ≠ .get), addr := x.ownAddr, pos := p, len := n,
    total := if x.kind = .sig then 0 else x.ownTotal, side := x.side, op := none }

/-- Counts bytes of the own part for its signal. -/
def State.ownSignal (s : State) (x : Xfer) (total written refused : Nat) : State × Nat :=
  if ¬ x.sig then (s, stOk)
  else if x.sigCtr > 47 then (s, stAccess)
  else
    let r := s.sigBytes s.moduleId x.msg total x.sigCore x.sigCtr (bTc (s.binding x.queue)) written refused
    (r.1, if r.2 then stPendOverflow else stOk)

/-- Ends the own part with a status. -/
def State.ownDone (s : State) (x : Xfer) (st n : Nat) : State := s.setOp { x.fold st with own := false, moved := x.moved + n }

/-- The own part is refused: nothing more is written. -/
def State.ownRefuse (s : State) (x : Xfer) (st : Nat) : State :=
  let r := s.ownSignal x x.ownTotal 0 (x.ownTotal - x.ownPos)
  (r.1.countDenied st).ownDone x st 0

/-- Whether the own part moves by beats of up to 256 bytes (12 R471): to or from a store. -/
def Xfer.inBeats (x : Xfer) : Bool := decide (x.ownAddr / 2 ^ 44 = 1 ∧ x.kind ≠ .sig)

/-- Bytes that the next beat of the own part moves. -/
def Xfer.beat (x : Xfer) : Nat := if x.inBeats then Nat.min 256 (x.ownTotal - x.ownPos) else x.ownTotal - x.ownPos

/-- The status that an own XPUT or XADD meets at its target. -/
def State.ownStatus (s : State) (x : Xfer) : Nat :=
  if x.sig ∧ x.sigCtr > 47 then stAccess
  else if x.kind = .add ∧ ¬ addShape x.ownAddr x.fmt x.ownTotal then stAccess
  else if x.kind = .add ∧ s.collimate ∧ (¬ x.sig ∨ s.orderOf x.sigCore x.sigCtr = 0) then stAccess
  else s.accessStatus (s.ownAccess x x.ownPos (x.ownTotal - x.ownPos))

/-- The own part of an XPUT or XADD moves: a store takes up to 256 bytes a beat, any other target the whole part. -/
def State.ownPut (s : State) (x : Xfer) (rec_ : Bool) : State :=
  let st := s.ownStatus x
  if s.long.unmapWait.any fun e => e.2.msg == some x.msg then s
  else if st ≠ stOk then s.ownRefuse x st
  else if x.kind = .add ∧ s.collimate then
    if s.staged.any fun a => a.own && a.msg == x.msg then s
    else if s.reorderFull (x.sigCore / 64) x.ownTotal then s.addOd 0x2700 0x19 1
    else (s.stagePart
      { src := s.moduleId, msg := x.msg, sigCore := x.sigCore, sigCtr := x.sigCtr, total := x.ownTotal,
        parts := [(x.ownAddr, x.fmt, 0, x.data)], frames := [], own := true, recovered := rec_ }).retryAdds
  else
    let n := x.beat
    let d := (x.data.drop x.ownPos).take n
    let w := if x.kind = .add then (s.addAt (x.ownAddr + x.ownPos) x.fmt x.sigCore (isGroup (bDest (s.binding x.queue))) d, stOk)
      else s.accessWrite (s.ownAccess x x.ownPos n) x.core d
    if w.2 ≠ stOk then w.1.ownRefuse x w.2
    else match if x.kind = .put then s.unmapBy (s.ownAccess x x.ownPos n) d else none with
    | some k => w.1.waitUnmap k ⟨none, s.moduleId, some x.msg, 16, none⟩
    | none =>
      let r := w.1.ownSignal x x.ownTotal n 0
      let y := (x.fold r.2).fold (if rec_ then stRecovered else stOk)
      if n = x.ownTotal - x.ownPos then r.1.ownDone y stOk n
      else r.1.setOp { y with ownPos := x.ownPos + n, moved := x.moved + n }

/-- The own part of an XGET moves: a store returns up to 256 bytes a beat, any other target the whole part. -/
def State.ownGet (s : State) (x : Xfer) (rec_ : Bool) : State :=
  let n := x.beat
  let a := s.ownAccess x x.ownPos n
  let st := s.accessStatus a
  if st ≠ stOk then s.ownDone x st 0
  else
    let r := s.accessRead a x.core
    if r.2.1 ≠ stOk ∧ r.2.1 ≠ stPoison then r.1.ownDone x r.2.1 0
    else
      let s1 := r.1.takeReturned x x.ownPos (r.2.1 == stPoison) r.2.2
      let y := (x.fold r.2.1).fold (if rec_ then stRecovered else stOk)
      if n = x.ownTotal - x.ownPos then s1.ownDone y stOk n
      else s1.setOp { y with ownPos := x.ownPos + n, moved := x.moved + n }

/-- A loose signal, or the own part of an XSIG. -/
def State.ownSig (s : State) (x : Xfer) : State :=
  let st := if x.sigCtr > 47 then stAccess else s.accessStatus (s.ownAccess x 0 0)
  if st ≠ stOk then s.ownDone x st 0
  else (s.applySignal s.moduleId x.msg x.sigCore x.sigCtr (bTc (s.binding x.queue)) x.len).ownDone x stOk 0

/-- Moves the own part of an operation that nothing holds. -/
def State.ownNow (s : State) (x : Xfer) (rec_ : Bool) : State :=
  if x.kind = .sig then s.ownSig x else if x.kind = .get then s.ownGet x rec_ else s.ownPut x rec_

/-- The operation of a message whose part inside the package is still to move. -/
def State.ownOp (s : State) (msg : Nat) : Option Xfer :=
  s.ops.find? fun x => x.msg == msg && x.own && x.kind != .fence && !heldByFence s.ops x.queue x.msg

/-- The incoming port that a beat reaches: a core's, or the cluster's for its shared stores. -/
def Xfer.targetPort (x : Xfer) : Nat :=
  let core := x.ownAddr % 2 ^ 44 / 2 ^ 32 % 512
  if x.ownAddr % 2 ^ 32 < 0x1000000 then core else 512 + core / 8

/-- Whether two operations are of one issuer: a core, or a host queue. -/
def Xfer.sameIssuer (x y : Xfer) : Bool := x.core == y.core && (x.core != 512 || x.laddr == y.laddr)

/-- Whether beats of an earlier operation of the same issuer towards the same port are still to come: beats leave in issue order
(12 R471). -/
def beatBehind : List Xfer → Xfer → Bool
  | [], _ => false
  | y :: r, x =>
    if y.msg = x.msg ∧ y.core = x.core then false
    else (y.sameIssuer x && y.own && y.kind != .fence && y.inBeats && y.targetPort == x.targetPort) || beatBehind r x

/-- The part that a package beat moves: the first of the message's that no fence and no earlier beat holds. -/
def State.beatOp (s : State) (msg : Nat) : Option Xfer :=
  match s.ownOp msg with
  | some x => if x.inBeats ∧ beatBehind s.ops x then none else some x
  | none => none

/-- The context that an operation of this module serves; 16 for one of no context. -/
def State.opCtx (s : State) (x : Xfer) : Nat :=
  match s.opWho x with
  | .ctx c => c
  | _ => bCtx (s.binding x.queue)

/-- A beat crosses the mesh from its issuer's die to its target's (01 R19, R20). -/
def State.crossMesh (s : State) (a b : Nat) : State := { s with mesh := meshRoute a b }

def execPackageBeat (msg : BitVec 48) (hw : HwEvent) (s : State) : Out :=
  match s.beatOp msg.toNat with
  | none => .next s
  | some x =>
    if s.ladderFull hw then .next s
    else
      let s1 := (s.memEvent (x.core % 512) hw).crossMesh (issuerDie x.core) (s.accessDie x.ownAddr)
      match s1.accessHeld (s1.ownAccess x 0 x.ownTotal) with
      | some p =>
        if (s1.long.ladders.any fun l => l.held.any fun h => h.msg == some x.msg) ∨ s1.holdFull p then .next s1
        else .next (s1.holdAt p ⟨none, s1.moduleId, some x.msg, s1.opCtx x, none⟩)
      | none => .next (s1.ownNow x false)

/-! Requests that a ladder held (10 R243 to R246) -/

/-- Serves a held request with status RECOVERED; `p` is the page that the ladder has recovered. -/
def State.serveHeld (s : State) (p : Nat) (h : HeldReq) : State :=
  match h.frame, h.msg with
  | some f, _ =>
    if f.kind = 1 then s.getNow f (some p) else if f.kind = 3 then s.addNow f true else s.putNow f h.via true
  | none, some m => match s.ownOp m with
    | some x => s.ownNow x true
    | none => s
  | none, none => match h.write with
    | some w => s.writeOrHold w.1 w.2
    | none => s

/-- Completes a held request with POISON: a read returns the pattern; a write writes nothing (log 41). -/
def State.poisonHeld (s : State) (h : HeldReq) : State :=
  match h.frame, h.msg with
  | some f, _ =>
    if f.kind = 1 then
      s.returnData f (fun p d => (stPoison, (List.range d.length).map fun k => poisonAt f.sidecar (p + k))) (zeroBytes f.total)
    else s.refuseFrame f h.via stPoison
  | none, some m => match s.ownOp m with
    | some x =>
      if x.kind = .get then
        let n := x.ownTotal
        let d := (List.range n).map fun k => poisonAt x.side k
        (s.takeReturned x 0 true d).ownDone x stPoison n
      else s.ownRefuse x stPoison
    | none => s
  | none, none => s

end Sys2Proof.Machine
end

