-- ==== Sys2Proof/Machine/Memory.lean ====
section
/-!
DEFINITION. Recovery ladders (10 R243 to R246) and the repair of HBM channels (R216 to R218).
-/

namespace Sys2Proof.Machine

/-! Unmapping (R230) -/

/-- Whether an access range touches a region. -/
def rgTouches (w : BitVec 256) (off n : Nat) : Bool :=
  rgValid w && decide (n ≠ 0 ∧ off < (rgBase w + rgPages w) * 65536 ∧ rgBase w * 65536 < off + n)

/-- Accesses in flight to a region: parts of operations, staged additions, and ladders with what they hold. -/
def State.regionBusy (s : State) (w : BitVec 256) : Bool :=
  (s.ops.any fun x => x.own && x.ownAddr / 2 ^ 44 == 0
      && rgTouches w (x.ownAddr % 2 ^ 44) (if x.side then x.len / 544 * 512 else x.len))
    || (s.staged.any fun a => a.parts.any fun p => p.1 / 2 ^ 44 == 0 && rgTouches w (p.1 % 2 ^ 44) p.2.2.2.length)
    || (s.long.ladders.any fun l => rgHolds w l.page)

/-- Answers a write that has waited for an unmapping. -/
def State.unmapDone (s : State) (h : HeldReq) : State :=
  match h.frame, h.msg with
  | some f, _ =>
    let r := s.frameSignal f f.payload.length 0 stOk
    r.1.settle f h.via r.2
  | none, some m => match s.ops.find? fun x => x.msg == m && x.own with
    | some x =>
      let r := s.ownSignal x x.ownTotal x.ownTotal 0
      r.1.ownDone (x.fold r.2) stOk x.ownTotal
    | none => s
  | none, none => s

/-- The last access completes: pages, frames and sectors are free, and a page mapped again reads as zero (R229, R230). -/
def execRegionUnmapComplete (r : Fin 4096) (s : State) : Out :=
  let old := s.region r
  match s.long.unmapping.find? fun e => e.1 == r.val with
  | some (_, w) =>
    if s.regionBusy old then .next s
    else
      let s1 := s.setRegion r w
      let s2 := ({ s1 with
        lr := s1.lr.filter fun e => !rgHolds old (e.1 / 65536),
        side := s1.side.filter fun e => !rgHolds old (e.1 / 4096),
        long := { s1.long with
          unmapping := s1.long.unmapping.filter fun e => e.1 != r.val,
          page := s1.long.page.filter fun e => !rgHolds old e.1,
          unmapWait := s1.long.unmapWait.filter fun e => e.1 != r.val,
          heldWrites := s1.long.heldWrites.filter fun h => !(h.2.any fun p => rgHolds old p) } } : State)
      .next (((s1.long.unmapWait.filter fun e => e.1 == r.val).foldl (fun s e => s.unmapDone e.2) s2).status stOk)
  | none => .next s

/-! Ladders -/

/-- The rung after one that failed: a replica and a re-derivation exist only where the region names them (R243). -/
def State.nextRung (s : State) (p rung : Nat) : Nat :=
  match s.regionOf p with
  | some (_, r) =>
    if rung < 2 ∧ rgReplica r ≠ 0xFFFF then 2 else if rung < 3 ∧ rgWorking r then 3 else 4
  | none => 4

/-- LAST_LADDER (Table 10-6). -/
def ladderWord (p rung held : Nat) : Nat := p % 2 ^ 28 * 2 ^ 36 + rung * 2 ^ 32 + held % 2 ^ 32

/-- A ladder ends at a rung: its count, LAST_LADDER and EMCY FF30h (R246). -/
def State.ladderEnd (s : State) (l : Ladder) (rung sub : Nat) : State :=
  let s1 : State := { s with long := { s.long with ladders := s.long.ladders.filter fun x => x.page != l.page } }
  let w := ladderWord l.page rung l.held.length
  ((s1.addOd 0x2400 sub 1).setOd 0x2400 0xE w).emcy 0xFF30 w

/-- Rung 4: the page is poisoned and every held request completes with POISON; the report carries UNCORRECTABLE_SHARED (log 14). -/
def State.ladderPoison (s : State) (l : Ladder) : State :=
  let s1 := s.ladderEnd l 4 0xD
  (l.held.foldl State.poisonHeld (s1.setPage l.page { s1.getPage l.page with poison := true, cover := [] })).status stUncorrectable

/-- Rung 2 asks the replica for the page and its sidecar on TC2, from the page's home die (R243; log 133). -/
def State.askReplica (s : State) (p : Nat) : State :=
  match s.regionOf p with
  | some (_, r) =>
    s.send (s.mkFrame (rgReplica r) 1 2 { msg := 509 * 2 ^ 39 + 2 ^ 38 + p, addr := p * 65536, total := 69632, sidecar := true } [])
      65536 (s.homeDie p)
  | none => s

/-- A master page that rung 3 needs and that cannot be read: poisoned, or in a ladder of its own. -/
def State.mastersRead (s : State) (shards : List ShardMap) : Bool :=
  shards.all fun m =>
    let h := s.shardHeader m
    let n := m.rows * m.cols * (if shDouble h then 8 else 4)
    (pagesOf (mapMaster m (shCur h)) n).all fun p => !(s.getPage p).poison && (s.ladderOf p).isNone

/-- Whether a rung succeeds: at rung 2 the replica's owning context has the same step number, at rung 3 the masters can be read. -/
def State.rungHolds (s : State) (l : Ladder) (step : W64) (shards : List ShardMap) : Bool :=
  if l.rung = 2 then (s.pageCtx l.page).any fun c => (s.getCtx c).stepNo == step
  else if l.rung = 3 then s.mastersRead shards
  else true

/-- The bytes of a page and of its sidecar replaced by those of another state. -/
def State.takePage (s t : State) (p : Nat) : State :=
  { s with
    lr := wrBytes s.lr (p * 65536) (rdBytes t.lr (p * 65536) 65536),
    side := wrBytes s.side (p * 4096) (rdBytes t.side (p * 4096) 4096) }

/-- What a rung gives: the page as decoded; the replica's bytes, payload then sidecar; the working copies of the shards that the
mapping places in the page, derived anew from their committed masters (09 R203). -/
def State.rungBytes (s : State) (p rung : Nat) (data : List Byte) (shards : List ShardMap) : State :=
  if rung = 2 then
    { s with
      lr := wrBytes s.lr (p * 65536) (data.take 65536),
      side := wrBytes s.side (p * 4096) ((data.drop 65536).take 4096) }
  else if rung = 3 then
    match s.pageCtx p with
    | some c =>
      let t : State := shards.foldl (fun t m =>
        let h := t.shardHeader m
        let fmt := (t.getCtx c).workFmt h
        t.writeWork m fmt (t.workTile h m fmt (shCur h))) s
      s.takePage t p
    | none => s
  else s

/-- A rung succeeds: the page goes into a fresh frame or fresh sectors, the frame's row goes to repair (R217), and the held requests
are served in arrival order (R244). -/
def State.ladderServe (s : State) (l : Ladder) (data : List Byte) (shards : List ShardMap) : State :=
  let s1 := s.rungBytes l.page l.rung data shards
  let s2 := if s1.pageInHbm l.page then s1.rowRepair (s1.pageStack l.page) else s1.flashWrite (s1.pageSectors l.page) none
  l.held.foldl (State.serveHeld · l.page) (s2.ladderEnd l l.rung 0xC)

/-- A rung ends (R243). `step` is the step number of the replica's owning context, which comes with the page at rung 2. -/
def execLadderRungEnd : BitVec 28 → RungEnd → List Byte → List ShardMap → State → Out
  | page, ⟨success, step⟩, data, shards, s =>
    match s.ladderOf page.toNat with
    | none => .next s
    | some l =>
      if success ∧ s.rungHolds l step shards then .next (s.ladderServe l data shards)
      else
        let n := s.nextRung l.page l.rung
        if n = 4 then .next (s.ladderPoison l)
        else
          let s1 : State := { s with long := { s.long with ladders := s.long.ladders.map fun x =>
            if x.page = l.page then { x with rung := n } else x } }
          .next (if n = 2 then s1.askReplica l.page else s1)

/-- A ladder that has not ended within LADDER_LIMIT sweeps passes to rung 4 (R244). -/
def execLadderLimit (page : BitVec 28) (s : State) : Out :=
  match s.ladderOf page.toNat with
  | none => .next s
  | some l => if l.began + s.od 0x2400 0xF ≤ s.time.boundaries then .next (s.ladderPoison l) else .next s

/-- Requests of a context that its cut finds held complete with POISON (R246). -/
def State.poisonCtx (s : State) (ctx : Nat) : State :=
  let held := s.long.ladders.flatMap fun l => l.held.filter fun h => h.ctx == ctx
  let s1 : State := { s with long := { s.long with ladders := s.long.ladders.map fun l =>
    { l with held := l.held.filter fun h => h.ctx != ctx } } }
  held.foldl State.poisonHeld s1

/-! Channels (R217, R218) -/

/-- A copy completes; the switch takes effect at the next boundary. -/
def execChannelCopyComplete (stack : Fin 16) (channel : Fin 32) (s : State) : Out :=
  .next { s with repair := { s.repair with copies := s.repair.copies.map fun c =>
    if c.1 = stack.val ∧ c.2.1 = channel.val ∧ c.2.2.isNone then (c.1, c.2.1, some (s.time.boundaries + 1)) else c } }

end Sys2Proof.Machine
end

