-- ==== Sys2Proof/Machine/Stop.lean ====
section
/-!
DEFINITION. The cut itself, its drain, and what follows it (15 R350, R351, R353 to R358, Table 15-11); COLLIMATE (R338) and the full
save (R350).
-/

namespace Sys2Proof.Machine

/-! The cut (R355, Table 15-11) -/

/-- The Prism jobs of a context on a die end with DEADLINE_MISS: the running one sends no further placement, the queued ones end at
once with no byte sent. -/
def State.cutPrism (s : State) (ctx die : Nat) : State :=
  let x := s.getDie die
  let s1 := match x.prismRun with
    | some r => if pjCtx r.desc = ctx ∧ ¬ r.stopped then s.prismMiss die else s
    | none => s
  let mine := x.prismQ.filter fun d => pjCtx d == ctx
  let s2 := s1.modDie die fun x => { x with prismQ := x.prismQ.filter fun d => pjCtx d != ctx }
  mine.foldl (fun s d =>
    (((s.engineWrite ctx (pjRec d) (completion16 0 0 stDeadline)).doneCtr (pjCore d) (pjCtr d)).addOd 0x2600 9 1).addOd 0x2600 0xA 1) s2

/-- A core of a stopped context: STOPPED, no start (R355). A pending wait is abandoned: nothing meets it or lets it time out; the dump of
the cut shows it, and the end of the drain forgets it (12 R297). -/
def Core.cut (c : Core) : Core :=
  if c.run = .idle then { c with run := .stopped }
  else { c with run := .stopped, wait := c.wait.filter fun w => !w.met, armedAt := none }

/-- Prefetch entries that have not begun never begin. -/
def Ctx.dropEntries (x : Ctx) : Ctx :=
  { x with schedState := x.schedState.filter fun e => e.2 != .waiting }

/-- What the cut of one context does. -/
def State.stopCtx (s : State) (ctx : Nat) : State :=
  let s1 := s.eachCore ctx Core.cut
  let s2 := s1.modCtx ctx fun x =>
    { x.dropEntries.setState 2 with startAt := none, draining := true, stepRun := x.stepRun && x.phase2.isSome }
  let s3 := if swState (s2.getCtx ctx).switch = 1 then s2.missSwitch ctx else s2
  let s4 : State := (s.clustersOf ctx).foldl (fun s k => s.cutJobs k) s3
  let s5 : State := (List.range 8).foldl (fun s d => s.cutPrism ctx d) s4
  (((s5.poisonCtx ctx).watchesDone ctx 0)).msixEvent ctx 0

/-- A CUT record in every cluster of a context (17 Table 17-4). -/
def State.cutRecord (s : State) (ctx reason sweep : Nat) : State :=
  (s.clustersOf ctx).foldl (fun s k => s.trace k 10 9 (reason % 256 * 2 ^ 72 + sweep % 2 ^ 64 * 2 ^ 8)) s

/-- The cuts that fall at one boundary, taken together: their contexts that are ACTIVE, and the reason of the first (log 37). -/
def dueCuts (b : Nat) (l : List Cut) : List Cut := l.filter fun c => decide (c.boundary ≤ b)
def cutMask (l : List Cut) : BitVec 16 := l.foldl (fun m c => m ||| c.contexts) 0

/-! The drain (R356) -/

/-- Whether an activity of a stopped context is still to complete. -/
def State.stillDrains (s : State) (ctx : Nat) : Bool :=
  (s.ops.any fun x => x.core < 512 && s.ctxOfCore x.core == some ctx)
    || (s.ops.any fun x => decide (512 < x.core ∧ x.core ≤ 520) && bCtx (s.binding x.queue) == ctx)
    || (s.dies.any fun d => (d.2.prismRun.any fun r => pjCtx r.desc == ctx) || d.2.shardQ.any fun e => e.2.1 == ctx)
    || ((s.getCtx ctx).schedState.any fun e => e.2 == .begun || e.2 == .late)
    || (s.getCtx ctx).phase2.isSome
    || (s.long.ladders.any fun l => l.held.any fun h => h.ctx == ctx)
    || (s.cores.any fun c => s.ctxOfCore c.1 == some ctx && (!c.2.tapQ0.isEmpty || !c.2.tapQ1.isEmpty || !c.2.ctrPend.isEmpty))

/-- The sweep of a cut. -/
def State.cutSweep (s : State) (c : Cut) : Nat := s.time.sweep + c.boundary - s.time.boundaries

/-- A stopped core after the drain. -/
def Core.forgetWait (c : Core) : Core := if c.run = .stopped then { c with wait := none } else c

/-- Ends one context's drain: its dump, when one is due, and a teardown that has waited for it (12 R297). -/
def State.drained (s : State) (c : Cut) (ctx : Nat) : State :=
  let x := s.getCtx ctx
  let s1 := s.modCtx ctx fun x => { x with draining := false, dumpDue := none, destroyDue := false }
  let s2 := match x.dumpDue with
    | some (r, core, ctr) => s1.writeDump ctx r core ctr (s.cutSweep c, 0)
    | none => s1
  let s3 := s2.eachCore ctx Core.forgetWait
  if x.destroyDue then s3.destroyCtx ctx else s3

/-- The cycles from a cut to a cycle of the running tick: the sweeps and ticks since its boundary (02 R43: a sweep that a re-phase made
longer or shorter counts as 22,500 cycles, log 2), and the place in the tick. -/
def State.cutAge (s : State) (c : Cut) (cc : Nat) : Nat :=
  (s.time.boundaries - c.boundary) * 22500 + s.time.tick * 18 + cc % 18

/-- A drain ends in a cycle of the running tick (R356). -/
def State.endDrain (s : State) (c : Cut) (at_ : Nat) : State :=
  let cc := s.cutAge c at_
  let s1 : State := { s with drains := s.drains.erase c }
  let s2 := ((s1.setOd 0x2700 2 (s.cutSweep c)).setOd 0x2700 3 (c.contexts.toNat * 2 ^ 16 + c.reason)).setOd 0x2700 9 cc
  let s3 := if cc > 450000 then s2.addOd 0x2700 0xA 1 else s2
  (bitsOf c.contexts.toNat 16).foldl (fun s x => s.drained c x) s3

def execShutterDrainEnd (cc : BitVec 32) (s : State) : Out :=
  match s.drains.find? fun c => (bitsOf c.contexts.toNat 16).all fun x => !s.stillDrains x with
  | some c => .next (s.endDrain c cc.toNat)
  | none => .next s

/-! COLLIMATE (R338) -/
def State.writeCollimate (s : State) (v : Nat) : State :=
  if ¬ s.quiescent then s.abort abState
  else if v > 1 then s.abort abRange
  else if s.activeMask ≠ 0 then s.abort abState
  else (s.setOd 0x2700 1 v).abort 0

def execCollimate (v : BitVec 8) (s : State) : Out := .next (s.ownRow 0x270001 1 v.toNat fun s => s.writeCollimate v.toNat)

/-! Full save (R350) -/

def State.writeSaveRequest (s : State) (v : Nat) : State :=
  let ctx := fldN v 63 60
  let off := fldN v 43 0
  let x := s.getCtx ctx
  if ¬ s.quiescent then s.abort abState
  else if fldN v 59 44 ≠ 0 ∨ s.pageCtx (off / 65536) ≠ some ctx then s.abort abRange
  else if x.stepRun ∨ x.state = 0 then s.abort abState
  else ((s.modCtx ctx fun x => { x with saveReq := some off }).setOd 0x2700 4 v).abort 0

def execSaveRequest (v : BitVec 64) (s : State) : Out :=
  .next (s.ownRow 0x270004 8 v.toNat fun s => s.writeSaveRequest v.toNat)

/-- The manifest's record: ROW_MAJOR INT32, RANK 2, four values a row. -/
def manifestHeader (rows step version : Nat) : BitVec 1024 :=
  let h := mkHeader 0 0 (16 * rows) step version 0xFFFFFFF0 2 0x10
  setDim (setDim h 0 rows 0 rows) 1 4 0 4

/-- The checkpoint service has written every part through the shard engines; it writes the manifest and sets SAVE_STATUS. -/
def execFullSaveComplete (ctx : Fin 16) (manifest : Nat) (rows : List (BitVec 128)) (s : State) : Out :=
  let x := s.getCtx ctx
  match x.saveReq with
  | none => .next s
  | some _ =>
    if s.dies.any fun d => d.2.shardQ.any fun e => e.2.1 == ctx.val || s.exportCtx e.1 == some ctx.val then .next s
    else
      let hdr := manifestHeader rows.length x.lastCommit.toNat (s.versionOf ctx)
      let rec_ := leBytes 128 hdr.toNat ++ rows.flatMap fun r => leBytes 16 r.toNat
      let ok := s.longOk (.ctx ctx) true manifest rec_.length
      let s1 := if ok then s.longWrite manifest rec_ else s
      .next ((s1.modCtx ctx fun x => { x with saveReq := none }).setOd 0x2700 0x1A (if ok then stOk else stAccess))

/-! Resume (R351) -/

/-- Contributor slots of a factor block (07 R159). -/
def State.clearSlots (s : State) (ctx : Nat) (f : FactorMap) : State :=
  let h := BitVec.ofNat 256 (leNat (s.engineRead ctx (BitVec.ofNat 64 f.buffer) 32).data)
  let n := fhB h
  let e := fhElem h
  if e = 8 then
    s.engineWrite ctx (BitVec.ofNat 64 (f.buffer + 32 + 4 * (n * n * e) + n * e)) (zeroBytes (f.contributors * (n * n * 4)))
  else s

/-- The core as a resume leaves it: IDLE, counters and saturation bits zero. -/
def Core.resumed (c : Core) : Core :=
  { c with run := .idle, ctr := [], sat := 0, ctrPend := [], wait := none, armedAt := none, stepNf := 0 }

/-- Resumes a context in place. -/
def State.resumeCtx (s : State) (ctx : Nat) (shards : List ShardMap) (map : CommitMap) : State :=
  let s1 : State := shards.foldl (fun s m =>
    (s.settleShard ctx false m).longWrite m.grad (zeroBytes (gradBytes m))) s
  let s1b : State := map.grads.foldl (fun s g => s.longWrite g.1 (zeroBytes g.2)) s1
  let s2 : State := map.factors.foldl (fun s f => (s.clearFactor ctx f).clearSlots ctx f) s1b
  let mine (a : StagedAdd) : Bool := s.ctxOfCore a.sigCore == some ctx
  let s3 : State := { s2 with staged := s2.staged.filter fun a => !mine a }
  let s4 := s3.eachCore ctx Core.resumed
  let s5 : State := s4.barriers.foldl (fun s b =>
    if barCtx b.2 = ctx then (s.setBarrier b.1 (setFld b.2 245 243 0)).setBarCollect b.1 BarrierCol.init else s) s4
  s5.modCtx ctx fun x =>
    { x.setState 1 with
      switch := setFld x.switch 9 8 0, stepRun := false, phase2 := none, phase2Map := none, shards := [], wAmax := [],
      lrMult := none, summed := [], ortho := [],
      replayMark := false, driftMark := false, poison7 := false, nfSources := 0, voted := false, rederived := false,
      schedState := [] }

def State.writeResume (s : State) (ctx : Nat) (shards : List ShardMap) (map : CommitMap) : State :=
  let x := s.getCtx ctx
  if ¬ s.quiescent then s.abort abState
  else if ctx > 15 then s.abort abRange
  else if x.state ≠ 2 ∨ x.draining ∨ (s.power.shutterIn ∧ (s.od 0x2700 6).testBit ctx) then s.abort abState
  else ((s.resumeCtx ctx shards map).setOd 0x2700 5 ctx).abort 0

def execResume (v : BitVec 8) (shards : List ShardMap) (map : CommitMap) (s : State) : Out :=
  .next (s.ownRow 0x270005 1 v.toNat fun s => s.writeResume v.toNat shards map)

end Sys2Proof.Machine
end

