-- ==== Sys2Proof/Machine/Port.lean ====
section
/-!
DEFINITION. Ports: flits and their replay (11 R249, R250), dark ports (16 R370), and frames that leave or pass through (R254 to R256,
R263, R271).
-/

namespace Sys2Proof.Machine

/-! Flits (Table 11-1) -/
def flCrc (w : BitVec 2048) : Nat := fld w 2047 2016
def flData (w : BitVec 2048) : List Byte := leBytes 248 (fld w 2015 32)
def flSeq (w : BitVec 2048) : Nat := fld w 31 20
def flAck (w : BitVec 2048) : Nat := fld w 19 8
def flType (w : BitVec 2048) : Nat := fld w 7 0

/-- One bit of the CRC-32 with the reflected polynomial. -/
def crcBits : Nat → Nat → Nat
  | 0, c => c
  | n + 1, c => crcBits n (if c % 2 = 1 then (c / 2) ^^^ 0xEDB88320 else c / 2)

/-- The CRC-32 of IEEE 802.3: initial value and final XOR all ones, bits least significant first. -/
def crc32 (l : List Byte) : Nat := (l.foldl (fun c b => crcBits 8 (c ^^^ b.toNat)) 0xFFFFFFFF) ^^^ 0xFFFFFFFF

/-- A flit of this module. -/
def mkFlit (typ seq ack : Nat) (d : List Byte) : BitVec 2048 :=
  let body := leBytes 252 (leNat (d.take 248) * 2 ^ 32 + seq % 4096 * 2 ^ 20 + ack % 4096 * 2 ^ 8 + typ % 256)
  BitVec.ofNat 2048 (crc32 body * 2 ^ 2016 + leNat body)

/-- Whether a received flit is good: its FEC codewords correctable, its CRC right. `fec` is how many codewords the FEC has
corrected; none where one was uncorrectable. -/
def flitGood (w : BitVec 2048) (fec : Option Nat) : Bool := fec.isSome && crc32 (leBytes 252 w.toNat) == flCrc w

/-- Flits that an acknowledgement of a sequence number leaves: those sent after it. -/
def dropAcked (seq : Nat) (l : List (BitVec 2048)) : List (BitVec 2048) :=
  if l.any fun f => flSeq f == seq then (l.dropWhile fun f => flSeq f != seq).drop 1 else l

/-- Removes whole frames from the front of a received stream. -/
def takeFrames : Nat → List Byte → List Byte
  | 0, l => l
  | n + 1, l =>
    let len := 32 + fldN (leNat (l.take 32)) 47 35
    if 32 ≤ l.length ∧ len ≤ l.length then takeFrames n (l.drop len) else l

/-! Receiving (R250) -/

/-- Starts retraining. -/
def Port.retrain (p : Port) : Port := { p with state := 1 }

/-- What the FEC did for a flit: codewords corrected, or one uncorrectable (R280). -/
def State.fecCount (s : State) (fec : Option Nat) : State :=
  match fec with
  | some n => s.addOd 0x2500 3 n
  | none => s.addOd 0x2500 4 1

/-- A flit that is discarded: the first one asks for its replay. -/
def State.flitBad (s : State) (n : Nat) : State :=
  let p := s.getPort n
  if p.nakWait then s else s.setPort n { p with nakWait := true, nakOut := some p.expect }

/-- A good flit in sequence: its acknowledgement, and its data. -/
def Port.take (p : Port) (w : BitVec 2048) (data : Bool) : Port :=
  let stream := p.rxStream ++ flData w
  { p with
    nakWait := false, nakOut := none, expect := (p.expect + 1) % 4096, rxAck := some (flSeq w),
    replay := dropAcked (flAck w) p.replay,
    rxStream := if data then takeFrames stream.length stream else p.rxStream }

/-- A data or idle flit (R249, R250). A port that is not up receives none. -/
def State.flitIn (s : State) (n : Nat) (w : BitVec 2048) (fec : Option Nat) (data : Bool) : State :=
  let p := s.getPort n
  if p.state ≠ 2 then s
  else
    let s1 := s.fecCount fec
    if ¬ flitGood w fec ∨ flSeq w ≠ p.expect then s1.flitBad n else s1.setPort n (p.take w data)

def execDataFlit (port : Fin 48) (w : BitVec 2048) (fec : Option Nat) (s : State) : Out :=
  .next (if flType w = 0 ∨ ¬ flitGood w fec then s.flitIn port w fec true else s)
def execIdleFlit (port : Fin 48) (w : BitVec 2048) (fec : Option Nat) (s : State) : Out :=
  .next (if flType w = 1 ∨ ¬ flitGood w fec then s.flitIn port w fec false else s)

/-- Sends the kept flits from a sequence number again, and retrains past REPLAY_LIMIT. -/
def State.replayFrom (s : State) (n seq : Nat) : State :=
  let p := s.getPort n
  let p1 := { p with
    resend := p.replay.dropWhile fun f => flSeq f != seq, replaysSweep := p.replaysSweep + 1 }
  (s.setPort n (if p1.replaysSweep > s.od 0x2500 6 then p1.retrain else p1)).addOd 0x2500 5 1

/-- A NAK flit. One that comes while a discarded flit is awaited again is discarded as every later flit is. -/
def execNakFlit (port : Fin 48) (w : BitVec 2048) (fec : Option Nat) (s : State) : Out :=
  let p := s.getPort port
  if p.state ≠ 2 then .next s
  else
    let s1 := s.fecCount fec
    if ¬ flitGood w fec then .next (s1.flitBad port)
    else if flType w ≠ 2 then .next s
    else if p.nakWait then .next s1
    else .next (s1.replayFrom port (flAck w))

/-! Dark ports (16 R370) -/

/-- Ports that are dark. -/
def State.darkPorts (s : State) : Nat := (s.ports.filter fun p => p.2.state == 3).length

/-- A port goes dark: the margin, LAST_REPAIR and its threshold; a ninth is beyond reserves (16 Table 16-4). -/
def State.portDark (s : State) (n : Nat) : State :=
  if (s.getPort n).state = 3 then s
  else
    let s1 := (s.setPort n { s.getPort n with state := 3 }).errOn 4
    if s1.darkPorts > 8 then s1.beyondReserves 6 n
    else ((s1.subOd 0x2300 7 1).setOd 0x2300 0x10 (repairWord 6 0 n s.time.sweep)).maintenance 6

def execPortRetrainEnd (port : Fin 48) (success : Bool) (s : State) : Out :=
  let p := s.getPort port
  if p.state ≠ 1 then .next s
  else if success then
    .next (if p.laserOff then s else s.setPort port { p with state := 2, nakWait := false, nakOut := none })
  else .next (s.portDark port)

/-! Sending (R254, R263, R271) -/

/-- Candidate port `k` of a route. -/
def candidate (r : W32) (k : Nat) : Nat := fld r (6 * k + 5) (6 * k)

/-- Whether a port can take a frame. -/
def State.portUsable (s : State) (n : Nat) : Bool := decide (n < 48) && (s.getPort n).state == 2

/-- The candidate with the most credit among those usable that have any, the lower number first. -/
def bestCandidate (usable : Nat → Bool) (credits : List Nat) : Option Nat :=
  (List.range 4).foldl (fun best k =>
    if usable k ∧ credits.getD k 0 ≠ 0 then
      match best with
      | some b => if credits.getD k 0 > credits.getD b 0 then some k else some b
      | none => some k
    else best) none

/-- The free credit of a link's buffer set: each port has one for every class and every hop index from 1 to 6 (R256). The
list gives them port by port, class by class; one that it does not give is empty. -/
def linkCredit (credits : List Nat) (port tc hop : Nat) : Nat := credits.getD (port * 24 + tc * 6 + (hop - 1)) 0

/-- The port through which a frame of a class leaves on its `h`-th hop towards a module (R254, R256). -/
def State.choosePort (s : State) (dest tc h : Nat) (credits : List Nat) : Option Nat :=
  let r := s.route dest
  if ¬ flag r 31 then none
  else
    let usable (k : Nat) : Bool := s.portUsable (candidate r k)
    let free (k : Nat) : Nat := linkCredit credits (candidate r k) tc h
    if tc = 0 ∨ s.collimate then
      if usable 0 ∧ free 0 ≠ 0 then some (candidate r 0) else none
    else (bestCandidate usable ((List.range 4).map free)).map (candidate r)

/-- The bytes of a frame on a link (R251). -/
def frameBytes (f : Frame) : List Byte := leBytes 32 f.hdr.toNat ++ f.payload

/-- Whole flits out of a stream. -/
def sendFlits : Nat → Port → Port
  | 0, p => p
  | n + 1, p =>
    if 248 ≤ p.txStream.length then
      let w := mkFlit 0 p.txSeq (p.rxAck.getD 4095) (p.txStream.take 248)
      sendFlits n { p with
        txStream := p.txStream.drop 248, txSeq := (p.txSeq + 1) % 4096,
        replay := (p.replay ++ [w]).drop (p.replay.length + 1 - 2048) }
    else p

/-- A frame leaves through a port: one hop more, and its bytes into the stream. -/
def Port.out (p : Port) (f : Frame) : Port :=
  let g : Frame := { f with hdr := setFld f.hdr 13 11 (f.hops + 1) }
  let l := p.txStream ++ frameBytes g
  sendFlits (l.length / 248) { p with lastFrame := some g, txStream := l }

/-- Destination bytes that a frame puts in flight on its queue (R263). -/
def flightBytes (f : Frame) : Nat := if f.kind = 0 ∨ f.kind = 3 then f.payload.length else 0

/-- Whether a waiting frame may leave: its queue's credit, no fence before it, and no earlier frame of its operation waiting for the
same hop. -/
def State.maySend (s : State) (n : Nat) (e : TxEntry) : Bool :=
  (e.queue ≥ 65536 || decide (tblGet nat0 s.qflight e.queue + flightBytes e.frame ≤ bCredit (s.binding e.queue) * 4096)
      && !heldByFence s.ops e.queue e.frame.msg)
    && !(s.txq.take n).any fun x => x.frame.msg == e.frame.msg && x.hop == e.hop && x.frame.kind == e.frame.kind

/-! Traffic classes (R264; log 121) -/

/-- Bytes of a frame on a link (R251). -/
def frameWire (f : Frame) : Nat := 32 + f.payload.length

/-- Whether the bucket of a shaped class has room for a frame (Table 11-7). -/
def Port.shaped (p : Port) (f : Frame) : Bool :=
  if f.tc = 0 then decide (frameWire f ≤ p.tok0) else if f.tc = 3 then decide (frameWire f ≤ p.tok3) else true

/-- Whether a waiting frame of a class could leave through a port now. -/
def State.wantsPort (s : State) (credits : List Nat) (k tc : Nat) : Bool :=
  (List.range s.txq.length).any fun n =>
    match s.txq[n]? with
    | some e => e.frame.tc == tc && s.maySend n e && s.choosePort e.hop tc 1 credits == some k && (s.getPort k).shaped e.frame
    | none => false

/-- Whether a port's schedule lets a frame go: TC0 before every other class, TC1 and TC2 in weighted rounds. -/
def State.classGoes (s : State) (credits : List Nat) (k : Nat) (f : Frame) : Bool :=
  let p := s.getPort k
  p.shaped f && (f.tc == 0 || !s.wantsPort credits k 0) &&
    (if f.tc = 1 then p.wrr1 != 0 || p.wrr2 == 0 || !s.wantsPort credits k 2
     else if f.tc = 2 then p.wrr2 != 0 || p.wrr1 == 0 || !s.wantsPort credits k 1 else true)

/-- What a frame takes of its class's share: bytes of its bucket, or its place in the round, of which a new one begins when its
class has none left. -/
def Port.spend (p : Port) (w1 w2 : Nat) (f : Frame) : Port :=
  if f.tc = 0 then { p with tok0 := p.tok0 - frameWire f }
  else if f.tc = 3 then { p with tok3 := p.tok3 - frameWire f }
  else if f.tc = 1 then
    if p.wrr1 = 0 then { p with wrr1 := w1 - 1, wrr2 := w2 } else { p with wrr1 := p.wrr1 - 1 }
  else if p.wrr2 = 0 then { p with wrr1 := w1, wrr2 := w2 - 1 } else { p with wrr2 := p.wrr2 - 1 }

/-- A frame leaves through a port. -/
def State.portOut (s : State) (k : Nat) (f : Frame) : State :=
  s.setPort k (((s.getPort k).spend (s.od 0x2510 1) (s.od 0x2510 2) f).out f)

/-- A waiting frame leaves, over the mesh from the die where it was formed to its port's (01 R19, R470). -/
def execFrameSend (n : Nat) (credits : List Nat) (s : State) : Out :=
  match s.txq[n]? with
  | none => .next s
  | some e =>
    if ¬ s.maySend n e then .next s
    else match s.choosePort e.hop e.frame.tc 1 credits with
      | none => .next s
      | some p =>
        if ¬ s.classGoes credits p e.frame then .next s
        else
          let s1 : State := { s with
            txq := s.txq.eraseIdx n, mesh := meshRoute (e.die.getD (portDie p)) (portDie p),
            qflight := if e.queue < 65536 then tblUpd nat0 s.qflight e.queue (· + flightBytes e.frame) else s.qflight }
          .next (s1.portOut p e.frame)

/-- The module that issued a frame's operation; none for a frame of no operation (Table 11-4). -/
def issuerOf (f : Frame) : Option Nat :=
  if f.kind < 7 then some (if f.kind = 2 ∨ f.kind = 5 ∨ f.kind = 6 then f.dest else f.src)
  else if f.kind = 10 then some f.src else none

/-- Discards a frame that has taken six hops, and ends its operation with ACCESS_FAULT (R256). -/
def State.hopsOver (s : State) (f : Frame) (port : Nat) : State :=
  match issuerOf f with
  | some m => s.discard.send (s.discard.replyFrame f m 6 stAccess) 65536 (portDie port)
  | none => s.discard

/-- A frame for another module that came by a port: through the die's port crossbar, or over the mesh to another die's port (R255,
R256). One that cannot leave yet waits in its link's buffer set. -/
def execFrameForward : Frame → Arrival → State → Out
  | f, ⟨port, credits⟩, s =>
    if ¬ f.wf ∨ s.isHere f then .next s
    else if f.hops ≥ 6 then .next (s.hopsOver f port)
    else match s.choosePort f.dest f.tc (f.hops + 1) credits with
      | none => .next s
      | some p =>
        if ¬ s.classGoes credits p f then .next s
        else .next ((({ s with mesh := meshRoute (portDie port) (portDie p) } : State).portOut p f).addOd 0x2510 9 1)

end Sys2Proof.Machine
end

