-- ==== Sys2Proof/Machine/Repair.lean ====
section
/-!
DEFINITION. Remaps onto reserves and their hold (16 R366, R367), the recovery replay (R368), and the failure of a flash stack (R369).
-/

namespace Sys2Proof.Machine

/-- The holds of Table 16-3 in cycles. -/
def holdCycles (cluster : Bool) : Nat := if cluster then 3945 else 2728

/-- The running job of a replaced cluster, or of one that holds an engine of a retiring core, ends as a cut ends it (R367); a job
whose own event caused the retirement has ended with POISON by then (08 R188). -/
def State.remapJob (s : State) (r : Remap) : State :=
  let k := r.core / 8
  match (s.getCluster k).solverRun with
  | some j =>
    if r.cluster ∨ (lentEngines k j.desc).any (fun e => e.1 == r.core) then s.abandonJob k j else s
  | none => s

/-- Holds every core of a context until the end of a hold that began at this boundary; the longer of two holds counts. -/
def State.holdCtx (s : State) (ctx : Nat) (tick : Nat) : State :=
  let s1 := s.modCtx ctx fun x =>
    { x with remapHold := some (match x.remapHold with
        | some (b, t) => if b = s.time.boundaries then (b, Nat.max t tick) else (s.time.boundaries, tick)
        | none => (s.time.boundaries, tick)) }
  s1.eachCore ctx fun c => { c with hold := true }

/-- The reserve core takes over from a core (R364, R366). -/
def State.remapCore (s : State) (n : Nat) : State :=
  let k := n / 8
  let unit := s.physCore n
  let s1 := s.modCluster k fun c => { c with coreMap := tblSet id0 c.coreMap (n % 8) 8, reserveUsed := true }
  (((s1.subOd 0x2300 1 1).addOd 0x2300 0xD 1).repaired k 1 0 unit).maintenance 0

/-- The die's reserve cluster takes over from a cluster, and brings its own reserve core (R365, Table 16-1). -/
def State.remapCluster (s : State) (k : Nat) (coreLost : Bool) : State :=
  let d := k / 8
  let unit := s.physCluster k
  let s1 := s.modDie d fun x => { x with clusterMap := tblSet id0 x.clusterMap (k % 8) 8 }
  let s2 := s1.modCluster k fun c => { c with coreMap := [], reserveUsed := false }
  let s3 : State := { s2 with repair := { s2.repair with dieReserve := s2.repair.dieReserve ||| BitVec.ofNat 8 (2 ^ d) } }
  let w := s3.od 0x2300 2
  let s4 := (s3.setOd 0x2300 2 ((w ||| 2 ^ (d + 8)) / 256 * 256 + (w % 256 - 1))).addOd 0x2300 0xE 1
  let s5 := s4.addOd 0x2300 1 1
  let s6 := if coreLost then s5.addOd 0x2300 0xD 1 else s5
  (s6.repaired k 2 0 unit).maintenance 1

/-- One remap. -/
def State.remap (s : State) (r : Remap) : State :=
  let k := r.core / 8
  let s1 := s.remapJob r
  let s2 := if r.cluster then s1.remapCluster k r.fault.isSome else s1.remapCore r.core
  let s3 : State := { s2 with repair := { s2.repair with replayQ := s2.repair.replayQ ++ r.fault.toList } }
  match s3.ctxOfCluster k with
  | some c => (s3.holdCtx c (holdCycles r.cluster / 18)).breakEvent 1 [c]
  | none => s3.breakIn 1 [k]

/-- The tick in which a context's hold ends has begun. -/
def State.holdOver (s : State) (ctx : Nat) : Bool :=
  (s.getCtx ctx).remapHold.any fun h => decide (h.1 < s.time.boundaries ∨ (h.1 = s.time.boundaries ∧ h.2 ≤ s.time.tick))

/-- The hold ends (R366 item 4). -/
def execRemapHoldEnd (s : State) : Out :=
  .next ((List.range 16).foldl (fun s c =>
    if s.holdOver c then (s.modCtx c fun x => { x with remapHold := none }).eachCore c fun k => { k with hold := false } else s) s)

/-- The recovery replay classifies a retired core: its class goes into LAST_REPAIR (R368, Table 16-7). -/
def execRecoveryReplay (permanent : Bool) (s : State) : Out :=
  match s.repair.replayQ with
  | [] => .next s
  | u :: r =>
    let cls := if permanent then 2 else 1
    let w := s.od 0x2300 0x10
    let sweep := if fldN w 63 56 = 1 ∧ fldN w 53 44 = u % 1024 then fldN w 43 0 else s.time.sweep
    let s1 : State := { s with repair := { s.repair with
      replayQ := r, retiredClass := s.repair.retiredClass ++ [(u, permanent)] } }
    .next (s1.setOd 0x2300 0x10 (repairWord 1 cls u sweep))

/-- A flash stack fails: DEGRADED, or beyond reserves for a second one (R369, Table 16-4). -/
def execFlashStackFailure (stack : Fin 4) (s : State) : Out :=
  if s.repair.failedStacks.contains stack.val then .next s
  else
    let s1 : State := { s with repair := { s.repair with failedStacks := s.repair.failedStacks ++ [stack.val] } }
    .next (if s.repair.failedStacks.isEmpty then (s1.setOd 0x2300 6 1).maintenance 5 else s1.beyondReserves 5 stack)

end Sys2Proof.Machine
end

