-- ==== Sys2Proof/Machine/Startup.lean ====
section
/-!
DEFINITION. Start-up: its stages, levels, restarts and RECOVERY (19 R425 to R430), image slots, updates and handovers (R431 to R435),
and what a loss of power leaves (21 R461, R462).
-/

namespace Sys2Proof.Machine

/-! Table 19-1 -/

/-- Units of a stage. -/
def stageUnits (n : Nat) : Nat :=
  if n = 3 then 10 else if n = 4 then 16 else if n = 6 then 14 else if n = 7 then 48 else if n = 8 then 8 else 1

/-- Last alternative of a stage. -/
def stageLast (n : Nat) : Nat := if n = 1 ∨ n = 3 then 0 else if n = 4 ∨ n = 9 then 2 else 1

/-- Time limit of a stage in milliseconds. -/
def stageLimit (n : Nat) : Nat :=
  if n = 1 then 200 else if n = 2 then 50 else if n = 3 then 2000 else if n = 4 then 500 else if n = 5 then 3000
  else if n = 6 then 100 else if n = 7 then 1000 else if n = 8 then 1500 else if n = 9 then 400 else 100

def stageMandatory (n : Nat) : Bool := n != 7 && n != 10

/-- The last journal record of a stage and unit; a HOLDOVER_CUT is no result of a stage. -/
def State.lastRecord (s : State) (stage unit : Nat) : Option JournalRec :=
  s.boot.journal.find? fun r => r.stage == stage && r.unit == unit && r.result != 4

/-- The level of a stage and unit (R428); an activated image starts stage 9 anew. -/
def State.stageLevel (s : State) (stage unit : Nat) : Nat :=
  if stage = 9 ∧ (s.boot.fresh9 ∨ s.boot.nextBoot.isSome) then 0
  else match s.lastRecord stage unit with
    | none => 0
    | some r => Nat.min (stageLast stage) (if r.result = 2 ∨ r.result = 0 then r.alt + 1 else r.alt)

/-- The DETAIL of the failure that a level-1 run answers, when the level has just risen from 0. -/
def State.failDetail (s : State) (stage unit : Nat) : Option Nat :=
  match s.lastRecord stage unit with
  | some r => if r.result = 2 ∧ r.alt = 0 then some r.detail else none
  | none => none

/-! What a package reset leaves (R429, 16 R360, 01 R15; log 45) -/

/-- Entries of the dictionary that count over the life of the module or describe what outlives a start-up. -/
def odKept : List Nat :=
  [0x200103, 0x200104, 0x230001, 0x230002, 0x230003, 0x230004, 0x230005, 0x240001, 0x240006, 0x280001, 0x280002]

/-- The maps of logical to physical units. -/
def Cluster.maps (c : Cluster) : Cluster := { Cluster.init with coreMap := c.coreMap, reserveUsed := c.reserveUsed }
def Die.maps (d : Die) : Die := { Die.init with clusterMap := d.clusterMap }

/-- The package at the beginning of a start-up. -/
def State.packageReset (s : State) : State :=
  let r := State.reset
  { r with
    pending := s.pending,
    clusters := s.clusters.foldl (fun t c => tblSet clusterD t c.1 c.2.maps) [],
    dies := s.dies.foldl (fun t d => tblSet dieD t d.1 d.2.maps) [],
    long := { r.long with governor := s.long.governor },
    repair := { r.repair with
      retiredClass := s.repair.retiredClass ++ s.repair.replayQ.map fun u => (u, false),
      retiredCh := s.repair.retiredCh, softRows := s.repair.softRows, hardRows := s.repair.hardRows, chSpares := s.repair.chSpares, dieReserve := s.repair.dieReserve },
    obs := { r.obs with spectrum := s.obs.spectrum },
    dict := { r.dict with
      od := s.dict.od.filter fun e => odKept.contains e.1,
      stored := s.dict.stored, storedValid := s.dict.storedValid, loadDefaults := s.dict.loadDefaults },
    boot := { r.boot with
      journal := s.boot.journal, boot := s.boot.boot, restarts := s.boot.restarts, fresh9 := s.boot.fresh9,
      slotVer := s.boot.slotVer, running := s.boot.running, nextBoot := s.boot.nextBoot, revoked := s.boot.revoked,
      jumper := s.boot.jumper, sealOpen := s.boot.sealOpen, tamper := s.boot.tamper, transfer := s.boot.transfer },
    power := { s.power with
      powered := false, shutterIn := false, shutterOut := false, alerts := if s.boot.tamper then [alTamper] else [] },
    freeCtr := s.freeCtr }

/-- An ownership transfer takes effect (Table 19-6). -/
def State.takeTransfer (s : State) : State :=
  if s.boot.transfer then
    let s1 : State := { s with
      obs := { s.obs with spectrum := [] },
      dict := { s.dict with stored := [], storedValid := false },
      boot := { s.boot with transfer := false } }
    (s1.setOd 0x2800 1 0).setOd 0x2800 2 0
  else s

/-- A start-up begins: BOOT counts it, and stage 1 is next. -/
def State.beginStartup (s : State) : State :=
  let s1 := s.packageReset
  ({ s1 with boot := { s1.boot with boot := s1.boot.boot + 1, stage := 1, unit := 0 } } : State).takeTransfer

/-! The effects of stages -/

/-- Whether a physical core is retired as PERMANENT (16 R368). -/
def State.permanent (s : State) (u : Nat) : Bool := s.repair.retiredClass.any fun e => e.1 == u && e.2

/-- Retired cores of a cluster pass their re-test (R426): `bad` holds the physical clusters of the die that do not. -/
def State.retestCore (s : State) (d bad k : Nat) : State :=
  let c := s.getCluster k
  let p := tblGet id0 (s.getDie d).clusterMap (k % 8)
  match c.coreMap.head? with
  | some (i, _) =>
    let u := (d * 9 + p) * 9 + i
    if bad.testBit p ∨ s.permanent u then s
    else
      let s1 := s.setCluster k { c with coreMap := [], reserveUsed := false }
      { s1 with repair := { s1.repair with retiredClass := s1.repair.retiredClass.filter fun e => e.1 != u } }
  | none => s

/-- A replaced cluster passes its re-test, and the reserve cluster is free again. -/
def State.retestCluster (s : State) (d bad : Nat) : State :=
  match (s.getDie d).clusterMap.head? with
  | some (k, _) =>
    if bad.testBit k ∨ (List.range 9).any fun i => s.permanent ((d * 9 + k) * 9 + i) then s
    else
      let s1 := (s.modDie d fun x => { x with clusterMap := [] }).modCluster (d * 8 + k) fun c =>
        { c with coreMap := [], reserveUsed := false }
      { s1 with repair := { s1.repair with
          retiredClass := s1.repair.retiredClass.filter fun e => decide (e.1 / 9 ≠ d * 9 + k),
          dieReserve := s1.repair.dieReserve &&& ~~~(BitVec.ofNat 8 (2 ^ d)) } }
  | none => s

/-- The counts of the reserve pools follow the maps (Table 16-7). -/
def State.countReserves (s : State) : State :=
  let used := (s.clusters.filter fun c => c.2.reserveUsed).length
  let m := s.repair.dieReserve.toNat
  (s.setOd 0x2300 1 (64 - used)).setOd 0x2300 2 (m * 256 + (8 - (bitsOf m 8).length))

/-- Stage 8 on one die: re-tests, and at level 1 the reserve cluster for the one that failed. -/
def State.stageReserves (s : State) (d level detail : Nat) : State :=
  let s1 := s.retestCluster d detail
  let s2 : State := (List.range 8).foldl (fun s k => s.retestCore d detail (d * 8 + k)) s1
  let s3 := match s.failDetail 8 d with
    | some k =>
      if level = 1 ∧ (s2.getDie d).clusterMap.isEmpty ∧ k < 8 then
        let s3 := (s2.modDie d fun x => { x with clusterMap := tblSet id0 x.clusterMap k 8 }).modCluster (d * 8 + k) fun c =>
          { c with coreMap := [], reserveUsed := false }
        { s3 with repair := { s3.repair with dieReserve := s3.repair.dieReserve ||| BitVec.ofNat 8 (2 ^ d) } }
      else s2
    | none => s2
  s3.countReserves

/-- The rows of a stack that soft repair has replaced are repaired for good (10 R217). -/
def State.hardRepair (s : State) (m : Nat) : State :=
  { s with repair := { s.repair with
      hardRows := s.repair.hardRows ++ s.repair.softRows.filter (· == m), softRows := s.repair.softRows.filter (· != m) } }

/-- Stage 4 on one stack: hard repair of its rows; a spare channel, or the lower rate and its grade. -/
def State.stageHbm (s0 : State) (m level : Nat) : State :=
  let s := s0.hardRepair m
  if level = 2 then (s.setOd 0x2030 6 (s.od 0x2030 6 ||| 2 ^ m)).alertOn alGrade
  else if level = 1 ∧ (s.failDetail 4 m).isSome then
    ({ s with repair := { s.repair with chSpares := tblUpd nat0 s.repair.chSpares m (· + 1) } } : State).subOd 0x2300 3 1
  else s

/-- Stage 5 at level 1: mounted DEGRADED without the failed stack. -/
def State.stageFlash (s : State) (level : Nat) : State :=
  if level = 1 then
    let s1 : State := { s with repair := { s.repair with failedStacks := ((s.failDetail 5 0).map (· % 4)).toList } }
    s1.setOd 0x2300 6 1
  else s

/-- VERSION of a slot; 0 empty (Table 19-8). -/
def State.slotVersionOf (s : State) (k : Nat) : Nat := tblGet nat0 s.boot.slotVer k
def State.setSlotVer (s : State) (k v : Nat) : State :=
  { s with boot := { s.boot with slotVer := tblSet nat0 s.boot.slotVer k v } }

/-- Valid slots, the newest first; of equal VERSIONs the lower slot. -/
def State.slotsByAge (s : State) : List Nat :=
  sortBy (fun a b => decide (s.slotVersionOf a > s.slotVersionOf b)) ((List.range 3).filter fun k => s.slotVersionOf k != 0)

/-- The slot that stage 9 loads at a level: the activated one, otherwise the newest (R425, R434). -/
def State.slotAt (s : State) (level : Nat) : Option Nat :=
  match s.boot.nextBoot with
  | some k => if s.slotVersionOf k ≠ 0 then some k else s.slotsByAge[level]?
  | none => s.slotsByAge[level]?

def State.stageFirmware (s : State) (level : Nat) : State :=
  match s.slotAt level with
  | some k => { s with boot := { s.boot with running := k, nextBoot := none, fresh9 := false } }
  | none => s

/-- Tensor settings lie in the stored dictionary above this key. -/
def storedTensors : Nat := 2 ^ 32

/-- Writes the stored entries into the dictionary (18 R418); BEACON_PERIOD takes effect at the next boundary (02 R37). -/
def State.loadStored (s : State) : State :=
  let put (d : Dict) (e : Nat × W64) : Dict :=
    if e.1 < storedTensors then { d with od := tblSet odReset d.od e.1 e.2 }
    else { d with tensors := tblSet tensorReset d.tensors (e.1 - storedTensors) e.2 }
  let s1 : State := { s with dict := s.dict.stored.foldl put s.dict }
  { s1 with time := { s1.time with beaconNext := s1.od 0x2200 0xB } }

/-- Stage 10 (R425, 18 R418). -/
def State.stageDictionary (s : State) (level : Nat) : State :=
  let s1 := if level = 0 ∧ s.dict.storedValid ∧ ¬ s.dict.loadDefaults then s.loadStored else s
  { s1 with dict := { s1.dict with loadDefaults := false } }

/-- What a stage that passes leaves. -/
def State.stageEffect (s : State) (stage unit level detail : Nat) : State :=
  if stage = 1 then { s with power := { s.power with powered := true } }
  else if stage = 4 then s.stageHbm unit level
  else if stage = 5 then s.stageFlash level
  else if stage = 7 then s.setPort unit { s.getPort unit with state := 2 }
  else if stage = 8 then s.stageReserves unit level detail
  else if stage = 9 then s.stageFirmware level
  else if stage = 10 then s.stageDictionary level
  else s

/-! The order of stages -/

/-- A bus starts: the boot-up message, and Operational (18 Table 18-3, R420). -/
def State.busBoot (s : State) (b : Nat) : State :=
  let s1 := s.setBus b { s.bus b with nmt := 127 }
  let s2 := s1.canQueue b ⟨4, 0x700 + s.power.nodeId.toNat, [0]⟩
  s2.setBus b { s2.bus b with nmt := 5 }

/-- Stage 10 has ended: boot-up, and in service (R430). -/
def State.enterService (s : State) : State :=
  ({ s with boot := { s.boot with stage := 11, unit := 0 } } : State).busBoot 0 |>.busBoot 1

/-- The next unit, the next stage, or service. -/
def State.nextStage (s : State) : State :=
  let b := s.boot
  if b.unit + 1 < stageUnits b.stage then { s with boot := { b with unit := b.unit + 1 } }
  else if b.stage < 10 then { s with boot := { b with stage := b.stage + 1, unit := 0 } }
  else s.enterService

/-- RECOVERY (R429): the boot ROM serves the mailbox and both buses. -/
def State.enterRecovery (s : State) : State :=
  let s1 : State := { s with boot := { s.boot with recovery := true } }
  ((s1.setBus 0 { s1.bus 0 with nmt := 127 }).setBus 1 { s1.bus 1 with nmt := 127 }).alertOn alRecovery

/-- A stage fails at a level: the package restarts or enters RECOVERY; an optional stage leaves its unit (R425, R429). -/
def State.stageFail (s : State) (stage unit level : Nat) : State :=
  if stageMandatory stage then
    if level = stageLast stage ∨ s.boot.restarts ≥ 8 then s.enterRecovery
    else ({ s with boot := { s.boot with restarts := s.boot.restarts + 1 } } : State).beginStartup
  else if stage = 7 then (s.portDark unit).nextStage
  else ({ s with dict := { s.dict with loadDefaults := false } } : State).nextStage

/-- DETAIL of a result record; a node-ID of 0 is recorded with stage 10, in a form that the manual leaves open (18 R409). -/
def State.resultDetail (s : State) (stage detail : Nat) : Nat :=
  if stage = 10 ∧ s.power.nodeId = 0 then (Config.startupValue 10 detail).toNat % 2 ^ 32 else detail

/-- A stage runs for one unit at its level. -/
def State.runStage (s : State) (stage unit : Nat) (pass : Bool) (detail beginMs endMs : Nat) : State :=
  let l := s.stageLevel stage unit
  let s1 := s.journal stage unit 0 l 0 beginMs
  if stage = 7 ∧ l = 1 then (((s1.journal stage unit 3 l detail endMs)).portDark unit).nextStage
  else if pass ∧ endMs - beginMs ≤ stageLimit stage ∧ (stage ≠ 9 ∨ (s.slotAt l).isSome) then
    (((s.stageEffect stage unit l detail).journal stage unit 0 l 0 beginMs).journal
      stage unit 1 l (s.resultDetail stage detail) endMs).nextStage
  else (s1.journal stage unit 2 l (s.resultDetail stage detail) endMs).stageFail stage unit l

/-- Whether a stage and unit is the one to run. -/
def State.stageDue (s : State) (stage unit : Nat) : Bool :=
  s.boot.stage == stage && s.boot.unit == unit && !s.boot.recovery && decide (1 ≤ stage ∧ stage ≤ 10)

def execStartupStage (stage unit : Nat) (pass : Bool) (detail beginMs endMs : BitVec 32) (s : State) : Out :=
  .next (if s.stageDue stage unit then s.runStage stage unit pass detail.toNat beginMs.toNat endMs.toNat else s)

/-- The running stage passes its time limit. -/
def execStageTimeLimit (timeMs : BitVec 32) (s : State) : Out :=
  let n := s.boot.stage
  .next (if s.stageDue n s.boot.unit then s.runStage n s.boot.unit false 0 (timeMs.toNat - stageLimit n) timeMs.toNat else s)

/-! Updates and activation (R433 to R435) -/

/-- The target slot of an update: one without a valid image, otherwise the oldest that does not run. -/
def State.targetSlot (s : State) : Nat :=
  match (List.range 3).find? fun k => s.slotVersionOf k == 0 && (k != s.boot.running || s.boot.recovery) with
  | some k => k
  | none => ((s.slotsByAge.filter fun k => k != s.boot.running).getLast?).getD ((s.boot.running + 1) % 3)

/-- A Prism job, or a migration of a working copy's or master region's pages, runs (Table 19-4). -/
def State.weightsMoving (s : State) : Bool :=
  (s.dies.any fun d => d.2.prismRun.isSome) ||
    s.long.page.any fun p => p.2.moving.isSome &&
      (s.regionOf p.1).any fun r => rgWorking r.2 || s.long.region.any fun e => rgValid e.2 && rgWorking e.2 && rgMaster e.2 == r.1

/-- The reason of Table 19-4 that refuses an update, the lowest that holds. -/
def State.updateReason (s : State) (version : Nat) (verified moving charged : Bool) (mv : Nat) : Nat :=
  if moving ∨ s.weightsMoving then 1
  else if mv < 46000 then 2
  else if ¬ charged then 3
  else if s.od 0x2010 5 ≠ 0 then 4
  else if ¬ verified then 5
  else if version < s.slotVersionOf s.boot.running then 6
  else if s.boot.updating.isSome ∨ s.boot.handover.isSome ∨ s.boot.activate.isSome then 7
  else 0

/-- A write of UPDATE. -/
def State.writeUpdate (s : State) (v version : Nat) (verified moving charged : Bool) (mv : Nat) : State :=
  if v > 1 then s.abort abRange
  else if v = 0 then s.abort 0
  else
    let r := s.updateReason version verified moving charged mv
    if r ≠ 0 then (s.setOd 0x2020 8 r).abort abState
    else
      let t := s.targetSlot
      ({ s.setSlotVer t 0 with boot := { (s.setSlotVer t 0).boot with updating := some (t, version) } } : State).abort 0

def execUpdate (v : BitVec 8) (version : BitVec 32) (verified moving charged : Bool) (mv : Nat) (s : State) : Out :=
  .next (s.ownRow 0x202007 1 v.toNat fun s => s.writeUpdate v.toNat version.toNat verified moving charged mv)

/-- Steps 4 and 5 end: the image has been written through the governor, and is verified once more. -/
def execUpdateComplete (verified : Bool) (s : State) : Out :=
  match s.boot.updating with
  | none => .next s
  | some (t, v) =>
    let s1 := (({ s with boot := { s.boot with updating := none } } : State).flashWrite (cdiv (s.od 0x2020 6) 4096) none)
    if verified then
      let s2 := (s1.setSlotVer t v).setOd 0x2020 8 0
      .next { s2 with boot := { s2.boot with
        activate := if s.boot.recovery then none else some (t, s.time.boundaries),
        nextBoot := if s.boot.recovery then some t else s2.boot.nextBoot } }
    else .next (s1.setOd 0x2020 8 5)

/-- Presence within the last 60 s (18 R406, R439). -/
def State.present (s : State) : Bool := s.boot.presentAt.any fun n => decide (n ≤ 60000)

/-- A write of ACTIVATE_SLOT (R434). -/
def State.writeActivate (s : State) (v : Nat) : State :=
  if v > 2 then s.abort abRange
  else if s.slotVersionOf v = 0 then s.abort abState
  else if s.slotVersionOf v < s.slotVersionOf s.boot.running ∧ ¬ s.present then s.abort abPresence
  else (({ s with boot := { s.boot with activate := some (v, s.time.boundaries) } } : State).setOd 0x2020 9 v).abort 0

def execActivateSlot (v : BitVec 8) (s : State) : Out :=
  .next (s.ownRow 0x202009 1 v.toNat fun s => s.writeActivate v.toNat)

/-- Whether a boundary lets a handover begin: no job, descriptor, migration or phase runs. -/
def State.handoverIdle (s : State) : Bool :=
  (s.clusters.all fun c => c.2.solverRun.isNone) && (s.dies.all fun d => d.2.shardQ.isEmpty && d.2.prismRun.isNone)
    && (s.long.page.all fun p => p.2.moving.isNone)
    && s.ctxs.all fun c => c.2.phase2.isNone && (!c.2.stepRun || c.2.shards.isEmpty)

/-- The handover block at its beginning (Table 19-5); the place, length and digest of the saved state are open (log 12). -/
def State.handoverWord (s : State) (dst : Nat) (status : Nat) : BitVec 512 :=
  let v (k : Nat) : Nat := (Config.startupValue 435 (s.freeCtr + k)).toNat
  BitVec.ofNat 512 (s.time.sweep % 2 ^ 64 * 2 ^ 448 + v 0 * 2 ^ 384 + v 1 % 2 ^ 32 * 2 ^ 352
    + s.slotVersionOf s.boot.running % 2 ^ 32 * 2 ^ 320 + s.slotVersionOf dst % 2 ^ 32 * 2 ^ 288 + v 2 % 2 ^ 32 * 2 ^ 256 + status)

/-- The slot whose handover begins at the boundary that has just passed (R434). -/
def State.handoverDue (s : State) : Option Nat :=
  match s.boot.activate with
  | some (k, b) =>
    if s.boot.handover.isNone ∧ b < s.time.boundaries ∧ s.time.tick = 0 ∧ s.handoverIdle then some k else none
  | none => none

/-- The slot whose handover no boundary within 100,000 sweeps has let begin (R434). -/
def State.handoverLost (s : State) : Option Nat :=
  match s.boot.activate with
  | some (k, b) => if s.boot.handover.isNone ∧ b + 100000 ≤ s.time.boundaries then some k else none
  | none => none

/-- A handover begins at a boundary (R434, R435). -/
def execHandover (s : State) : Out :=
  match s.handoverDue with
  | some k =>
    .next { s with
      freeCtr := s.freeCtr + 3,
      boot := { s.boot with
        handover := some (s.slotVersionOf s.boot.running, k), handoverBlock := s.handoverWord k 1 } }
  | none => .next s

/-- The handover ends: the new image runs, and a block whose digest fails restores the stored dictionary (R435). -/
def execHandoverEnd (digestMatches : Bool) (s : State) : Out :=
  match s.boot.handover with
  | some (_, k) =>
    let s1 : State := { s with boot := { s.boot with
      handover := none, activate := none, running := k, fresh9 := true, handoverBlock := setFld s.boot.handoverBlock 7 0 0 } }
    if digestMatches then .next s1
    else
      let w : State := { s1 with dict := { s1.dict with
        od := s1.dict.od.filter fun e => (odFind e.1).all fun x => x.acc == .ro || x.acc == .const, tensors := [] } }
      .next ((if w.dict.storedValid then w.loadStored else w).journal 10 0 1 1 0
        ((Config.startupValue 10 s.freeCtr).toNat % 2 ^ 32)).draw
  | none => .next s

/-- No boundary has come within 100,000 sweeps: the slot is loaded at the next start-up (R434). -/
def execHandoverAbandon (s : State) : Out :=
  match s.handoverLost with
  | some k => .next { s with boot := { s.boot with activate := none, nextBoot := some k } }
  | none => .next s

/-! A loss of power (21 R461, R462) -/

/-- Everything held in stores and HBM is lost; a stage that was running has no result record (R428). -/
def State.powerDown (s : State) (trip : Option Nat) : State :=
  let s0 := if s.stageDue s.boot.stage s.boot.unit then
      s.journal s.boot.stage s.boot.unit 0 (s.stageLevel s.boot.stage s.boot.unit) 0
        ((Config.startupValue s.boot.stage s.freeCtr).toNat % 2 ^ 32)
    else s
  let s1 := s0.draw.packageReset
  { s1 with power := { s1.power with
      good := false, holdup := true, off := s.power.off || trip.isSome,
      tripCause := if trip.isSome then trip else s.power.tripCause } }

end Sys2Proof.Machine
end

