-- ==== Sys2Proof/Machine/Security.lean ====
section
/-!
DEFINITION. Presence, tamper and the presence-gated entries (19 R439, R440, Table 19-6), the trips and interlocks of the Aperture
(R441, R442), and attestation (R436 to R438).
-/

namespace Sys2Proof.Machine

/-! Presence -/

/-- Refuses an rwp write and counts it (18 R406). -/
def State.noPresence (s : State) : State := (s.addOd 0x2001 0xE 1).abort abPresence

/-- A press of PRES_BTN_N, with the jumper as it is sampled (R439, R440). -/
def execPresence (heldMs : Nat) (jumper : Bool) (s : State) : Out :=
  let shown : Bool := decide (1000 ≤ heldMs ∧ heldMs ≤ 5000) && jumper && !s.boot.sealOpen
  .next { s with boot := { s.boot with
    jumper := jumper,
    presentAt := if shown ∧ ¬ s.boot.tamper then some 0 else s.boot.presentAt,
    tamperPress := if shown ∧ s.boot.tamper then some 0 else s.boot.tamperPress } }

/-- The seal loop has been open, and is closed again or not (R440). -/
def execTamper (openMs : Nat) (closed : Bool) (s : State) : Out :=
  let s1 : State := { s with boot := { s.boot with
    sealOpen := !closed, tamper := s.boot.tamper || decide (openMs > 10), tamperPress := none } }
  .next (if openMs > 10 then s1.alertOn alTamper else s1)

/-- A write of an rwp flag entry that is held in the dictionary. -/
def State.writeOwnerLock (s : State) (v : Nat) : State :=
  if ¬ s.present then s.noPresence
  else if v > 1 then s.abort abRange
  else (s.setOd 0x2010 5 v).abort 0

def execOwnerLock (v : BitVec 8) (s : State) : Out := .next (s.ownRow 0x201005 1 v.toNat fun s => s.writeOwnerLock v.toNat)

/-- OWNER_TRANSFER (Table 19-6). -/
def State.writeOwnerTransfer (s : State) (v : Nat) : State :=
  if ¬ s.present then s.noPresence
  else if v ≠ 0x54524E53 then s.abort abRange
  else if ¬ s.quiescent then s.abort abState
  else ({ s with boot := { s.boot with transfer := true } } : State).abort 0

def execOwnerTransfer (v : BitVec 32) (s : State) : Out :=
  .next (s.ownRow 0x201006 4 v.toNat fun s => s.writeOwnerTransfer v.toNat)

/-- DEBUG_UNLOCK: the port stays open until the next start-up. -/
def State.writeDebugUnlock (s : State) (v : Nat) : State :=
  if ¬ s.present then s.noPresence
  else if v > 1 then s.abort abRange
  else ({ s with boot := { s.boot with debug := s.boot.debug || v == 1 } } : State).abort 0

def execDebugUnlock (v : BitVec 8) (s : State) : Out :=
  .next (s.ownRow 0x201007 1 v.toNat fun s => s.writeDebugUnlock v.toNat)

/-- TAMPER_CLEAR: while TAMPER is latched, a press made after the loop closed stands for presence (R440). -/
def State.writeTamperClear (s : State) (v : Nat) : State :=
  let ok := if s.boot.tamper then s.boot.tamperPress.any fun n => decide (n ≤ 60000) else s.present
  if ¬ ok then s.noPresence
  else if v > 1 then s.abort abRange
  else if v = 1 then
    (({ s with boot := { s.boot with tamper := false, tamperPress := none } } : State).alertOff alTamper).abort 0
  else s.abort 0

def execTamperClear (v : BitVec 8) (s : State) : Out :=
  .next (s.ownRow 0x201008 1 v.toNat fun s => s.writeTamperClear v.toNat)

/-- KEYS_REVOKED: a write only raises the count, and never revokes every entry (R432). -/
def State.writeKeysRevoked (s : State) (v : Nat) : State :=
  if ¬ s.present then s.noPresence
  else if v > 3 then s.abort abRange
  else if v < s.boot.revoked then s.abort abState
  else ({ s with boot := { s.boot with revoked := v } } : State).abort 0

def execKeysRevoked (v : BitVec 8) (s : State) : Out :=
  .next (s.ownRow 0x20200A 1 v.toNat fun s => s.writeKeysRevoked v.toNat)

/-- JOURNAL_RESET: an empty journal puts every level at 0 (R428). -/
def State.writeJournalReset (s : State) (v : Nat) : State :=
  if ¬ s.present then s.noPresence
  else if v > 1 then s.abort abRange
  else if v = 1 then ({ s with boot := { s.boot with journal := [], boot := 0 } } : State).abort 0
  else s.abort 0

def execJournalReset (v : BitVec 8) (s : State) : Out :=
  .next (s.ownRow 0x203004 1 v.toNat fun s => s.writeJournalReset v.toNat)

/-! The Aperture (Table 19-7) -/

/-- The ceiling in amperes by ILIM. -/
def ilimAmps (c : Nat) : Nat := if c = 0 then 90 else if c = 1 then 110 else if c = 2 then 130 else 145

/-- Input above the ceiling for 2 ms: the power stage goes off. -/
def execCurrentTrip (milliamp us : Nat) (s : State) : Out :=
  .next (if milliamp > 1000 * ilimAmps s.power.ilim.toNat ∧ us ≥ 2000 then s.powerDown (some 1) else s)

/-- A die above 115 °C, in hundredths of a degree. -/
def execThermalTrip (_die : Fin 10) (temp : Int) (s : State) : Out :=
  .next (if temp ≥ 11500 then s.powerDown (some 2) else s)

/-- The transmitters of a port go off. -/
def State.laserDark (s : State) (n : Nat) : State := s.setPort n { s.getPort n with laserOff := true }

/-- A mate-sense contact that opens darkens both ports of its connector (01 R17, 21 R467); a loss of signal its own port. -/
def execLaserInterlock (port : Fin 48) (mateOpen : Bool) (lossUs : Nat) (s : State) : Out :=
  .next (if mateOpen then (connectorPorts (portConnector port)).foldl State.laserDark s
    else if lossUs ≥ 100 then s.laserDark port else s)

/-- A probe pulse on a port held off; the transmitters return with the signal. -/
def execLaserProbePulse (port : Fin 48) (signalBack : Bool) (s : State) : Out :=
  .next (if (s.getPort port).laserOff ∧ signalBack then s.setPort port { s.getPort port with laserOff := false } else s)

/-! SPDM (R437). Message codes and the order of messages are SPDM's own (log 15). -/

/-- Bytes that the manual leaves to SPDM and to keys. -/
def State.openBytes (s : State) (code n : Nat) : List Byte := (List.range n).map fun i => Config.spdmByte (code + 256 * s.freeCtr) i

/-- Takes a request into the transcript; any request but request code 0x01 ends the pairing (R438). -/
def State.heard (s : State) (req : List Byte) : State :=
  { s with boot := { s.boot with transcript := s.boot.transcript ++ req, pair := false } }

/-- Answers a message: version, code, body. -/
def State.spdm (s : State) (code : Nat) (body : List Byte) : State :=
  let d : List Byte := [0x13, BitVec.ofNat 8 code] ++ body
  (({ s with boot := { s.boot with transcript := s.boot.transcript ++ d } } : State).answer stOk d).draw

/-- Answers with a body whose bytes are open. -/
def State.spdmOpen (s : State) (code : Nat) : State := s.spdm code (s.openBytes code (Config.spdmLength code))

/-- Answers ERROR. -/
def State.spdmError (s : State) (e : Nat) : State := s.answer stOk [0x13, 0x7F, BitVec.ofNat 8 e, 0]

def spInvalid : Nat := 1
def spUnexpected : Nat := 4
def spDecrypt : Nat := 6
def spLarge : Nat := 0xF

def signatureOf (slh : Bool) (t : List Byte) (n : Nat) : List Byte := (List.range n).map fun i => Config.signature slh t i

/-- Answers a signed message: the RSA signature covers the transcript so far, and its SLH-DSA twin is awaited. -/
def State.spdmSigned (s : State) (code : Nat) (body : List Byte) : State :=
  let s1 : State := { s with boot := { s.boot with
    transcript := s.boot.transcript ++ [0x13, BitVec.ofNat 8 code] ++ body, pair := true } }
  (s1.answer stOk ([0x13, BitVec.ofNat 8 code] ++ body ++ signatureOf false s1.boot.transcript 384)).draw

def execGetVersion (s : State) : Out :=
  let s1 : State := { s with boot := { s.boot with
    spdm := 1, session := 0, pair := false, chunks := [], chunkNo := 0, large := none, transcript := [0x84] } }
  .next (s1.spdmOpen 4)

def execGetCapabilities (s : State) : Out :=
  let s1 := s.heard [0xE1]
  if s.boot.spdm = 0 then .next (s1.spdmError spUnexpected)
  else .next (({ s1 with boot := { s1.boot with spdm := 2 } } : State).spdmOpen 0x61)

/-- The algorithms that the responder supports, by a number each: RSASSA_3072, SHA-384, secp384r1, AES-256-GCM. -/
def spdmAlgorithms : List Nat := [1, 2, 3, 4]

def execNegotiateAlgorithms (offered : List Nat) (s : State) : Out :=
  let s1 := s.heard [0xE3]
  if s.boot.spdm < 2 then .next (s1.spdmError spUnexpected)
  else if ¬ spdmAlgorithms.all offered.contains then .next (s1.spdmError spInvalid)
  else .next (({ s1 with boot := { s1.boot with spdm := 3 } } : State).spdmOpen 0x63)

def execGetDigests (s : State) : Out :=
  let s1 := s.heard [0x81]
  .next (if s.boot.spdm < 3 then s1.spdmError spUnexpected else s1.spdmOpen 1)

/-- A portion of the certificate chain of a slot. -/
def execGetCertificate (slot offset length : Nat) (s : State) : Out :=
  let s1 := s.heard [0x82, BitVec.ofNat 8 slot]
  let n := Config.spdmLength (0x200 + slot)
  if s.boot.spdm < 3 then .next (s1.spdmError spUnexpected)
  else if offset ≥ n then .next (s1.spdmError spInvalid)
  else .next (s1.spdm 2 ((List.range (Nat.min length (n - offset))).map fun i => Config.spdmByte (0x200 + slot) (offset + i)))

def execChallenge (slot : Nat) (nonce : List Byte) (s : State) : Out :=
  let s1 := s.heard ([0x83, BitVec.ofNat 8 slot] ++ nonce)
  .next (if s.boot.spdm < 3 then s1.spdmError spUnexpected
    else s1.spdmSigned 3 (s1.openBytes 3 (Config.spdmLength 3)))

/-- What a measurement block covers (R437): 1 mask ROM, 2 the loader, 3 the running image, 4 the Aperture's settings, 5 the owner
lock, debug unlock and tamper state. -/
def State.measured (s : State) (k : Nat) : List Byte :=
  if k = 3 then [3, BitVec.ofNat 8 s.boot.running] ++ leBytes 4 (s.slotVersionOf s.boot.running)
  else if k = 4 then
    [4, BitVec.ofNat 8 (ilimAmps s.power.ilim.toNat)] ++ leBytes 2 11500 ++ leBytes 2 s.host.allow.length ++ [0x20] ++ leBytes 2 200
  else if k = 5 then
    [5, BitVec.ofNat 8 (s.od 0x2010 5), if s.boot.debug then 1 else 0, if s.boot.tamper then 1 else 0]
  else [BitVec.ofNat 8 k]

/-- One block: its number and its digest. -/
def State.measurement (s : State) (k : Nat) : List Byte :=
  BitVec.ofNat 8 k :: (List.range 48).map fun i => Config.sha384 (s.measured k) i

/-- The blocks that a request names: 0 their number alone, 0xFF all, otherwise one. -/
def State.measurements (s : State) (block : Nat) : Option (List Byte) :=
  if block = 0 then some [5]
  else if block = 0xFF then some ([1, 2, 3, 4, 5].flatMap s.measurement)
  else if block ≤ 5 then some (s.measurement block)
  else none

def execGetMeasurements (signed : Bool) (block : Nat) (nonce : List Byte) (s : State) : Out :=
  let s1 := s.heard ([0xE0, if signed then 1 else 0, BitVec.ofNat 8 block] ++ nonce)
  if s.boot.spdm < 3 then .next (s1.spdmError spUnexpected)
  else match s1.measurements block with
    | none => .next (s1.spdmError spInvalid)
    | some d => .next (if signed then s1.spdmSigned 0x60 d else s1.spdm 0x60 d)

def execKeyExchange (exchange : List Byte) (s : State) : Out :=
  let s1 := s.heard (0xE4 :: exchange)
  .next (if s.boot.spdm < 3 then s1.spdmError spUnexpected
    else ({ s1 with boot := { s1.boot with session := 1 } } : State).spdmOpen 0x64)

def execFinish (verifies : Bool) (s : State) : Out :=
  let s1 := s.heard [0xE5]
  .next (if s.boot.session ≠ 1 then s1.spdmError spUnexpected
    else if ¬ verifies then ({ s1 with boot := { s1.boot with session := 0 } } : State).spdmError spDecrypt
    else ({ s1 with boot := { s1.boot with session := 2 } } : State).spdmOpen 0x65)

def execEndSession (s : State) : Out :=
  let s1 := s.heard [0xEC]
  .next (if s.boot.session ≠ 2 then s1.spdmError spUnexpected
    else ({ s1 with boot := { s1.boot with session := 0 } } : State).spdmOpen 0x6C)

/-- A chunk of a large request; chunk 0 begins one. -/
def execChunkSend (seq : Nat) (last : Bool) (data : List Byte) (s : State) : Out :=
  let s1 := s.heard []
  if seq ≠ 0 ∧ seq ≠ s.boot.chunkNo then .next (s1.spdmError spInvalid)
  else
    let all := if seq = 0 then data else s.boot.chunks ++ data
    .next (({ s1 with boot := { s1.boot with
      chunks := all, chunkNo := if last then 0 else seq + 1,
      transcript := if last then s1.boot.transcript ++ all else s1.boot.transcript } } : State).answer stOk
        [0x13, 0x05, 0, 0, BitVec.ofNat 8 seq])

/-- A chunk of a large response: bytes of the SLH-DSA signature over the transcript that the RSA signature covered. -/
def execChunkGet (seq : Nat) (size : Nat) (s : State) : Out :=
  match s.boot.large with
  | some (code, n) =>
    if seq * size < n then
      let d := (List.range (Nat.min size (n - seq * size))).map fun i => Config.signature true s.boot.transcript (seq * size + i)
      let done : Bool := decide ((seq + 1) * size ≥ n)
      .next (({ s with boot := { s.boot with large := if done then none else some (code, n) } } : State).answer stOk
        ([0x13, 0x06, if done then 1 else 0, 0, BitVec.ofNat 8 seq] ++ d))
    else .next (s.spdmError spInvalid)
  | none => .next (s.spdmError spUnexpected)

/-- Request code 0x01 right after a signed response: the SLH-DSA signature, by chunks; otherwise ERROR (R438). -/
def execVendorDefinedRequest (standard vendor : Nat) (code : BitVec 8) (s : State) : Out :=
  if standard = 3 ∧ vendor = Config.pciVendor ∧ code = 1 ∧ s.boot.pair then
    .next (({ s with boot := { s.boot with pair := false, large := some (0x7E, 16224) } } : State).spdmError spLarge)
  else .next (({ s with boot := { s.boot with pair := false } } : State).spdmError spInvalid)

end Sys2Proof.Machine
end

