-- ==== Sys2Proof/Machine/Scheduled.lean ====
section
/-!
DEFINITION. Events scheduled on the time base (02 R47, Table 02-4): which are due, the order in which the events of one
context take effect (R50, Table 02-5), and what each does.

An event that is due takes effect before the running tick ends: TICK and SWEEP_BOUNDARY wait for it (log 2).
-/

namespace Sys2Proof.Machine

/-! What is due -/

/-- The place of an event among those of its context: its point, then its order in Table 02-5. -/
def eventKey (p : Nat × Nat) (order : Nat) : Nat := lin p * 16 + order

/-- The point of a sweep boundary, from its number. -/
def State.boundaryPoint (s : State) (b : Nat) : Nat × Nat := (s.time.sweep + b - s.time.boundaries, 0)

/-- The release point of a barrier that is due (12 R294). -/
def State.releaseDue (s : State) (b : Nat) : Option (Nat × Nat) :=
  let w := s.barrier b
  match (s.barCollect b).release with
  | some q =>
    if barState w = 3 ∧ s.reached q ∧ (s.getCtx (barCtx w)).state ≠ 2 ∧ ¬ s.cutCovers (barCtx w) q then some q else none
  | none => none

/-- The step start of a context that is due (13 R301). -/
def State.stepDue (s : State) (ctx : Nat) : Option (Nat × Nat) :=
  let x := s.getCtx ctx
  match x.startAt with
  | some p => if s.reached p ∧ x.active ∧ ¬ x.stepRun ∧ ¬ s.cutCovers ctx p then some p else none
  | none => none

/-- Whether a due cut covers an event of a core, by its context. -/
def State.coreCut (s : State) (core : Nat) (p : Nat × Nat) : Bool :=
  match s.ctxOfCore core with
  | some c => s.cutCovers c p
  | none => false

/-- The start of an armed core that is due (03 R81). -/
def State.coreDue (s : State) (core : Nat) : Option (Nat × Nat) :=
  let c := s.getCore core
  match c.armedAt with
  | some p => if c.run = .armed ∧ s.reached p ∧ ¬ s.coreCut core p then some p else none
  | none => none

/-- The deadline of a solver job that misses it (08 R187). -/
def State.solverLate (s : State) (cluster : Nat) : Option (Nat × Nat) :=
  match (s.getCluster cluster).solverRun with
  | some r => if s.reached (jDeadline r.desc) ∧ r.missesDeadline then some (jDeadline r.desc) else none
  | none => none

/-- The deadline of a Prism job that has passed (14 R326). -/
def State.prismLate (s : State) (die : Nat) : Option (Nat × Nat) :=
  match (s.getDie die).prismRun with
  | some r => if s.reached (pjDeadline r.desc) ∧ ¬ r.stopped then some (pjDeadline r.desc) else none
  | none => none

/-- Remaps and channel switches whose boundary has come (16 R366, 10 R217). -/
def State.remapsDue (s : State) : List Remap := s.repair.remaps.filter fun r => decide (r.boundary ≤ s.time.boundaries)
def State.copyDue (s : State) (e : Nat × Nat × Option Nat) : Bool := e.2.2.any fun b => decide (b ≤ s.time.boundaries)

/-- The system epoch that EPOCH_START asked for is due (02 R37). -/
def State.epochDue (s : State) : Bool := s.time.epochAt.any fun b => decide (b ≤ s.time.boundaries)

/-- The holdover limit has passed (02 R44). -/
def State.holdoverDue (s : State) : Bool :=
  s.time.source == .holdover && !s.time.locked
    && s.time.holdFrom.any fun b => decide (b + s.od 0x2200 0xC ≤ s.time.boundaries)

/-- The places of a context's due events. -/
def State.dueKeys (s : State) (c : Nat) : List Nat :=
  ((dueCuts s.time.boundaries s.cuts).filter fun k => k.contexts.getLsbD c).map (fun k => eventKey (s.boundaryPoint k.boundary) 1)
    ++ (s.remapsDue.filter fun r => s.ctxOfCluster (r.core / 8) == some c).map (fun r => eventKey (s.boundaryPoint r.boundary) 2)
    ++ (s.switchDue c).toList.map (fun p => eventKey p 4)
    ++ (s.barriers.filterMap fun b => if barCtx b.2 = c then s.releaseDue b.1 else none).map (fun p => eventKey p 5)
    ++ (s.stepDue c).toList.map (fun p => eventKey p 6)
    ++ (s.cores.filterMap fun n => if s.ctxOfCore n.1 = some c then s.coreDue n.1 else none).map (fun p => eventKey p 6)
    ++ ((s.clustersOf c).filterMap s.solverLate).map (fun p => eventKey p 7)
    ++ (s.dies.filterMap fun d => if d.2.prismRun.any fun r => pjCtx r.desc == c then s.prismLate d.1 else none).map
      (fun p => eventKey p 7)

/-- No due event of the context comes before this place (R50). -/
def State.isFirst (s : State) (c key : Nat) : Bool := (s.dueKeys c).all fun k => decide (key ≤ k)

/-- The same for the context, if any, that owns a cluster. -/
def State.isFirstIn (s : State) (cluster key : Nat) : Bool :=
  match s.ctxOfCluster cluster with
  | some c => s.isFirst c key
  | none => true

/-- A cluster's queued job starts, or its running job ends, in the running tick (08 R173); a start waits while a ladder holds what the job
reads (10 R243). -/
def State.solverWaits (s : State) (k : Nat) : Bool :=
  ((s.getCluster k).solverRun.any fun r => s.jobDone r && !s.jobHeld r.desc)
    || (s.jobReady k).any fun d => (s.ownRanges (s.jobReads (s.engineCtx k) d)).all fun r => (s.heldAt r.1 r.2).isNone

/-- Some scheduled event is due: the running tick does not end before it has taken effect (R47; log 2). -/
def State.eventsDue (s : State) : Bool :=
  !(dueCuts s.time.boundaries s.cuts).isEmpty || !s.remapsDue.isEmpty || s.repair.copies.any s.copyDue
    || (s.ctxs.any fun c => (s.switchDue c.1).isSome || s.switchLate c.1 || (s.stepDue c.1).isSome)
    || (s.barriers.any fun b => (s.releaseDue b.1).isSome)
    || (s.cores.any fun c => (s.coreDue c.1).isSome)
    || (s.clusters.any fun c => (s.solverLate c.1).isSome || s.solverWaits c.1)
    || (s.dies.any fun d => (s.prismLate d.1).isSome)
    || (s.snapshotDue && (s.getCore 0).shadowSweep.toNat != s.time.sweep)
    || (s.obs.winCount.any fun e => s.windowDue e.1) || (s.ctxs.any fun c => s.holdOver c.1) || s.epochDue || s.holdoverDue

/-! Order 3: SYNC records (17 R380) -/

/-- The SYNC records of the boundary just passed, once no cut and no remap is due (Table 02-5). -/
def State.syncStep (s : State) : State :=
  if s.time.syncDue ∧ dueCuts s.time.boundaries s.cuts = [] ∧ s.remapsDue = [] ∧ ¬ s.repair.copies.any s.copyDue then
    let s1 : State := { s with time := { s.time with syncDue := false } }
    s1.clusters.foldl (fun s c => if c.2.tState = 2 then s.tracePush c.1 (syncWord s) else s) s1
  else s

/-! Order 1: the Shutter stop (15 R355) -/

/-- The cuts of a boundary, taken together. -/
def State.takeCuts (s : State) (c0 : Cut) (due : List Cut) : State :=
  let mask := (cutMask due).toNat &&& s.activeMask
  let sweep := (s.boundaryPoint c0.boundary).1
  let reason := (due.find? fun c => c.contexts.toNat &&& s.activeMask != 0).getD c0 |>.reason
  let fired : Bool := s.armedCut.any fun c => decide (c.boundary ≤ s.time.boundaries)
  let s1 : State := { s with
    cuts := s.cuts.filter fun c => decide (c.boundary > s.time.boundaries),
    armedCut := if fired then none else s.armedCut,
    shutter := if fired then setFld s.shutter 3 2 2 else s.shutter,
    power := { s.power with shutterOut := s.power.shutterOut || due.any fun c => (s.od 0x2700 7).testBit c.reason } }
  if mask = 0 then s1
  else
    let s2 : State := (bitsOf mask 16).foldl (fun s x => (s.cutRecord x reason sweep).stopCtx x) s1
    let s3 := s2.emcy 0xFF42 (sweep % 2 ^ 32 * 2 ^ 32 + mask * 2 ^ 16 + reason)
    { s3 with drains := s3.drains ++ [⟨c0.boundary, BitVec.ofNat 16 mask, reason⟩] }

/-- The cut: events of its contexts that a shortened sweep lost come before it (02 R43). -/
def execShutterCut (s : State) : Out :=
  match dueCuts s.time.boundaries s.cuts with
  | [] => .next s
  | c0 :: r =>
    let key := eventKey (s.boundaryPoint c0.boundary) 1
    if (bitsOf (cutMask (c0 :: r)).toNat 16).all fun c => s.isFirst c key then .next (s.takeCuts c0 (c0 :: r)).syncStep
    else .next s

/-! Order 2: remaps (16 R366) and channel switches (10 R217) -/

/-- The remaps of a boundary take effect. -/
def execReserveRemap (s : State) : Out :=
  if s.remapsDue.all fun r => s.isFirstIn (r.core / 8) (eventKey (s.boundaryPoint r.boundary) 2) then
    .next (s.remapsDue.foldl State.remap
      { s with repair := { s.repair with remaps := s.repair.remaps.filter fun r => decide (r.boundary > s.time.boundaries) } }).syncStep
  else .next s

/-- The switch to the spare channel (R217, 16 Table 16-5): the pool, LAST_REPAIR, EMCY FF20h, a REPAIR record in the clusters of the
stack's die, and an event of 02 R53. -/
def execChannelSwitch (stack : Fin 16) (channel : Fin 32) (s : State) : Out :=
  match s.repair.copies.find? fun c => c.1 == stack.val && c.2.1 == channel.val with
  | some (a, b, some at_) =>
    if at_ ≤ s.time.boundaries ∧ dueCuts s.time.boundaries s.cuts = [] then
      let unit := a * 34 + b
      let w := repairWord 3 0 unit s.time.sweep
      let s1 : State := { s with repair := { s.repair with
        copies := s.repair.copies.filter fun c => !(c.1 == a && c.2.1 == b),
        chErrors := tblSet nat0 s.repair.chErrors (a * 32 + b) 0 } }
      let s2 := (s1.memRepaired 2 3 3 unit).emcy 0xFF20 w
      let s3 : State := (List.range 8).foldl (fun s k => s.repairRecord (a / 2 * 8 + k) 3 0 unit) s2
      .next (s3.breakEvent 1 ((List.range 16).filter fun c => (s.getCtx c).state != 0)).syncStep
    else .next s
  | _ => .next s

/-! Order 4: weight-version switches (14 R320) -/

/-- A switch takes effect once it is the first event of its context. -/
def State.switchFirst (s : State) (ctx : Nat) : Option (Nat × Nat) :=
  match s.switchDue ctx with
  | some q => if s.isFirst ctx (eventKey q 4) then some q else none
  | none => none

def execSwitchEffect (ctx : Fin 16) (s : State) : Out :=
  match s.switchFirst ctx with
  | some q => .next (s.switchNow ctx q.1)
  | none => .next s

/-! Order 5: barrier releases (12 R294) -/

/-- The switch that takes effect at this release, before it. -/
def State.switchAt (s : State) (b : Nat) : State :=
  let ctx := barCtx (s.barrier b)
  let x := s.getCtx ctx
  if x.role = 2 ∧ swBarrier x.switch = b then
    match s.switchFirst ctx with
    | some q => s.switchNow ctx q.1
    | none => s
  else s

/-- The release of a barrier at `q`: ACTUAL_SWEEP, ACTUAL_TICK, IDLE, and NOTIFY_CTR of every core of the context. -/
def State.releaseAt (s : State) (b : Nat) (q : Nat × Nat) : State :=
  let w := s.barrier b
  let v := setFld (setFld (setFld w 447 384 q.1) 292 282 q.2) 245 243 0
  let s1 := (s.setBarrier b v).setBarCollect b { s.barCollect b with release := none, arrived := false, kids := [], votes := 0 }
  (s1.coresOf (barCtx w)).foldl (fun s n => s.ctrAdd n (barNotify w) 1) s1

def execBarrierRelease (b : Fin 256) (commit : Option CommitMap) (s : State) : Out :=
  let w := s.barrier b
  let ctx := barCtx w
  match s.releaseDue b with
  | some q =>
    let s1 := s.switchAt b
    if s1.isFirst ctx (eventKey q 5) then
      let s2 := s1.releaseAt b q
      let x := s2.getCtx ctx
      match commit with
      | some map => if x.stepRun ∧ x.phase2.isNone then .next (s2.decideStep ctx (barVoteOut w) map) else .next s2
      | none => .next s2
    else .next s
  | none => .next s

/-! Order 6: step starts (13 R301) and core starts (03 R81) -/

/-- What a step start does: every idle core armed for the same point, the digest slots, the schedule, the watches. -/
def State.beginStep (s : State) (ctx : Nat) (p : Nat × Nat) : State :=
  let s1 := s.modCtx ctx fun x =>
    { x with startAt := none, stepRun := true, stepStartSweep := p.1, voted := false, rederived := false }
  (((s1.armCores ctx p).digestsStart ctx).scheduleStart ctx).watchesStart ctx

/-- A step starts at its point. -/
def execStepStart (ctx : Fin 16) (s : State) : Out :=
  match s.stepDue ctx with
  | some p => if s.isFirst ctx (eventKey p 6) then .next (s.beginStep ctx p) else .next s
  | none => .next s

/-- An armed core enters RUNNING at its point. -/
def execCoreStart (core : Fin 512) (s : State) : Out :=
  let c := s.getCore core
  match s.coreDue core with
  | some p =>
    if s.isFirstIn (core / 8) (eventKey p 6) then
      .next (s.setCore core { c with run := .running, armedAt := none, pc := c.entry })
    else .next s
  | none => .next s

/-! Order 7: deadline checks (08 R187, 14 R326) -/

def execSolverDeadlineCheck (cluster : Fin 64) (s : State) : Out :=
  match s.solverLate cluster, (s.getCluster cluster).solverRun with
  | some p, some r =>
    if s.isFirstIn cluster (eventKey p 7) then .next (s.abandonJob cluster r) else .next s
  | _, _ => .next s

def execPrismDeadlineCheck (die : Fin 8) (s : State) : Out :=
  match s.prismLate die, (s.getDie die).prismRun with
  | some p, some r => if s.isFirst (pjCtx r.desc) (eventKey p 7) then .next (s.prismMiss die) else .next s
  | _, _ => .next s

end Sys2Proof.Machine
end

