-- ==== Sys2Proof/Machine/TimeBase.lean ====
section
/-!
DEFINITION. The time base (02): SYSREF, ticks and sweep boundaries, SWEEP edges, beacons, the epoch, re-phasing,
holdover and HBM refresh.
-/

namespace Sys2Proof.Machine

def State.setTime (s : State) (f : TimeBase → TimeBase) : State := { s with time := f s.time }

/-- Counts a phase error; the third of a run sends EMCY FF02h and holds ALERT_N (02 R42). -/
def State.phaseError (s : State) (err : Int) : State :=
  let s1 := (s.addOd 0x2200 7 1).setTime fun t => { t with errRun := t.errRun + 1 }
  if s1.time.errRun = 3 then
    ((s1.emcy 0xFF02 (err % 2 ^ 64).toNat).alertOn alPhase).setTime fun t => { t with phaseAlarm := true }
  else s1

/-- An edge within tolerance ends the run (02 R42). -/
def State.phaseGood (s : State) : State :=
  (s.alertOff alPhase).setTime fun t => { t with errRun := 0, phaseAlarm := false }

/-- Whether TIMING_MASTER is set (02 Table 02-7). -/
def State.master (s : State) : Bool := s.od 0x2200 4 == 1

/-- The state a module enters when it takes a count (02 R40). -/
def TimeBase.phaseSource (t : TimeBase) : TimeSource := if t.sweepWired then .wired else .beacon

/-- Sends a beacon to every VALID route entry (02 R37). -/
def State.sendBeacons (s : State) : State :=
  s.routes.foldl (fun s r =>
    if flag r.2 31 ∧ r.1 < 49152 then s.send (s.mkFrame r.1 7 0 {} (leBytes 8 s.time.sweep)) 65536 hubH0 else s) s

/-- Beacons that are due at the boundary just passed (02 R37, R41). -/
def State.beaconsDue (s : State) : Bool :=
  s.master && s.time.epochUsed && s.time.held && decide (s.time.beaconPeriod ≠ 0 ∧ s.time.sweep % s.time.beaconPeriod = 0)

/-- Tokens of the CAN limit, the presence age and the governor advance with the boundaries (19 Table 19-7, 10 R223). -/
def State.boundaryTimers (s : State) : State :=
  let b := s.time.boundaries
  let refill (x : Bus) : Bus := if b % 500 = 0 then { x with bucket := min 32 (x.bucket + 1) } else x
  { s with
    long := { s.long with governor := min 64000000000 (s.long.governor + 2777) },
    dict := { s.dict with busA := refill s.dict.busA, busB := refill s.dict.busB },
    boot := if b % 100 = 0 then
        { s.boot with presentAt := s.boot.presentAt.map (· + 1), tamperPress := s.boot.tamperPress.map (· + 1) }
      else s.boot,
    repair := { s.repair with chErrors := if b % 360000000 = 0 then [] else s.repair.chErrors },
    ports := s.ports.map fun p => (p.1, { p.2 with replaysSweep := 0 }),
    obs := { s.obs with winCount := s.obs.window.foldl (fun t w =>
      if flag w.2 69 ∧ flag w.2 70 then tblUpd nat0 t w.1 (· + 1) else t) s.obs.winCount },
    host := { s.host with
      msixReady := s.host.msixReady ++ s.host.msixPend.filter (fun v => !s.host.msixReady.contains v), msixPend := [], msixSent := [] } }

/-- A sweep boundary (02 R36): the count, the tick, the timers, the SYNC records (17 R380), the beacons. -/
def State.boundary (s : State) : State :=
  let s1 := s.draw.setTime fun t =>
    { t with sweep := if t.held then (t.sweep + 1) % 2 ^ 64 else t.sweep, tick := 0, shownCc := 0, syncDue := true,
             boundaries := t.boundaries + 1, beaconPeriod := t.beaconNext }
  let s2 := s1.boundaryTimers.syncStep
  if s2.beaconsDue then s2.sendBeacons else s2

/-- Places the boundary just passed `cc` cycles back: the phase of the boundaries is set (02 R36, R45). -/
def State.setPhase (s : State) (cc : Nat) : State :=
  s.boundary.setTime fun t => { t with tick := cc % 22500 / 18, shownCc := cc % 18 }

/-- SYSREF locks, within ±100 ppm of 125 MHz (02 R34, R40, 21 R465); a held count relocks by SYSREF_RETURN. -/
def execSysrefLock (ppm : Int) (s : State) : Out :=
  if ppm.natAbs ≤ 100 ∧ ¬ s.time.locked ∧ ¬ s.time.held then
    .next (s.setTime fun t => { t with locked := true, everLocked := true })
  else .next s

/-- SYSREF is lost (02 R40, R44). -/
def execSysrefLoss (s : State) : Out :=
  if s.time.locked then
    if s.time.held then
      .next ((s.setTime fun t => { t with
        locked := false, prevSource := if t.source = .holdover then t.prevSource else t.source, source := .holdover,
        holdFrom := some t.boundaries }).emcy 0xFF03 0)
    else .next (s.setTime fun t => { t with locked := false })
  else .next s

/-- The delay by which an instant of a source's phase is corrected: SWEEP_DELAY, or BEACON_DELAY (02 R38, R45). -/
def State.phaseDelay (s : State) (src : TimeSource) : Nat := if src = .wired then s.od 0x2200 5 else s.od 0x2200 0x10

/-- SYSREF is still within the holdover limit (02 R44). -/
def State.withinHoldover (s : State) : Bool :=
  s.time.holdFrom.any fun b => decide (s.time.boundaries < b + s.od 0x2200 0xC)

/-- SYSREF returns (02 R44). `errCc` is the distance of the phase source's next edge or beacon from the boundary as
received, before its delay is taken off. In agreement and within the limit the previous state returns; otherwise the
module stays in HOLDOVER without further drift, and a disagreement counts as a phase error. After the limit has passed
the module keeps HOLDOVER in any case (log 19). -/
def execSysrefReturn (errCc : Int) (s : State) : Out :=
  if s.time.locked ∨ ¬ s.time.everLocked then .next s
  else if ¬ s.time.held then .next (s.setTime fun t => { t with locked := true })
  else
    let e := errCc - (s.phaseDelay s.time.prevSource : Int)
    let agrees := decide (e.natAbs ≤ (if s.time.prevSource = .wired then 2 else 72))
    if s.withinHoldover ∧ ¬ s.time.drifted ∧ agrees then
      .next (s.setTime fun t => { t with locked := true, holdFrom := none, source := t.prevSource })
    else
      let s1 := s.setTime fun t => { t with locked := true, holdFrom := none, drifted := true }
      if agrees then .next s1
      else
        let s2 := s1.phaseError e
        .next (if s2.time.errRun = 3 then s2 else s2.emcy 0xFF02 (e % 2 ^ 64).toNat)

/-- What a tick's cycles do: they are counted as run and stalled, refill the buckets of the shaped classes, drain the
traces, and let solver jobs begin to write their roots. -/
def State.passTick (s : State) : State :=
  let s1 : State := { s with
    cores := s.cores.map fun e => (e.1, if e.2.run = .running then e.2.runTick (s.stallCause e.1) else e.2)
    ports := s.ports.map fun p => (p.1, p.2.refill) }
  s1.clusters.foldl (fun s c => (s.traceDrain c.1).rootBeginBy c.1 ((lin s1.now + 1) * 18)) s1

/-- An event is due in the running tick: a scheduled one, a handover (19 R434), or a vector whose boundary has come (20 R455). -/
def State.tickHeld (s : State) : Bool := s.eventsDue || s.handoverDue.isSome || s.handoverLost.isSome || s.host.msixReady.any s.vectorDue

/-- One tick (02 R35), counted once SYSREF has first locked and once every event due in the running tick has taken
effect (R47; log 2). The row is the tick boundary that SYSREF_DELAY has placed (R45; log 118). -/
def execTick (s : State) : Out :=
  if s.time.everLocked ∧ s.time.tick < 1249 ∧ ¬ s.tickHeld then
    .next (s.passTick.draw.setTime fun t => { t with tick := t.tick + 1, shownCc := 0 })
  else .next s

/-- The moved boundary of a re-phase (02 R43): it ends the running sweep, numbers nothing anew, and ends a drifted
HOLDOVER. -/
def State.rephaseNow (s : State) : State :=
  let s1 := s.breakEvent 2 ((List.range 16).filter fun c => (s.getCtx c).state != 0)
  (s1.setTime fun t => { t with
    rephaseReq := false, drifted := false,
    source := if t.source = .holdover ∧ t.locked then t.prevSource else t.source }).boundary

/-- The boundary after 1,250 ticks (02 R36). The next boundary after a write of REPHASE is the re-phase, and one that comes
after 1,250 ticks is moved by nothing (R43). -/
def execSweepBoundary (s : State) : Out :=
  if s.time.everLocked ∧ s.time.tick = 1249 ∧ ¬ s.tickHeld then .next (if s.time.rephaseReq then s.passTick.rephaseNow else s.passTick.boundary)
  else .next s

/-- A SWEEP edge with its distance from the predicted boundary as received, before SWEEP_DELAY is taken off (02 R42, R45,
21 R465), and the time since the previous edge. The first edge that a locked module without a count receives sets the phase of its
boundaries and is compared with nothing (R36; DEDUCED, log 118). That an accepted edge makes the SWEEP pulse wired is
the model's reading (R40; DESIGN CHOICE, log 118). -/
def execSweepEdge (errCc : Int) (sinceNs : Nat) (s : State) : Out :=
  let e := errCc - (s.od 0x2200 5 : Int)
  if sinceNs < 9000 then .next (s.phaseError e)
  else
    let s1 := s.setTime fun t => { t with sweepWired := true }
    if ¬ s.time.everLocked then .next s1
    else if ¬ s.time.held ∧ ¬ s.time.phased then
      .next ((s1.setTime fun t => { t with phased := true }).setPhase (s.od 0x2200 5))
    else if e.natAbs > 2 then .next (s1.phaseError e) else .next s1.phaseGood

/-- The boundary, counted from the running sweep's start, nearest to an instant of that sweep; of two equally near
the earlier (02 R38). -/
def nearestBoundary (pos : Int) : Int := -((11250 - pos) / 22500)

/-- A beacon of a second master (02 R41). -/
def State.foreignBeacon (s : State) (src : Nat) : State :=
  ((s.addOd 0x2200 8 1).setOd 0x2200 0xF src).emcy 0xFF04 src

/-- Takes the count, and with no SWEEP pulse wired the phase, from a beacon (02 R38). With a pulse wired the count belongs to
the module's own boundary `j`; where that boundary is still to come and its count is 0, the count before it is not
stated, and the model counts back from it modulo 2^64 (DESIGN CHOICE, log 117). -/
def State.takeBeacon (s : State) (src count : Nat) (j : Int) : State :=
  let delay := s.od 0x2200 0x10
  let s1 := if s.time.sweepWired then s else s.setPhase delay
  s1.setTime fun t => { t with
    held := true, beaconFrom := some src, source := t.phaseSource,
    sweep := if t.sweepWired then (((count : Int) - j) % 2 ^ 64).toNat else (count + delay / 22500) % 2 ^ 64 }

/-- A BEACON frame whose last byte arrives at a cycle of the running sweep (02 R38, R41). -/
def execBeacon (f : Frame) (cc : Nat) (s : State) : Out :=
  if ¬ f.hasKind 7 then .next s
  else if f.payload.length ≠ 8 then .next s.discard
  else
    let j := nearestBoundary ((cc : Int) - (s.od 0x2200 0x10 : Int))
    if s.master then .next (if f.src = s.moduleId then s else s.foreignBeacon f.src)
    else if ¬ s.time.held then
      if s.time.locked then .next (s.takeBeacon f.src (leNat f.payload) j) else .next s
    else if s.time.beaconFrom ≠ some f.src then .next (s.foreignBeacon f.src)
    else
      let d := (leNat f.payload : Int) - j - (s.time.sweep : Int)
      if d % 2 ^ 64 = 0 then .next s
      else
        let w := (d % 2 ^ 64).toNat
        .next (((s.addOd 0x2200 8 1).setOd 0x2200 0xE w).emcy 0xFF01 w)

/-- A PROBE frame's arrival cycle is recorded (02 R46, R55). -/
def execProbe (f : Frame) (cc : Nat) (s : State) : Out :=
  if ¬ f.hasKind 8 then .next s
  else if s.inWindow f then .next (s.setTime fun t => { t with probes := t.probes ++ [(f.src, cc)] })
  else .next (s.outsideWindow f)

/-- A write of EPOCH_START (02 R41, Table 02-7). -/
def State.writeEpochStart (s : State) (v : Nat) : State :=
  if v = 0 then s.abort 0
  else if v ≠ 1 then s.abort abRange
  else if s.quiescent ∧ s.master ∧ s.time.source = .unlocked ∧ s.time.locked ∧ ¬ s.time.epochUsed then
    (s.setTime fun t => { t with epochUsed := true, epochAt := some (t.boundaries + 1) }).abort 0
  else s.abort abState

def execEpochStart (v : BitVec 8) (s : State) : Out :=
  .next (s.ownRow 0x22000A 1 v.toNat fun s => s.writeEpochStart v.toNat)

/-- The system epoch at the boundary that EPOCH_START asked for (02 R37, R40). -/
def execSystemEpoch (s : State) : Out :=
  if s.epochDue then
    let s1 := s.setTime fun t => { t with held := true, sweep := 0, epochAt := none, source := t.phaseSource }
    .next s1.sendBeacons
  else .next s

/-- A write of REPHASE (02 R43). -/
def State.writeRephase (s : State) (v : Nat) : State :=
  if ¬ s.quiescent then s.abort abState
  else if v ≥ 2 then s.abort abRange
  else if v = 1 then (s.setTime fun t => { t with rephaseReq := true }).abort 0
  else s.abort 0

def execRephase (v : BitVec 8) (s : State) : Out := .next (s.ownRow 0x220009 1 v.toNat fun s => s.writeRephase v.toNat)

/-- The tick in which a sweep changed by `shift` cycles ends (02 R43). -/
def rephaseTick (shift : Int) : Nat := min 1249 ((22500 + shift - 1) / 18).toNat

/-- The moved boundary of a re-phase, on the received SWEEP edge, or at the beacon instant where no pulse is wired (02 R43,
R44). `shiftCc` is how far that edge or beacon lies from the predicted boundary as received, before its delay is taken off
(R45). -/
def execSweepRephase (shiftCc : Int) (s : State) : Out :=
  let shift := shiftCc - (s.phaseDelay s.time.phaseSource : Int)
  if s.time.rephaseReq ∧ (s.time.sweepWired ∨ s.time.beaconFrom.isSome) ∧ s.time.everLocked ∧ s.time.tick = rephaseTick shift
      ∧ ¬ s.tickHeld then .next s.passTick.rephaseNow
  else .next s

/-- The holdover limit passes (02 R44): every running context is cut, EMCY FF03h, a HOLDOVER_CUT record. -/
def execHoldoverLimit (s : State) : Out :=
  if s.holdoverDue then
    .next ((((s.setTime fun t => { t with holdFrom := none }).cutNext s.activeMask cutHoldover).emcy 0xFF03 1).journal
      10 0 4 0 0 0)
  else .next s

/-- A refresh slot of a stack begins (02 R51, 10 R214). -/
def execHbmRefresh (stack : Fin 16) (s : State) : Out :=
  if s.time.tick = 100 ∨ s.time.tick = 517 ∨ s.time.tick = 933 then
    .next { s with long := { s.long with refreshes := tblUpd nat0 s.long.refreshes stack.val (· + 1) } }
  else .next s

end Sys2Proof.Machine
end

