-- ==== Sys2Proof/Machine/Dictionary.lean ====
section
/-!
DEFINITION. The object dictionary (18): the value of every entry, the checks of an access (R403 to R407), the effect of a write
(R404, R416, R422, and the rules of the home chapters), and the stored parameters (R418).
-/

namespace Sys2Proof.Machine

/-! Entries -/

/-- Highest sub-index of an index. -/
def odTop (index : Nat) : Nat := odTable.foldl (fun m e => if e.key / 256 = index then Nat.max m (e.key % 256) else m) 0

/-- The entry of an index and sub-index; sub 00h of a record gives its highest sub-index (log 47). -/
def odEntry (index sub : Nat) : Option OdEntry :=
  match odFind (odKey index sub) with
  | some e => some e
  | none => if sub = 0 ∧ odHasIndex index then some ⟨odKey index 0, .u8, .const, .any, odTop index⟩ else none

/-- A mask with the bits of the entries of a table that a test selects. -/
def maskOf {α : Type} (t : Tbl α) (p : α → Bool) : Nat := t.foldl (fun m e => if p e.2 then m + 2 ^ e.1 else m) 0

/-! Values (Tables 18-6, 18-7, 19-8) -/

def boolN (b : Bool) : Nat := if b then 1 else 0

/-- A value that the manual does not give: a constant of the module, or what a sensor shows (log 12). -/
def odConst (key : Nat) : Nat := (Config.reading key 0).toNat
def State.odSensor (s : State) (key : Nat) : Nat := (Config.reading key s.freeCtr).toNat

/-- The communication profile (R417). -/
def State.valueComm (s : State) (index sub : Nat) : Nat :=
  if index = 0x1001 then s.dict.errReg.toNat
  else if index = 0x1003 then (if sub = 0 then s.dict.history.length else (s.dict.history.getD (sub - 1) 0).toNat)
  else if (index = 0x1010 ∨ index = 0x1011) ∧ sub = 1 then odConst (odKey index sub)
  else if index = 0x1014 then 0x80 + s.power.nodeId.toNat
  else if index = 0x1018 ∧ sub = 1 then odConst 0x101801
  else if index = 0x1018 ∧ sub = 3 then odConst 0x200003
  else if index = 0x1018 ∧ sub = 4 then odConst 0x101804
  else s.od index sub

/-- LAST_FAIL (Table 19-8). -/
def State.lastFail (s : State) : Nat :=
  match s.boot.journal.find? fun r => r.result == 2 with
  | some r => r.stage % 256 * 2 ^ 24 + r.unit % 256 * 2 ^ 16 + r.alt % 256 * 2 ^ 8 + r.boot % 256
  | none => 0

/-- 2000h to 2030h. -/
def State.valueIdentity (s : State) (index sub : Nat) : Nat :=
  let k := odKey index sub
  if k = 0x200003 ∨ k = 0x200004 then odConst k
  else if k = 0x200005 then s.slotVersionOf s.boot.running
  else if k = 0x200006 then s.boot.running
  else if k = 0x200101 then Nat.min 1 s.dict.controller
  else if k = 0x200102 then boolN s.dict.standby
  else if k = 0x200105 then (if (s.od 0x2001 7).testBit 0 then s.dict.busA.state else 3)
  else if k = 0x200106 then (if (s.od 0x2001 7).testBit 1 then s.dict.busB.state else 3)
  else if k = 0x200108 then s.power.nodeId.toNat
  else if k = 0x201001 then (match s.boot.presentAt with
    | some n => Nat.min n (2 ^ 32 - 2)
    | none => 2 ^ 32 - 1)
  else if k = 0x201002 then boolN s.boot.jumper
  else if k = 0x201003 then boolN s.boot.sealOpen
  else if k = 0x201004 then boolN s.boot.tamper
  else if k = 0x201007 then boolN s.boot.debug
  else if index = 0x2020 ∧ 1 ≤ sub ∧ sub ≤ 3 then s.slotVersionOf (sub - 1)
  else if k = 0x202004 then maskOf s.boot.slotVer fun v => v != 0
  else if k = 0x202007 then boolN s.boot.updating.isSome
  else if k = 0x20200A then s.boot.revoked
  else if k = 0x203001 then s.boot.boot
  else if k = 0x203002 then s.lastFail
  else if k = 0x203003 then s.boot.restarts
  else if k = 0x203005 then boolN s.boot.recovery
  else s.od index sub

/-- 2100h and 2110h. -/
def State.valuePower (s : State) (index sub : Nat) : Nat :=
  let k := odKey index sub
  if [0x210001, 0x210002, 0x210003, 0x210006, 0x210007, 0x210008, 0x210009, 0x21000B, 0x21000E].contains k then s.odSensor k
  else if k = 0x210005 then s.odSensor k % 2
  else if k = 0x21000A then s.odSensor k % 10
  else if k = 0x210004 then s.power.ilim.toNat
  else if k = 0x211001 then ilimAmps s.power.ilim.toNat
  else if k = 0x211003 then maskOf s.ports fun p => p.laserOff
  else if k = 0x211004 then (s.host.windows.filter fun w => flag w.2 40).length
  else if k = 0x211005 then (s.host.allow.filter fun a => a.2).length
  else s.od index sub

/-- Whether flash holds a page's sectors: it is not in HBM, or it has come from flash and has not been written in HBM (10 R234). -/
def State.keepsSectors (s : State) (p : Nat) : Bool :=
  match s.regionOf p with
  | some (_, r) => !rgPin r && !((s.getPage p).inHbm && (s.getPage p).dirty)
  | none => false

/-- Sectors of the long range that hold no page (10 Table 10-6). -/
def State.sectorsFree (s : State) : Nat :=
  let pages := ((s.lr.map fun (e : Nat × Byte) => e.1 / 65536) ++ s.side.map fun (e : Nat × Byte) => e.1 / 4096).eraseDups
  1919570568 - ((pages.filter s.keepsSectors).map s.pageSectors).sum

/-- The tensor that a group's TENSOR_SELECT names, when its context's job has it (07 R168). -/
def State.tensorKnown (s : State) : Bool :=
  let l := (s.ctxs.filter fun c => c.2.state != 0).map fun c => c.2.desc
  !l.isEmpty && Config.namesTensor (s.od 0x2B01 1) l

/-- The smallest value of a header field over the factor blocks (`kind` 1) or shards (0) of a tensor that the contexts' sequencers have
used; 0 where there is none (07 R168, 09 R212; log 131). -/
def State.smallest (s : State) (kind tid hi lo : Nat) : Nat :=
  let l := (s.ctxs.flatMap fun x => x.2.headers.filter fun h => h.1 == kind).filterMap fun h =>
    let w := BitVec.ofNat 512 (leNat (s.engineRead 16 h.2.1 (headerBytes kind)).data)
    let t := if kind = 0 then fld w 287 256 else fld w 255 224
    if t = tid then some (fld w hi lo) else none
  (l.foldl (fun (m : Option Nat) v => some (match m with | some a => min a v | none => v)) none).getD 0

/-- 2B01h and 2C01h, of the selected tensor. -/
def State.valueTensor (s : State) (index sub : Nat) : Nat :=
  if sub = 1 then s.od index 1
  else
    let g := if index = 0x2B01 then 0 else 1
    if index = 0x2B01 ∧ ¬ s.tensorKnown then 0
    else if index = 0x2B01 ∧ sub = 9 then s.smallest 1 (s.od index 1) 191 160
    else if index = 0x2B01 ∧ sub = 0xA then s.smallest 1 (s.od index 1) 63 0
    else if index = 0x2C01 ∧ sub = 0x11 then s.smallest 0 (s.od index 1) 447 416
    else (tblGet tensorReset s.dict.tensors (tensorKey g (s.od index 1) sub)).toNat

/-- 2200h to 2A00h. -/
def State.valueHome (s : State) (index sub : Nat) : Nat :=
  let k := odKey index sub
  let x := s.getCtx (s.od 0x2600 2)
  let p := s.od 0x2500 7
  if k = 0x220001 then (if s.time.held then s.time.sweep else 0)
  else if k = 0x220002 then s.time.tick
  else if k = 0x220003 then sourceCode s.time.source
  else if k = 0x240002 then s.framesFree
  else if k = 0x240003 then s.sectorsFree
  else if k = 0x240004 then s.mappedPages
  else if k = 0x240005 then s.mapLimit
  else if k = 0x240007 then s.long.governor
  else if k = 0x250001 then maskOf s.ports fun p => p.state == 2
  else if k = 0x250002 then maskOf s.ports fun p => p.state == 3
  else if k = 0x250008 then (s.getPort p).state
  else if k = 0x250009 ∨ k = 0x25000A then s.odSensor k
  else if k = 0x251005 then (s.bindings.filter fun b => bValid b.2).length
  else if k = 0x260001 then s.activeMask
  else if k = 0x260003 then x.role
  else if k = 0x260004 then x.version
  else if k = 0x260005 then (List.range 4).foldl (fun m v => m + slotState (x.getSlot v) * 4 ^ v) 0
  else if k = 0x280007 then (s.obs.window.filter fun w => wnValid w.2).length
  else if k = 0x2A0001 then maskOf s.obs.watch fun w => wState w == 1 || wState w == 2
  else s.od index sub

/-- The value of a numeric entry. -/
def State.odValue (s : State) (e : OdEntry) : Nat :=
  let index := e.key / 256
  let sub := e.key % 256
  if sub = 0 ∧ index ≥ 0x2000 then e.reset
  else if index < 0x1800 then s.valueComm index sub
  else if index < 0x2000 then s.od index sub
  else if index < 0x2100 then s.valueIdentity index sub
  else if index < 0x2200 then s.valuePower index sub
  else if index = 0x2B01 ∨ index = 0x2C01 then s.valueTensor index sub
  else s.valueHome index sub

/-- Bytes of a text. -/
def textBytes (l : List Char) : List Byte := l.map fun c => BitVec.ofNat 8 c.toNat

/-- The uppercase hexadecimal digits of a 32-bit number. -/
def hexDigits (v : Nat) : List Byte :=
  (List.range 8).map fun k =>
    let d := v / 16 ^ (7 - k) % 16
    BitVec.ofNat 8 (if d < 10 then 0x30 + d else 0x37 + d)

/-- String entries: the part number, and the serial number's digits (Table 18-6). -/
def odText (key : Nat) : List Byte :=
  if key = 0x100800 ∨ key = 0x200001 then textBytes ['D', 'N', 'X', '-', '9', '0', '4', '0']
  else if key = 0x200002 then textBytes ['D', 'N', 'X', '9', '0', '4', '0', '-'] ++ hexDigits (odConst 0x101804)
  else (Config.text key).take 256

/-- The bytes of an entry (R416). -/
def State.entryBytes (s : State) (e : OdEntry) : List Byte :=
  match e.ty with
  | .str => odText e.key
  | t => leBytes (odBytes t) (s.odValue e)

/-! The checks of an access (R404, R407, R415) -/

/-- The entry that a request reaches, or the abort code that refuses it before its entry's own rules. -/
def State.reqEntry (s : State) (r : DictReq) : Nat × Option OdEntry :=
  let index := r.index.toNat
  if r.rsv ≠ 0 ∨ (r.op ≠ 1 ∧ r.op ≠ 2) ∨ ¬ s.indexServed index ∨ ¬ odHasIndex index then (abNoIndex, none)
  else match odEntry index r.sub.toNat with
    | none => (abNoSub, none)
    | some e =>
      let n := (s.entryBytes e).length
      if r.op = 1 ∧ e.acc = .wo then (abReadWo, none)
      else if r.op = 2 ∧ (e.acc = .ro ∨ e.acc = .const) then (abWriteRo, none)
      else if r.op = 2 ∧ (r.length.toNat ≠ n ∨ r.data.length < n) then (abLength, none)
      else if r.op = 1 ∧ (r.path = 0 ∨ r.path = 3) ∧ r.length ≠ 0 ∧ r.length.toNat ≠ n then (abLength, none)
      else (0, some e)

/-- A read access: LENGTH 0 returns the length alone (R415). -/
def State.readAccess (s : State) (r : DictReq) : State :=
  match s.reqEntry r with
  | (_, some e) =>
    let d := s.entryBytes e
    let bare : Bool := (r.path == 0 || r.path == 3) && r.length == 0
    (s.draw.endAccess 0 (if bare then [] else d)).finish r d.length
  | (ab, none) => (s.endAccess ab []).finish r 0

/-- In RECOVERY the fabric path is not served (19 R429). -/
def State.notServed (s : State) (r : DictReq) : Bool := s.boot.recovery && r.path == 3

def execDictionaryRead (s : State) : Out :=
  match s.served with
  | some r => .next (if r.op = 2 then s else if s.notServed r then s.takeRequest else s.readAccess r)
  | none => .next s

/-! Ranges -/

/-- The abort code of a value outside its entry's range (R407). -/
def rangeAbort (e : OdEntry) (v : Nat) : Nat :=
  match e.rng with
  | .any => 0
  | .between lo hi => if lo ≤ v ∧ v ≤ hi then 0 else abRange
  | .high hi => if v ≤ hi then 0 else abTooHigh
  | .real lo hi => if (lo ≤ v ∧ v ≤ hi) ∨ (lo = 0 ∧ v = 2 ^ 31) then 0 else abRange
  | .oneOf l => if l.contains v then 0 else abRange
  | .finiteNonzero => if v / 2 ^ 23 % 256 ≠ 255 ∧ v % 2 ^ 31 ≠ 0 then 0 else abRange
  | .page => if v % 65536 = 0 then 0 else abRange

/-! Writes with a rule of their own -/

/-- The entry that a mapping word names, of the length that it names (R422). -/
def State.mapWordOk (s : State) (w : Nat) : Bool :=
  match odEntry (w / 2 ^ 16) (w / 2 ^ 8 % 256) with
  | some e =>
    let n := (s.entryBytes e).length
    e.acc != .wo && decide (n ≤ 8 ∧ w % 256 = 8 * n)
  | none => false

/-- The words of a TPDO's mapping in force. -/
def State.mapWords (s : State) (index : Nat) : List Nat := (List.range (s.od index 0)).map fun k => s.od index (k + 1)

/-- The status of a mapping record with one entry changed. -/
def State.mappingAbort (s : State) (index sub v : Nat) : Nat :=
  let l := (s.setOd index sub v).mapWords index
  if (sub = 0 ∨ v = 0 ∨ s.mapWordOk v) ∧ l.all s.mapWordOk ∧ (l.map fun w => w % 256 / 8).sum ≤ 64 then 0 else abRange

/-- A frame budget (10 R247). -/
def State.budgetAbort (s : State) (c v : Nat) : Nat :=
  let others := ((List.range 16).map fun k => if k = c then 0 else s.frameBudget k).sum
  if others + v > s.hbmFrames ∨ v < s.pinnedPages c then abRange else 0

/-- A tensor setting: an unknown tensor takes no tap setting; KRONECKER needs tap mode BLOCK (07 R168, 09 Table 09-8). -/
def State.tensorAbort (s : State) (index sub v : Nat) : Nat :=
  if index = 0x2B01 then (if s.tensorKnown then 0 else abState)
  else if sub = 2 ∧ v = 2 ∧ (tblGet tensorReset s.dict.tensors (tensorKey 0 (s.od 0x2C01 1) 2)).toNat ≠ 2 then abRange
  else 0

/-- Whether an entry is a setting of the selected tensor. -/
def isTensor (index sub : Nat) : Bool := (index == 0x2B01 || index == 0x2C01) && sub != 1

/-- The abort code of an entry's own rule. -/
def State.ruleAbort (s : State) (index sub v : Nat) : Nat :=
  if index = 0x2401 then s.budgetAbort (sub - 1) v
  else if isTensor index sub then s.tensorAbort index sub v
  else if 0x1A00 ≤ index ∧ index ≤ 0x1A03 then s.mappingAbort index sub v
  else 0

/-- The effect of an accepted write. -/
def State.putEntry (s : State) (index sub v : Nat) : State :=
  if index = 0x1003 then { s with dict := { s.dict with history := [] } }
  else if isTensor index sub then
    let k := tensorKey (if index = 0x2B01 then 0 else 1) (s.od index 1) sub
    { s with dict := { s.dict with tensors := tblSet tensorReset s.dict.tensors k (BitVec.ofNat 64 v) } }
  else if index = 0x2200 ∧ sub = 0xB then
    (s.setOd index sub v).setTime fun t => { t with beaconNext := v }
  else if index = 0x2401 then (s.setOd index sub v).fitBudget (sub - 1) s.long.page.length
  else s.setOd index sub v

/-- A write to an entry without a row of its own: rights, range, the entry's rule, effect (R404 to R407). -/
def State.writeEntry (s : State) (e : OdEntry) (v : Nat) : State :=
  let index := e.key / 256
  let sub := e.key % 256
  if e.acc = .rwp ∧ ¬ s.present then s.noPresence
  else if e.acc = .rwq ∧ ¬ s.quiescent then s.abort abState
  else
    let ab := rangeAbort e v
    let ab := if ab = 0 then s.ruleAbort index sub v else ab
    if ab ≠ 0 then s.abort ab else (s.putEntry index sub v).abort 0

/-! Stored parameters (R418) -/

/-- Entries that a store takes: rw, rwq and rwp. -/
def storable (key : Nat) : Bool :=
  match odFind key with
  | some e => e.acc == .rw || e.acc == .rwq || e.acc == .rwp
  | none => false

/-- A write of 1010h: the dictionary store is journaled through the governor, 16 bytes an entry (10 R223; log 27). -/
def State.writeStore (s : State) (v : Nat) : State :=
  if ¬ s.quiescent then s.abort abState
  else if v ≠ 0x65766173 then s.abort abRange
  else
    let l := (s.dict.od.filter fun e => storable e.1) ++ s.dict.tensors.map fun e => (e.1 + storedTensors, e.2)
    (({ s with dict := { s.dict with stored := l, storedValid := true, loadDefaults := false } } : State).flashWrite
      (cdiv (16 * l.length) 4096) none).abort 0

def State.writeRestore (s : State) (v : Nat) : State :=
  if ¬ s.quiescent then s.abort abState
  else if v ≠ 0x64616F6C then s.abort abRange
  else ({ s with dict := { s.dict with loadDefaults := true } } : State).abort 0

def execStoreParameters (v : BitVec 32) (s : State) : Out :=
  .next (s.ownRow 0x101001 4 v.toNat fun s => s.writeStore v.toNat)
def execRestoreDefaultParameters (v : BitVec 32) (s : State) : Out :=
  .next (s.ownRow 0x101101 4 v.toNat fun s => s.writeRestore v.toNat)

/-! Writes -/

/-- The effect of a write to an entry that has a row of its own; RESUME and UPDATE need what their rows carry, and wait for them
(log 16). -/
def ownWrite (key v : Nat) : Option (State → State) :=
  if key = 0x22000A then some fun s => s.writeEpochStart v
  else if key = 0x220009 then some fun s => s.writeRephase v
  else if key = 0x270001 then some fun s => s.writeCollimate v
  else if key = 0x270004 then some fun s => s.writeSaveRequest v
  else if key = 0x270008 then some fun s => s.writeOutClear v
  else if key = 0x280004 then some fun s => s.writeClear v
  else if key = 0x101001 then some fun s => s.writeStore v
  else if key = 0x101101 then some fun s => s.writeRestore v
  else if key = 0x202009 then some fun s => s.writeActivate v
  else if key = 0x201005 then some fun s => s.writeOwnerLock v
  else if key = 0x201006 then some fun s => s.writeOwnerTransfer v
  else if key = 0x201007 then some fun s => s.writeDebugUnlock v
  else if key = 0x201008 then some fun s => s.writeTamperClear v
  else if key = 0x20200A then some fun s => s.writeKeysRevoked v
  else if key = 0x203004 then some fun s => s.writeJournalReset v
  else none

/-- The entries whose writes wait for their own rows. -/
def waitsForRow (key : Nat) : Bool := key == 0x270005 || key == 0x202007

/-- A write access. -/
def State.writeAccess (s : State) (r : DictReq) : State :=
  match s.reqEntry r with
  | (_, some e) =>
    let n := r.length.toNat
    let v := leNat (r.data.take n)
    if waitsForRow e.key then s
    else match ownWrite e.key v with
      | some f => (f s).finish r 0
      | none => (s.writeEntry e v).finish r 0
  | (ab, none) => (s.abort ab).finish r 0

def execDictionaryWrite (s : State) : Out :=
  match s.served with
  | some r => .next (if r.op ≠ 2 then s else if s.notServed r then s.takeRequest else s.writeAccess r)
  | none => .next s

end Sys2Proof.Machine
end

