-- ==== Sys2Proof/Machine/Can.lean ====
section
/-!
DEFINITION. CANopen FD on the two buses (18 R408 to R413, R419 to R422), and the takeover between the management controllers (R423, R424).
-/

namespace Sys2Proof.Machine

/-! USDO (R410, R412) -/

/-- Takes a bus's accesses off the queue. -/
def State.dropBus (s : State) (b : Nat) : State :=
  { s with dict := { s.dict with queue := s.dict.queue.filter fun r => r.path.toNat != b + 1 } }

/-- A USDO request is whole: it opens a session and is queued (R402, R412). -/
def execUsdoRequest (bus : Fin 2) (r : DictReq) (s : State) : Out :=
  if s.busTakes bus ∧ (s.bus bus).state ≠ 2 ∧ s.dict.controller < 2 ∧ r.data.length ≤ 256 then
    let s1 := s.setBus bus { s.bus bus with session := some (r.tag.toNat, r.data.length) }
    .next { s1 with dict := { s1.dict with queue := s1.dict.queue ++ [{ r with path := BitVec.ofNat 2 (bus.val + 1) }] } }
  else .next s

/-- A USDO abort message to the client of a session. -/
def State.usdoAbort (s : State) (b tag ab : Nat) : State :=
  let r : DictReq := ⟨BitVec.ofNat 2 (b + 1), 0, BitVec.ofNat 32 tag, 0, 0, 0, 0, 0, []⟩
  (s.endAccess ab []).usdoAnswer b r ab 0 []

/-- The protocol times out: the session ends, and an access that it queued is not applied (R407). -/
def execUsdoTimeout (bus : Fin 2) (s : State) : Out :=
  if s.busTakes bus ∧ s.dict.controller < 2 then
    .next ((s.dropBus bus).usdoAbort bus (((s.bus bus).session.map Prod.fst).getD 0) abTimeout)
  else .next s

/-! NMT (R411) -/

/-- A bus's NMT state changes by command. -/
def State.nmtTo (s : State) (b v : Nat) : State :=
  if s.busOn b ∧ (s.bus b).state ≠ 2 ∧ (s.bus b).nmt ≠ 0 ∧ s.dict.controller < 2 then s.setBus b { s.bus b with nmt := v } else s

def execNmtStart (bus : Fin 2) (s : State) : Out := .next (s.nmtTo bus 5)
def execNmtStop (bus : Fin 2) (s : State) : Out := .next (s.nmtTo bus 4)
def execNmtEnterPreOperational (bus : Fin 2) (s : State) : Out := .next (s.nmtTo bus 127)

/-- The communication profile at its power-on values (CiA 1301; log 44). -/
def State.commDefaults (s : State) : State :=
  let od := s.dict.od.filter fun e => !(decide (e.1 < 0x200000) && storable e.1)
  let od := if s.dict.storedValid then
      s.dict.stored.foldl (fun t e => if e.1 < 0x200000 then tblSet odReset t e.1 e.2 else t) od
    else od
  { s with dict := { s.dict with od := od } }

/-- Reset communication: sessions, waiting messages and communication parameters; Pre-operational (log 44). -/
def State.nmtReset (s : State) (b : Nat) : State :=
  if s.busOn b ∧ (s.bus b).state ≠ 2 ∧ (s.bus b).nmt ≠ 0 ∧ s.dict.controller < 2 then
    let s1 := (s.dropBus b).commDefaults
    s1.setBus b { s1.bus b with nmt := 127, queue := [], session := none }
  else s

def execNmtResetCommunication (bus : Fin 2) (s : State) : Out := .next (s.nmtReset bus)
def execNmtResetNode (bus : Fin 2) (s : State) : Out := .next (s.nmtReset bus)

/-- A classical CAN frame is ignored (R408). -/
def execClassicalCanFrame (_bus : Fin 2) (s : State) : Out := .next s

/-! Producers (R413, R420, R422) -/

/-- A heartbeat goes out on a bus, past the queue. -/
def State.beat (s : State) (b : Nat) : State :=
  let x := s.bus b
  if s.busOn b ∧ x.state ≠ 2 ∧ x.nmt ≠ 0 then
    s.setBus b { x with lastMsg := some ⟨0, 0x700 + s.power.nodeId.toNat, leBytes 1 x.nmt⟩ }
  else s

def execHeartbeat (s : State) : Out := .next (if s.dict.controller < 2 then (s.beat 0).beat 1 else s)

/-- The smallest CAN FD length that holds `n` bytes. -/
def canLength (n : Nat) : Nat := if n ≤ 8 then n else ([12, 16, 20, 24, 32, 48, 64].find? fun k => decide (n ≤ k)).getD 64

/-- The data of a TPDO: its mapped entries, then bytes that the manual leaves open. -/
def State.tpdoData (s : State) (n : Nat) : List Byte :=
  let d := (s.mapWords (0x1A00 + n)).flatMap fun w => match odEntry (w / 2 ^ 16) (w / 2 ^ 8 % 256) with
    | some e => s.entryBytes e
    | none => []
  d ++ (List.range (canLength d.length - d.length)).map fun k => BitVec.ofNat 8 (Config.freeWord2 s.freeCtr k).toNat

/-- The COB-ID of a TPDO: its parameter, or the pre-defined one (R410; log 44). -/
def State.tpdoCob (s : State) (n : Nat) : Nat :=
  let v := s.od (0x1800 + n) 1
  if v = 0 then 0x180 + 0x100 * n + s.power.nodeId.toNat else v

/-- A TPDO goes to one bus: in Operational only. -/
def State.tpdoOn (s : State) (b : Nat) (m : CanMsg) : State := if (s.bus b).nmt = 5 then s.canQueue b m else s

def execTpdo (n : Fin 4) (s : State) : Out :=
  if s.dict.controller < 2 ∧ s.tpdoCob n < 2 ^ 31 then
    let m : CanMsg := ⟨2, s.tpdoCob n, s.tpdoData n⟩
    .next (((s.tpdoOn 0 m).tpdoOn 1 m).draw)
  else .next s

/-- A waiting message is sent when the bucket holds a token (R413, 19 Table 19-7). -/
def execCanTransmit (bus : Fin 2) (s : State) : Out :=
  let x := s.bus bus
  match x.queue with
  | m :: r =>
    if s.busTakes bus ∧ x.state ≠ 2 ∧ x.bucket ≠ 0 then
      .next (s.setBus bus { x with queue := r, bucket := x.bucket - 1, lastMsg := some m })
    else .next s
  | [] => .next s

/-! Bus-off (R412, R421) -/

/-- One more bus-off of a bus: [31:16] bus B, [15:0] bus A. -/
def State.countBusOff (s : State) (b : Nat) : State :=
  let v := s.od 0x2001 0xA
  let part := if b = 0 then v % 65536 else v / 65536
  let n := if part + 1 < 65536 then part + 1 else Config.counterOverflow 0x20010A v % 65536
  s.setOd 0x2001 0xA (if b = 0 then v / 65536 * 65536 + n else n * 65536 + v % 65536)

def execBusOff (bus : Fin 2) (s : State) : Out :=
  if s.busOn bus ∧ (s.bus bus).state ≠ 2 then
    .next (((s.setBus bus { s.bus bus with state := 2 }).countBusOff bus).errOn 4)
  else .next s

/-- The bus recovers; the register's bit stays while the other bus is off or a port is dark. -/
def execBusOffRecovery (bus : Fin 2) (s : State) : Out :=
  if (s.bus bus).state = 2 then
    let s1 := s.setBus bus { s.bus bus with state := 0 }
    .next (if (s1.bus (1 - bus.val)).state = 2 ∨ s1.darkPorts ≠ 0 then s1 else s1.errOff 4)
  else .next s

/-! Thermal warning (R419) -/

/-- DIE_TEMP_MAX and DIE_TEMP_WHERE as a detail; their places are the model's (log 48). -/
def thermalDetail (temp : BitVec 16) (die : BitVec 8) : Nat := die.toNat * 2 ^ 16 + temp.toNat

def execThermalWarning (temp : BitVec 16) (die : BitVec 8) (s : State) : Out :=
  let t := temp.toInt
  let w : Int := s.od 0x2100 0xC
  if flag s.dict.errReg 3 then .next (if t ≤ w - 200 then (s.alertOff alThermal).errOff 3 else s)
  else .next (if t ≥ w then ((s.errOn 3).emcy 0xFF70 (thermalDetail temp die)).alertOn alThermal else s)

/-! Takeover (R424) -/

/-- Ends the open session of a bus. -/
def State.endSession (s : State) (b : Nat) : State :=
  match (s.bus b).session with
  | some (tag, _) => (s.dropBus b).usdoAbort b tag abTimeout
  | none => s

/-- Completes the mailbox and fabric requests in flight. -/
def State.endRequests (s : State) : State :=
  s.dict.queue.foldl (fun s r => if r.path = 0 ∨ r.path = 3 then (s.endAccess abPath []).respond r abPath 0 [] else s)
    { s with dict := { s.dict with queue := [] } }

/-- The controller on H1 becomes active. -/
def State.takeOver (s : State) : State :=
  let s1 : State := { s with dict := { s.dict with controller := 1, standby := false } }
  let s2 := ((s1.endSession 0).endSession 1).endRequests
  let s3 := ((s2.addOd 0x2001 3 1).setOd 0x2001 4 s.time.sweep).emcy 0xFF60 s.time.sweep
  s3.maintenance 7

/-- The watchdog of the active controller expires; with no standby the fault is beyond reserves. -/
def execTakeover (s : State) : Out :=
  if s.dict.controller = 0 then .next s.takeOver
  else if s.dict.controller = 1 then
    .next (({ s with dict := { s.dict with controller := 2 } } : State).beyondReserves 7 0)
  else .next s

end Sys2Proof.Machine
end

