-- ==== Sys2Proof/Machine/HostPort.lean ====
section
/-!
DEFINITION. The PCI Express host interface (20): functions and their access rules (R445, R457), BAR0 and BAR2 (R447 to R449), DMA windows
(R450, R451), host queues and their commands (R452 to R454), interrupts (R455), ATS, IDE and TDISP (R456, R457), resets (R446, R458).

Function 0 is the physical one; virtual function n serves context n − 1.
-/

namespace Sys2Proof.Machine

def State.setHost (s : State) (f : HostIf → HostIf) : State := { s with host := f s.host }

/-! Functions -/

def State.seen (s : State) (fn : Nat) : State :=
  if fn = 0 then s else s.setHost fun h => { h with vfOn := h.vfOn ||| BitVec.ofNat 16 (2 ^ (fn - 1)) }

/-- An access that completes with Unsupported Request whatever it names: a TDI in ERROR, or no IDE where a Selective stream covers the
function (R457). -/
def State.fnRefused (s : State) (fn : Nat) (ide : Bool) : Bool :=
  (fn != 0 && s.tdi (fn - 1) == 3) || (!ide && s.host.ideKeys.any fun k => k.1 != 0 && k.2 == fn)

/-- Whether a function reaches a host queue's registers (R445). -/
def State.queueReach (s : State) (fn q : Nat) : Bool := if fn = 0 then !s.vfEnabled (q / 16) else q / 16 == fn - 1

/-- Records a refused access in HOST_FAULT (Table 20-2). -/
def State.hostFaultAt (s : State) (fn st off : Nat) : State :=
  s.setHost fun h => { h with
    hostFault := tblSet w64z h.hostFault fn (BitVec.ofNat 64 (fn * 2 ^ 48 + st % 256 * 2 ^ 40 + off % 2 ^ 40)) }

/-- A write that is dropped and recorded. -/
def State.dropWrite (s : State) (fn st off : Nat) : State := (s.hostFaultAt fn st off).status st

/-! DMA windows (Table 20-4) -/
def dwBase (w : W128) : Nat := fld w 127 76 * 4096
def dwSize (w : W128) : Nat := fld w 75 48 * 4096
def dwFn (w : W128) : Nat := fld w 47 43
def dwRead (w : W128) : Bool := flag w 42
def dwWrite (w : W128) : Bool := flag w 41
def dwValid (w : W128) : Bool := flag w 40

/-- Whether a window admits a DMA of a function (R451). -/
def dwHolds (w : W128) (fn addr n : Nat) (write : Bool) : Bool :=
  dwValid w && dwFn w == fn && (if write then dwWrite w else dwRead w)
    && decide (dwBase w ≤ addr ∧ addr + n ≤ dwBase w + dwSize w)

/-- The window that admits a DMA. -/
def State.dmaWindow (s : State) (fn addr n : Nat) (write : Bool) : Option Nat :=
  (List.range 64).find? fun i => dwHolds (tblGet w128z s.host.windows i) fn addr n write

/-- Whether a window belongs to a function whose configuration is frozen. -/
def State.windowFrozen (s : State) (w : W128) : Bool := dwFn w != 0 && s.frozen (dwFn w - 1)

/-- BAR0 offset of window `i`. -/
def windowAt (i : Nat) : Nat := 0x1000 + 16 * i

/-- A write of a window entry (R450, R457). -/
def State.windowPut (s : State) (i : Nat) (w : W128) : State :=
  let old := tblGet w128z s.host.windows i
  if fld w 39 0 ≠ 0 ∨ dwFn w > 16 then s.dropWrite 0 stAccess (windowAt i)
  else if s.windowFrozen old then (s.tdiError (dwFn old - 1)).status stDenied
  else if s.windowFrozen w then (s.tdiError (dwFn w - 1)).status stDenied
  else (s.setHost fun h => { h with windows := tblSet w128z h.windows i w }).status stOk

def execDmaWindow (fn : Fin 17) (i : Fin 64) (w : BitVec 128) (ide : Bool) (s : State) : Out :=
  let s1 := s.seen fn
  .next (if fn.val ≠ 0 ∨ s.fnRefused fn ide then s1.status urStatus else s1.windowPut i w)

/-! Host queues (Table 20-5) -/
def hqSq (c : BitVec 256) : Nat := fld c 255 192
def hqCq (c : BitVec 256) : Nat := fld c 191 128
def hqSqLog (c : BitVec 256) : Nat := fld c 127 124
def hqCqLog (c : BitVec 256) : Nat := fld c 123 120
def hqVector (c : BitVec 256) : Nat := fld c 119 109
def hqNdoe (c : BitVec 256) : Nat := fld c 108 93
def hqEnable (c : BitVec 256) : Bool := flag c 92
def hqIrq (c : BitVec 256) : Bool := flag c 91
def HostQ.sqSize (h : HostQ) : Nat := 2 ^ hqSqLog h.cfg
def HostQ.cqSize (h : HostQ) : Nat := 2 ^ hqCqLog h.cfg

/-- A completion ring with no free entry (log 50). -/
def HostQ.full (h : HostQ) : Bool := (h.cqTail + 1) % h.cqSize == h.cqHead

/-- Commands that run: read, and not done. -/
def HostQ.running (h : HostQ) : Nat := (h.cmds.filter fun c => c.done.isNone).length

/-- The function that enabled a queue. -/
def HostQ.fn (h : HostQ) (q : Nat) : Nat := if h.byPf then 0 else q / 16 + 1

def queueCfgAt (fn q : Nat) : Nat := if fn = 0 then 0x200000 + 32 * q else 0x2000 + 32 * (q % 16)
def queueBellAt (fn q : Nat) : Nat := if fn = 0 then 0x300000 + 16 * q else 0x3000 + 16 * (q % 16)

/-- The status that refuses a write that sets ENABLE (R452; log 51). -/
def State.enableStatus (s : State) (fn q : Nat) (w : BitVec 256) : Nat :=
  if hqSqLog w = 0 ∨ hqSqLog w > 12 ∨ hqCqLog w = 0 ∨ hqCqLog w > 12 then stAccess
  else if hqVector w / 128 ≠ q / 16 then stAccess
  else if (s.dmaWindow fn (hqSq w) (64 * 2 ^ hqSqLog w) false).isNone ∨ (s.dmaWindow fn (hqCq w) (16 * 2 ^ hqCqLog w) true).isNone then
    stDenied
  else stOk

/-- A write of a queue's configuration. -/
def State.queuePut (s : State) (fn q : Nat) (w : BitVec 256) : State :=
  let h := s.getQ q
  if s.frozen (q / 16) then (if fn = 0 then s.tdiError (q / 16) else s).status stDenied
  else if hqEnable h.cfg ∧ hqEnable w then s.status stAccess
  else if fld w 90 0 ≠ 0 then s.dropWrite fn stAccess (queueCfgAt fn q)
  else if hqEnable w then
    let st := s.enableStatus fn q w
    if st ≠ stOk then s.dropWrite fn st (queueCfgAt fn q)
    else (s.setQ q { HostQ.init with cfg := w, byPf := fn == 0, nread := h.nread }).status stOk
  else (s.setQ q { h with cfg := w }).status stOk

def execQueueEnable (fn : Fin 17) (q : Fin 256) (w : BitVec 256) (ide : Bool) (s : State) : Out :=
  let s1 := s.seen fn
  .next (if s.fnRefused fn ide ∨ ¬ s1.queueReach fn q then s1.status urStatus else s1.queuePut fn q w)

/-! Submission entries (Table 20-6) -/
def seHost (e : BitVec 512) : Nat := fld e 511 448
def seAddr (e : BitVec 512) : W64 := BitVec.ofNat 64 (fld e 447 384)
def seLen (e : BitVec 512) : Nat := fld e 383 352
def seTag (e : BitVec 512) : Nat := fld e 351 336
def seOp (e : BitVec 512) : Nat := fld e 335 328
def seSigCore (e : BitVec 512) : Nat := fld e 327 319
def seSigCtr (e : BitVec 512) : Nat := fld e 318 313
def seSig (e : BitVec 512) : Bool := flag e 312

/-- Whether a command goes to this module. -/
def State.ownEntry (s : State) (e : BitVec 512) : Bool := gaModule (seAddr e) == s.moduleId

/-- The request of a command that goes to another module, on its queue's Ndoe queue (R453). -/
def hostRequest (h : HostQ) (q : Nat) (c : HostCmd) (k : XKind) : Request :=
  { who := 512, ctx := some (q / 16), msg := hostMsg q c.seq, kind := k, ctr := 63, queue := hqNdoe h.cfg,
    gaddr := seAddr c.entry, laddr := q, len := seLen c.entry, fmt := 0, sig := decide (k = .put) && seSig c.entry,
    sigCtr := seSigCtr c.entry, sigAt := some (seSigCore c.entry) }

/-- The operation of a command inside the package. -/
def hostXfer (q : Nat) (c : HostCmd) (k : XKind) (d : List Byte) : Xfer :=
  { msg := hostMsg q c.seq, core := 512, queue := 65536, kind := k, ctr := 63, gaddr := seAddr c.entry, laddr := q,
    len := seLen c.entry, fmt := 0, sig := decide (k = .put) && seSig c.entry, sigCore := seSigCore c.entry,
    sigCtr := seSigCtr c.entry, moved := 0, awaited := 0, own := true, ownAddr := (seAddr c.entry).toNat % 2 ^ 48, ownPos := 0,
    data := d, pack := 0, side := false, status := 0,
    recovered := false, served := 0 }

/-- Marks a command as done. -/
def State.cmdDone (s : State) (q seq st bytes : Nat) : State := s.hostDone q (seq % 2 ^ 24) st bytes

/-- A command of length zero completes at once and performs its signal (R454, 03 R78). -/
def State.zeroCmd (s : State) (q : Nat) (c : HostCmd) : State :=
  let e := c.entry
  if s.ownEntry e then
    let s1 := if seOp e = 1 ∧ seSig e ∧ seSigCtr e < 48 then
        s.applySignal s.moduleId (hostMsg q c.seq) (seSigCore e) (seSigCtr e) 2 1
      else s
    s1.cmdDone q c.seq stOk 0
  else s.request (hostRequest (s.getQ q) q c (if seOp e = 1 then .put else .get)) []

/-- Takes one submission entry. -/
def State.readOne (s : State) (q : Nat) : State :=
  let h := s.getQ q
  match h.toRead with
  | [] => s
  | e :: r =>
    let bad : Bool := fld e 311 0 != 0 || !([1, 2, 3].contains (seOp e))
    let zero : Bool := !bad && seOp e != 3 && seLen e == 0
    let c : HostCmd := ⟨e, h.nread, bad || zero, none, if bad then some (stAccess, 0) else none⟩
    let s1 := s.setQ q { h with toRead := r, sqHead := (h.sqHead + 1) % h.sqSize, nread := h.nread + 1, cmds := h.cmds ++ [c] }
    if zero then s1.zeroCmd q c else s1

/-- Reads submissions while fewer than 16 commands run, the completion ring has room, and a window admits the read (R451, R454). -/
def State.pump (q : Nat) : Nat → State → State
  | 0, s => s
  | n + 1, s =>
    let h := s.getQ q
    if h.toRead.isEmpty ∨ ¬ hqEnable h.cfg ∨ h.running ≥ 16 ∨ h.full then s
    else if (s.dmaWindow (h.fn q) (hqSq h.cfg + 64 * h.sqHead) 64 false).isNone then s.denial
    else State.pump q n (s.readOne q)

def State.readSubmissions (s : State) (q : Nat) : State := State.pump q (s.getQ q).toRead.length s

/-- A doorbell value at or above the ring's entry count disables the queue (R452). -/
def State.badDoorbell (s : State) (fn q off : Nat) : State :=
  let h := s.getQ q
  (s.setQ q { h with cfg := setFlag h.cfg 92 false }).dropWrite fn stAccess off

/-- A write of the submission doorbell; `es` are the entries that the host has placed in the ring (log 15). -/
def State.sqBell (s : State) (fn q v : Nat) (es : List (BitVec 512)) : State :=
  let h := s.getQ q
  if ¬ hqEnable h.cfg then s.status stOk
  else if v ≥ h.sqSize then s.badDoorbell fn q (queueBellAt fn q)
  else
    let n := (v + h.sqSize - h.sqTail) % h.sqSize
    ((s.setQ q { h with sqTail := v, toRead := h.toRead ++ es.take n }).readSubmissions q).status stOk

def execSqTailDoorbell (fn : Fin 17) (q : Fin 256) (v : BitVec 64) (entries : List (BitVec 512)) (ide : Bool) (s : State) : Out :=
  let s1 := s.seen fn
  .next (if s.fnRefused fn ide ∨ ¬ s1.queueReach fn q then s1.status urStatus else s1.sqBell fn q v.toNat entries)

/-! Commands (R453, R454) -/

/-- The first command of an operation that has not started. -/
def HostQ.next (h : HostQ) (op : Nat) : Option HostCmd := h.cmds.find? fun c => !c.started && seOp c.entry == op

/-- Marks a command as started, on a window. -/
def State.cmdStart (s : State) (q seq : Nat) (win : Option Nat) : State :=
  let h := s.getQ q
  s.setQ q { h with cmds := h.cmds.map fun c => if c.seq = seq ∧ ¬ c.started then { c with started := true, win := win } else c }

/-- Moves an operation inside the package, or a ladder holds it. One that moves by beats waits for them (12 R471). -/
def State.hostRun (s0 : State) (msg : Nat) (hw : HwEvent) : State :=
  match s0.beatOp msg with
  | none => s0
  | some x =>
    let s := if x.ownAddr / 2 ^ 44 = 0 then s0.hbmEvent hw else s0
    if x.inBeats ∨ s0.ladderFull hw then s0
    else match s.accessHeld (s.ownAccess x 0 x.ownTotal) with
    | some p => s.holdAt p ⟨none, s.moduleId, some msg, s.opCtx x, none⟩
    | none => s.ownNow x false

/-- The window that admits a command's data, unless its function's TDI is in ERROR (R451, R457). -/
def State.cmdWindow (s : State) (h : HostQ) (q : Nat) (e : BitVec 512) (write : Bool) : Option Nat :=
  let fn := h.fn q
  if fn ≠ 0 ∧ s.tdi (fn - 1) = 3 then none else s.dmaWindow fn (seHost e) (seLen e) write

/-- The translations of a DMA's pages come into use, in a cache of 4,096 (R456). -/
def State.translate (s : State) (addr n : Nat) : State :=
  let first := addr / 4096
  let new := (List.range (Nat.min 4096 ((addr + (n - 1)) / 4096 - first + 1))).map fun k => (addr + (n - 1)) / 4096 - k
  s.setHost fun h => { h with atc := (new ++ h.atc.filter fun p => !new.contains p).take 4096 }

/-- Starts a command that moves data. -/
def State.moveData (s : State) (q : Nat) (c : HostCmd) (k : XKind) (d : List Byte) (poisoned : Bool) (hw : HwEvent) : State :=
  let h := s.getQ q
  let e := c.entry
  match s.cmdWindow h q e (k == .get) with
  | none => (s.denial.cmdStart q c.seq none).cmdDone q c.seq stDenied 0
  | some w =>
    let s1 := (s.cmdStart q c.seq (some w)).translate (seHost e) (seLen e)
    if gaSpace (seAddr e) = 2 ∧ ¬ h.byPf then s1.cmdDone q c.seq stDenied 0
    else if s.ownEntry e then
      let x := { hostXfer q c k d with status := if poisoned then stPoison else 0 }
      ({ s1 with ops := s1.ops ++ [x] } : State).hostRun x.msg hw
    else
      let s2 := s1.request (hostRequest h q c k) d
      if poisoned then
        { s2 with ops := s2.ops.map fun x => if x.core = 512 ∧ x.msg = hostMsg q c.seq then x.fold stPoison else x }
      else s2

/-- `n` bytes of a list, zeros where it is shorter. -/
def padTo (n : Nat) (l : List Byte) : List Byte := l.take n ++ zeroBytes (n - l.length)

def execToModule (q : Fin 256) (data : List Byte) (poisoned : Bool) (s : State) : Out :=
  match (s.getQ q).next 1 with
  | some c => .next (s.moveData q c .put (padTo (seLen c.entry) data) poisoned .ok)
  | none => .next s

def execToHost : Reading (Fin 256) → State → Out
  | ⟨q, hw⟩, s =>
    match (s.getQ q).next 2 with
    | some c => .next (s.moveData q c .get [] false hw)
    | none => .next s

/-- A FENCE starts, and is done, when every earlier command of its queue has completed. -/
def execFence (q : Fin 256) (s : State) : Out :=
  let h := s.getQ q
  match h.next 3 with
  | some c =>
    if (h.cmds.takeWhile fun x => x.seq != c.seq).all fun x => x.done.isSome then
      .next ((s.cmdStart q c.seq none).cmdDone q c.seq stOk 0)
    else .next s
  | none => .next s

/-- A completion entry (Table 20-7). -/
def completionEntry (bytes tag head : Nat) (phase : Bool) (st : Nat) : W128 :=
  BitVec.ofNat 128 (bytes % 2 ^ 32 * 2 ^ 96 + tag % 2 ^ 16 * 2 ^ 80 + head % 2 ^ 16 * 2 ^ 64 + (if phase then 256 else 0) + st % 256)

/-- A vector waits for the next boundary. -/
def State.msixVector (s : State) (v : Nat) : State :=
  if s.host.msixPend.contains v then s else s.setHost fun h => { h with msixPend := h.msixPend ++ [v] }

/-- Writes the completion entry of the oldest command, when it is done and the ring has room. -/
def State.writeCompletion (s : State) (q : Nat) (c : HostCmd) (st bytes : Nat) : State :=
  let h := s.getQ q
  let e := completionEntry bytes (seTag c.entry) h.sqHead h.phase st
  let tail := (h.cqTail + 1) % h.cqSize
  let s1 := s.setQ q { h with
    cmds := h.cmds.tail, cqTail := tail, phase := if tail = 0 then !h.phase else h.phase, lastCompletion := some e }
  let s2 := s1.setHost fun x => { x with hostOut := leBytes 16 e.toNat, hostEp := false }
  (if hqIrq h.cfg then s2.msixVector (hqVector h.cfg) else s2).readSubmissions q

def execHostCommandComplete (q : Fin 256) (s : State) : Out :=
  let h := s.getQ q
  match h.cmds with
  | c :: _ =>
    match c.done with
    | some (st, bytes) =>
      if h.full then .next s
      else if (s.dmaWindow (h.fn q) (hqCq h.cfg + 16 * h.cqTail) 16 true).isNone then .next s.denial
      else .next (s.writeCompletion q c st bytes)
    | none => .next s
  | [] => .next s

/-- The completion doorbell frees entries. -/
def State.cqBell (s : State) (fn q v : Nat) : State :=
  let h := s.getQ q
  if ¬ hqEnable h.cfg then s.status stOk
  else if v ≥ h.cqSize then s.badDoorbell fn q (queueBellAt fn q + 8)
  else ((s.setQ q { h with cqHead := v }).readSubmissions q).status stOk

def execCqHeadDoorbell (fn : Fin 17) (q : Fin 256) (v : BitVec 64) (ide : Bool) (s : State) : Out :=
  let s1 := s.seen fn
  .next (if s.fnRefused fn ide ∨ ¬ s1.queueReach fn q then s1.status urStatus else s1.cqBell fn q v.toNat)

/-- WINDOW_BUSY: windows that admitted DMAs use (Table 20-2). -/
def State.windowBusy (s : State) : Nat :=
  let used := s.host.queues.flatMap fun e => e.2.cmds.filterMap fun c => if c.done.isNone then c.win else none
  used.eraseDups.foldl (fun m w => m + 2 ^ w) 0

/-! Interrupts (R455) -/

/-- Such a vector is signalled, once in the sweep. -/
def execMsixMessage (vector : Fin 2048) (s : State) : Out :=
  let v := vector.val
  if s.vectorDue v then
    .next (s.setHost fun h => { h with msixReady := h.msixReady.filter fun x => x != v, msixSent := h.msixSent ++ [v] })
  else .next s

/-! ATS, IDE, TDISP (R456, R457) -/

/-- An invalidation completes once no DMA that began under the translation runs. -/
def execAtsInvalidation (addr : BitVec 64) (s : State) : Out :=
  let p := addr.toNat / 4096
  let busy : Bool := s.host.queues.any fun e => e.2.cmds.any fun c =>
    c.started && c.done.isNone && decide (seHost c.entry / 4096 ≤ p ∧ p * 4096 < seHost c.entry + seLen c.entry)
  if busy then .next s
  else .next ((s.setHost fun h => { h with atc := h.atc.filter fun x => x != p }).status stOk)

/-- Programs the keys of an IDE stream: 0 the Link stream, 1 to 16 Selective ones. -/
def execIdeKm (stream : Nat) (fn : Fin 17) (s : State) : Out :=
  let s1 := s.heard []
  if s.boot.session ≠ 2 then .next (s1.spdmError spUnexpected)
  else if stream > 16 then .next (s1.spdmError spInvalid)
  else
    let s2 := s1.setHost fun h => { h with ideKeys := (h.ideKeys.filter fun k => k.1 != stream) ++ [(stream, fn.val)] }
    .next (s2.spdmOpen 0x7E)

/-- The TDI state that a request leads to, where it is one that the state takes. -/
def tdiNext (k : TdispKind) (st : Nat) : Option Nat :=
  match k with
  | .lock => if st = 0 then some 1 else none
  | .start => if st = 1 then some 2 else none
  | .stop => some 0

def execTdispRequest (fn : Fin 16) (k : TdispKind) (s : State) : Out :=
  let s1 := s.heard []
  if s.boot.session ≠ 2 then .next (s1.spdmError spUnexpected)
  else match tdiNext k (s.tdi fn) with
    | some n => .next ((s1.setHost fun h => { h with tdi := tblSet nat0 h.tdi fn n }).spdmOpen 0x7E)
    | none => .next (s1.spdmError spUnexpected)

/-! Resets (R446, R458) -/

/-- Ends commands in flight of the queues that a test selects, with no completion entry. -/
def State.endCommands (s : State) (p : Nat → HostQ → Bool) : State :=
  let mine (x : Xfer) : Bool := x.core == 512 && p x.laddr (s.getQ x.laddr)
  let s1 : State := { s with ops := s.ops.filter fun x => !mine x }
  s1.host.queues.foldl (fun s e =>
    let h := s.getQ e.1
    if p e.1 h then s.setQ e.1 { h with cfg := setFlag h.cfg 92 false, cmds := [], toRead := [] } else s) s1

def execFlr (fn : Fin 16) (s : State) : Out :=
  .next ((s.endCommands fun q h => q / 16 == fn.val && !h.byPf).cutNext (2 ^ fn.val) cutRegister)

/-- The endpoint, the host bank and every queue configuration at their reset values; sessions on the link end. -/
def State.endpointReset (s : State) : State :=
  let s1 := s.endCommands fun _ _ => true
  { s1 with
    host := State.reset.host,
    boot := { s1.boot with spdm := 0, session := 0, pair := false, chunks := [], chunkNo := 0, large := none, transcript := [] } }

def execPerstN (s : State) : Out := .next s.endpointReset
def execFlrPhysicalFunction (s : State) : Out := .next s.endpointReset

/-! BAR2 (R449) -/

/-- What an unwritten BAR2 size reads as: 64 GiB. -/
def bar2D (_ : Nat) : Nat := 36
def State.bar2Size (s : State) (fn : Nat) : Nat := 2 ^ tblGet bar2D s.host.bar2Size fn
def State.bar2Base (s : State) (fn : Nat) : Nat := (tblGet w64z s.host.bar2Base fn).toNat

/-- As whom a function's access is checked. -/
def bar2Who (fn : Nat) : Who := if fn = 0 then .owner else .ctx (fn - 1)

/-- Whether an access reaches its pages. -/
def State.bar2Ok (s : State) (fn : Nat) (ide : Bool) (write : Bool) (off n : Nat) : Bool :=
  !s.fnRefused fn ide && decide (off + n ≤ s.bar2Size fn) && s.longOk (bar2Who fn) write (s.bar2Base fn + off) n

/-- A read through BAR2; it waits while a ladder holds a page of it (10 R243). -/
def execBar2Read : Fin 17 → Nat → Reading Nat → Bool → State → Out
  | fn, offset, ⟨length, hw⟩, ide, s0 =>
    let s := s0.seen fn
    let a := s.bar2Base fn + offset
    if ¬ s.bar2Ok fn ide false offset length then .next (s.status urStatus)
    else if s.ladderFull hw then .next s
    else if ((s.hbmEvent hw).heldAt a length).isSome then .next (s.hbmEvent hw)
    else
      let s2 := (s.hbmEvent hw).touchRange false a length
      if s.readPoison a length then .next (s2.answer stPoison ((List.range length).map poisonByte))
      else .next (s2.answer stOk (s.rdLong a length))

def execBar2Write (fn : Fin 17) (offset : Nat) (data : List Byte) (ide : Bool) (s : State) : Out :=
  let s1 := s.seen fn
  let a := s.bar2Base fn + offset
  if ¬ s.bar2Ok fn ide true offset data.length then .next (s1.status urStatus)
  else if (s.heldAt a data.length).isSome then .next s1
  else .next ((s1.longWrite a data).status stOk)

end Sys2Proof.Machine
end

