-- ==== Sys2Proof/Machine/Registers.lean ====
section
/-!
DEFINITION. A write of a register that has no row of its own (00 R7): words and structures of the control space, from any agent, and the
two layouts of BAR0 (20 Tables 20-2 and 20-3, R447, R448).
-/

namespace Sys2Proof.Machine

/-- A write of ORDER_COUNT may complete sets that wait (15 R340). -/
def State.lateSets (s : State) : State :=
  (s.staged.map fun a => (a.sigCore, a.sigCtr)).eraseDups.foldl
    (fun s k => if s.orderOf k.1 k.2 = 0 then s else s.applySet k.1 k.2) s

/-- A write of the control space by an agent of the package or the fabric. -/
def State.registerPut (s : State) (o : Origin) (off : Nat) (d : List Byte) : State :=
  let st := s.originStatus o
  if st ≠ stOk then s.refuse o st
  else
    let r := s.ctlWrite o off d
    r.1.lateSets.status r.2

/-! Structures written in 8-byte words (R448) -/

/-- Keeps a word until its structure takes effect. -/
def State.stageWord (s : State) (key : Nat) (v : W64) : State :=
  (s.setHost fun h => { h with words := (h.words.filter fun e => e.1 != key) ++ [(key, v)] }).status stOk

/-- The value that the `n` words from `key` assemble to. -/
def State.wordsOf (s : State) (key : Nat) : Nat → Nat
  | 0 => 0
  | n + 1 => s.wordsOf key n + (s.word (key + 8 * n)).toNat * 2 ^ (64 * n)

/-- Forgets the words of a structure that took effect; words that were never written were free (log 38). -/
def State.useWords (s : State) (key n : Nat) : State :=
  (s.setHost fun h => { h with words := h.words.filter fun e => decide (e.1 < key ∨ key + 8 * n ≤ e.1) }).draw

/-- A word of a structure of `n` words at `key`: the highest one makes it take effect. -/
def State.structWord (s : State) (key n i : Nat) (v : W64) (effect : State → Nat → State) : State :=
  let s1 := s.stageWord (key + 8 * i) v
  if i + 1 < n then s1
  else
    let r := effect s1 (s1.wordsOf key n)
    if r.resp.status = 0 then r.useWords key n else r

/-- Where the words of a function's host-bank structure are kept. -/
def bankKey (fn off : Nat) : Nat := 2 ^ 50 + fn * 2 ^ 40 + off

/-! Control space through BAR0 -/

/-- The base and the word count of the structure that a control-space word belongs to; a word that takes effect by itself has one. -/
def ctlSpan (u : CtlUnit) (off : Nat) : Nat × Nat :=
  if u.kind = 0 ∧ 0x10000 ≤ off - u.base then (off / 16 * 16, 2)
  else if ctlWords u.kind ∨ u.len ≤ 8 then (off, 1)
  else (u.base, u.len / 8)

/-- Writes control-space bytes for the physical function: a refused write is dropped and recorded. -/
def State.ctlFromHost (s : State) (barOff off : Nat) (d : List Byte) : State :=
  let r := s.ctlWrite .host off d
  if r.2 = stOk then r.1.lateSets.status stOk else r.1.dropWrite 0 r.2 barOff

def State.ctlWord (s : State) (barOff off : Nat) (v : W64) : State :=
  match ctlUnit off with
  | none => s
  | some u =>
    let p := ctlSpan u off
    s.structWord p.1 p.2 ((off - p.1) / 8) v fun s w => s.ctlFromHost barOff p.1 (leBytes (8 * p.2) w)

/-- The control-space offset that a BAR0 offset of the physical function reaches (Table 20-2). -/
def State.barCtl (s : State) (off : Nat) : Option Nat :=
  if 0x800000 ≤ off ∧ off < 0x1000000 then some (0x08000000 + s.host.ctlWindow * 0x800000 + (off - 0x800000))
  else if 0x1000000 ≤ off ∧ off < 0x4000000 then some (0x0D000000 + (off - 0x1000000))
  else none

/-! Words of the physical function's host bank -/

/-- Half `hi` of an MSI-X table entry. -/
def State.msixHalf (s : State) (key : Nat) (hi : Bool) (v : W64) : State :=
  let w := tblGet msixD s.host.msixTable key
  let w' := if hi then setFld w 127 64 v.toNat else setFld w 63 0 v.toNat
  (s.setHost fun h => { h with msixTable := tblSet msixD h.msixTable key w' }).status stOk

def State.bar2BasePut (s : State) (fn off : Nat) (v : W64) : State :=
  if fn ≠ 0 ∧ s.frozen (fn - 1) then s.status stDenied
  else if v.toNat % s.bar2Size fn ≠ 0 then s.dropWrite fn stAccess off
  else (s.setHost fun h => { h with bar2Base := tblSet w64z h.bar2Base fn v }).status stOk

def State.ctlWindowPut (s : State) (v : W64) : State :=
  if v.toNat > 9 then s.dropWrite 0 stAccess 0x18 else (s.setHost fun h => { h with ctlWindow := v.toNat }).status stOk

/-- 64 bits of the allow-list from module `m`. -/
def State.allowPut (s : State) (m : Nat) (v : W64) : State :=
  ((List.range 64).foldl (fun s k => s.allowWrite (m + k) (v.getLsbD k)) s).status stOk

/-- EVENT_MAP; its reserved byte stays 0xFF (Table 20-8). -/
def State.eventMapPut (s : State) (c : Nat) (v : W64) : State :=
  if s.frozen c then (s.tdiError c).status stDenied
  else if fld v 63 56 ≠ 0xFF then s.dropWrite 0 stAccess (0x4000 + 8 * c)
  else (s.setHost fun h => { h with eventMap := tblSet eventMapD h.eventMap c v }).status stOk

/-- Entries that a doorbell written here makes the module read: what the host placed in the ring (log 15). -/
def State.ringEntries (s : State) : List (BitVec 512) :=
  (List.range 4096).map fun i =>
    BitVec.ofNat 512 ((List.range 8).foldl (fun n k => n + (Config.freeWord2 s.freeCtr (8 * i + k)).toNat * 2 ^ (64 * k)) 0)

/-- A doorbell word of queue `q`; a function that does not reach the queue meets Unsupported Request. -/
def State.bellWord (s : State) (fn q : Nat) (cq : Bool) (v : W64) : State :=
  if ¬ s.queueReach fn q then s.status urStatus
  else if cq then s.cqBell fn q v.toNat
  else (s.sqBell fn q v.toNat s.ringEntries).draw

/-- A word of a queue's configuration. -/
def State.cfgWord (s : State) (fn q off i : Nat) (v : W64) : State :=
  if ¬ s.queueReach fn q then s.status urStatus
  else s.structWord (bankKey fn off) 4 i v fun s w => s.queuePut fn q (BitVec.ofNat 256 w)

/-- Whether a word of the physical function's BAR0 is listed. -/
def State.pfListed (s : State) (off : Nat) : Bool :=
  decide (off < 0x20 ∨ (0x1000 ≤ off ∧ off < 0x1400) ∨ (0x2000 ≤ off ∧ off < 0x3800) ∨ (0x4000 ≤ off ∧ off < 0x4080)
    ∨ (0x100000 ≤ off ∧ off < 0x108100) ∨ (0x200000 ≤ off ∧ off < 0x202000) ∨ (0x300000 ≤ off ∧ off < 0x301000))
    || (match s.barCtl off with
        | some c => (ctlUnit c).any fun u => u.kind != 0 || bankWord ((c - u.base) / 8 * 8)
        | none => false)

/-- A word of the host bank or the queue registers; HOST_FAULT, WINDOW_BUSY and the pending bits are read-only. -/
def State.pfBank (s : State) (off : Nat) (v : W64) : State :=
  if off = 0x10 then s.bar2BasePut 0 0x10 v
  else if off = 0x18 then s.ctlWindowPut v
  else if off < 0x1000 then s.status stOk
  else if off < 0x1400 then
    let i := (off - 0x1000) / 16
    s.structWord (bankKey 0 (windowAt i)) 2 (off % 16 / 8) v fun s w => s.windowPut i (BitVec.ofNat 128 w)
  else if off < 0x3800 then s.allowPut ((off - 0x2000) * 8) v
  else if off < 0x4080 then s.eventMapPut ((off - 0x4000) / 8) v
  else if off < 0x108000 then s.msixHalf ((off - 0x100000) / 16) (off % 16 = 8) v
  else if off < 0x200000 then s.status stOk
  else if off < 0x202000 then
    let q := (off - 0x200000) / 32
    s.cfgWord 0 q (0x200000 + 32 * q) (off % 32 / 8) v
  else s.bellWord 0 ((off - 0x300000) / 16) (off % 16 = 8) v

def State.pfWord (s : State) (off : Nat) (v : W64) : State :=
  match s.barCtl off with
  | some c => s.ctlWord off c v
  | none => s.pfBank off v

/-! Words of a virtual function's BAR0 (Table 20-3) -/
def vfListed (off : Nat) : Bool :=
  decide (off < 0x10 ∨ (0x1000 ≤ off ∧ off < 0x1810) ∨ (0x2000 ≤ off ∧ off < 0x2200) ∨ (0x3000 ≤ off ∧ off < 0x3100))

def State.vfWord (s : State) (fn off : Nat) (v : W64) : State :=
  let c := fn - 1
  if off = 0 then s.bar2BasePut fn 0 v
  else if off < 0x1000 then s.status stOk
  else if off < 0x1800 then s.msixHalf (2048 + 128 * c + (off - 0x1000) / 16) (off % 16 = 8) v
  else if off < 0x2000 then s.status stOk
  else if off < 0x2200 then
    let i := (off - 0x2000) / 32
    s.cfgWord fn (16 * c + i) (0x2000 + 32 * i) (off % 32 / 8) v
  else s.bellWord fn (16 * c + (off - 0x3000) / 16) (off % 16 = 8) v

/-! BAR0 -/

/-- Whether an access keeps the shape that R448 asks for. -/
def barShape (off n : Nat) : Bool := decide (8 ≤ n ∧ n ≤ 64 ∧ n % 8 = 0 ∧ off % 8 = 0 ∧ off % 64 + n ≤ 64)

/-- The words of an access one after another; the answer is the first refusal, if there is one. -/
def State.barWords (s : State) (word : State → Nat → W64 → State) (ws : List (Nat × W64)) : State :=
  let r : State × Nat := ws.foldl (fun p w =>
    let t := word p.1 w.1 w.2
    (t, if p.2 ≠ stOk then p.2 else t.resp.status.toNat)) (s, stOk)
  r.1.status r.2

def State.bar0Write (s : State) (fn : Nat) (off : Nat) (d : List Byte) (ide : Bool) : State :=
  let ws := wordsAt (d.length / 8) off d
  let listed (o : Nat) : Bool := if fn = 0 then s.pfListed o else vfListed o
  if s.fnRefused fn ide ∨ ¬ barShape off d.length ∨ ws.any (fun w => !listed w.1) then s.status urStatus
  else s.barWords (fun s o v => if fn = 0 then s.pfWord o v else s.vfWord fn o v) ws

/-- The function whose BAR0 an agent writes. -/
def barFn : Origin → Option Nat
  | .host => some 0
  | .vf n => some (n.val + 1)
  | _ => none

def execRegisterWrite (o : Origin) (bar0 : Bool) (offset : Nat) (data : List Byte) (ide : Bool) (s : State) : Out :=
  if bar0 then
    match barFn o with
    | some fn => .next ((s.seen fn).bar0Write fn offset data ide)
    | none => .next (s.status urStatus)
  else .next (s.registerPut o offset data)

end Sys2Proof.Machine
end

