-- ==== Sys2Proof/Machine/Power.lean ====
section
/-!
DEFINITION. The power input, hold-up and straps (21 R459 to R464).
-/

namespace Sys2Proof.Machine

def State.setPower (s : State) (f : Power → Power) : State := { s with power := f s.power }

def execEnShortMate (s : State) : Out := .next (s.setPower fun p => { p with mated := true })

/-! The input bands (R460) -/

/-- The operating range, in millivolts. -/
def inRange (mv : Nat) : Bool := decide (44000 ≤ mv ∧ mv ≤ 58000)

/-- The two bands in which the module keeps running. -/
def inBand (mv : Nat) : Bool := decide ((42000 ≤ mv ∧ mv < 44000) ∨ (58000 < mv ∧ mv ≤ 60000))

/-- Whether the error register shows the input outside 44 to 58 V. -/
def State.inputOut (s : State) : Bool := s.dict.errReg.getLsbD 2

/-- Each entry into a band counts, sets bit 2 and raises FF71h. -/
def execVoltageExcursion (mv : BitVec 16) (s : State) : Out :=
  .next (if inBand mv.toNat ∧ ¬ s.inputOut then ((s.addOd 0x2100 0x0D 1).errOn 2).emcy 0xFF71 mv.toNat else s)

/-- The input returns: bit 2 clears, and code 0000h is sent (R421). -/
def execInputRangeReturn (mv : BitVec 16) (s : State) : Out :=
  .next (if inRange mv.toNat ∧ s.inputOut then s.errOff 2 else s)

/-! PWR_GOOD (R461, R464) -/

/-- The straps are read after the input has been absent for 1 s. -/
def State.readStraps (s : State) (nodeId : BitVec 7) (ilim : BitVec 2) (absentMs : Nat) : State :=
  if absentMs ≥ 1000 then s.setPower fun p => { p with nodeId := nodeId, ilim := ilim } else s

/-- A trip is recorded at the next start-up as stage 1 with RESULT FAIL and its cause (19 R442). -/
def State.recordTrip (s : State) : State :=
  match s.power.tripCause with
  | some c => (s.journal 1 0 2 0 c 0).setPower fun p => { p with tripCause := none }
  | none => s

/-- The input has been in range for 20 ms with the standby rail in regulation: start-up begins, unless a trip holds the module off
until the input has been removed for 1 s (19 R441). -/
def execPwrGoodAssert (nodeId : BitVec 7) (ilim : BitVec 2) (absentMs : Nat) (s : State) : Out :=
  if ¬ s.power.mated ∨ s.power.good ∨ (s.power.off ∧ absentMs < 1000) then .next s
  else
    let s1 := s.readStraps nodeId ilim absentMs
    let s2 : State := { s1 with boot := { s1.boot with restarts := 0, recovery := false } }
    .next (s2.beginStartup.recordTrip.setPower fun p => { p with good := true, off := false, holdup := false })

/-! Input loss and hold-up (R462) -/

/-- PWR_GOOD goes, the compute dies, HBM and ports are unpowered, and the hold-up bank feeds the flash. -/
def execInputLoss (s : State) : Out := .next (if s.power.good then s.powerDown none else s)

/-- The bank is released; the module is off. -/
def execHoldupEnd (s : State) : Out := .next (s.setPower fun p => { p with holdup := false })

end Sys2Proof.Machine
end

