-- ==== Sys2Proof/Machine/Tap.lean ====
section
/-!
DEFINITION. TAP and its writes (07 R151 to R156).
-/

namespace Sys2Proof.Machine

def Core.half (c : Core) (e : Nat) : Option TapHalf := if e = 0 then c.half0 else c.half1
def Core.setHalf (c : Core) (e : Nat) (h : Option TapHalf) : Core :=
  if e = 0 then { c with half0 := h } else { c with half1 := h }
def Core.tapQ (c : Core) (e : Nat) : List TapPending := if e = 0 then c.tapQ0 else c.tapQ1
def Core.setTapQ (c : Core) (e : Nat) (q : List TapPending) : Core :=
  if e = 0 then { c with tapQ0 := q } else { c with tapQ1 := q }

/-- The matrix instruction of the issuing group for an engine. -/
def State.groupMma (s : State) (core e : Nat) : Option Insn :=
  ((s.groupAt core (s.getCore core).pc).find? fun p => p.2.isMma && p.2.engine == e).map Prod.snd

/-- A line as 32 tap elements. 07 R155 speaks of lines of 32; a line of 16 elements is padded with zeros and one of 64 is cut (DESIGN
CHOICE, log 128). -/
def to32 (l : List W32) : List W32 := (l ++ List.replicate 32 0).take 32

/-- The tile an operand descriptor names, decoded with its block scales only (07 R155). -/
def State.tapRows (s : State) (core : Nat) (d : W128) : List (List W32) :=
  if dFmt d = 0xB then
    (tileDoublets (s.rdLocal core (dAddr d).toNat 2048)).map fun r => to32 (r.map fun p => dblTo32 p.1 p.2)
  else (s.operand core d).map fun r => to32 (r.map rne32)

/-- The tap tile of 16 features from 32 tokens: lines are features (07 R154). -/
def tapTile (fmt : Nat) (tokens : List (List W32)) (f0 : Nat) : List Byte :=
  (mxTile fmt one32 nearest ((List.range 16).map fun f => tokens.map fun t => t.getD (f0 + f) 0)).bytes

/-- The tiles a sampled TAP writes, in order. -/
def State.tapOut (s : State) (core : Nat) (c : Core) (i m : Insn) : List (List Byte) :=
  if i.tapSide then
    let d := c.rdT m.src1
    if dFmt d = i.fmtN then [s.rdLocal core (dAddr d).toNat 544]
    else [(mxTile i.fmtN one32 nearest (s.tapRows core d)).bytes]
  else if i.tapPart then
    let own := s.tapRows core (c.rdT m.src2)
    let first := match c.half i.engine with
      | some h => if h.mb = i.tapMb ∧ h.jIdx = i.tapJ ∧ h.row = i.tapRow then h.vals else List.replicate 16 (to32 [])
      | none => List.replicate 16 (to32 [])
    let tokens := first ++ own
    [tapTile i.fmtN tokens 0, tapTile i.fmtN tokens 16]
  else []

/-- Whether the pending half is the one a PART 1 TAP joins. -/
def Core.halfMatches (c : Core) (i : Insn) : Bool :=
  match c.half i.engine with
  | some h => h.mb == i.tapMb && h.jIdx == i.tapJ && h.row == i.tapRow
  | none => false

/-- TAP (07 R155): one whose block is not sampled, or whose tensor has no taps, writes nothing and completes at once. -/
def tapBody (core : Nat) (i : Insn) (s : State) : State :=
  let c := s.getCore core
  let d := c.rdT i.src1
  let x := s.getCtx ((s.ctxOfCore core).getD 16)
  let hit := s.tapsOn x (s.rdRec core d).tensorId.toNat && (tapSample x.seed (s.rdRec core d).tensorId x.stepNo x.tokenBlocks i.tapMb i.tapJ i.tapShift).1
  let s0 := s.modCore core fun c => c.count 0x470 1
  match s.groupMma core i.engine with
  | none => s0.ctrField core i
  | some m =>
    if ¬ hit then s0.ctrField core i
    else if ¬ i.tapSide ∧ ¬ i.tapPart then
      let s1 := if (c.half i.engine).isSome then s0.addOd 0x2B00 2 1 else s0
      (s1.modCore core fun c => c.setHalf i.engine
        (some ⟨i.tapMb, i.tapJ, i.tapRow, s.tapRows core (c.rdT m.src2)⟩)).ctrField core i
    else
      let addrs := s.tapTiles core i d
      let outs := s.tapOut core c i m
      let ws := ((List.range outs.length).zip (addrs.zip outs)).map fun p =>
        (⟨p.2.1.toNat, p.2.2, i.ctrN, p.1 + 1 == outs.length⟩ : TapPending)
      let s1 := if i.tapPart ∧ ¬ c.halfMatches i then s0.addOd 0x2B00 3 1 else s0
      s1.modCore core fun c =>
        let c1 := c.setTapQ i.engine (c.tapQ i.engine ++ ws)
        if i.tapPart then c1.setHalf i.engine none else c1

def execTap (core : Fin 512) (i : Insn) (s : State) : Out := issueOp 1 9 core i (tapBody core i) s

/-- The oldest pending tap write of an engine completes; the last of a TAP increments its CTR (07 R153, R156). -/
def execTapWrite (core : Fin 512) (engine : Fin 2) (s : State) : Out :=
  match (s.getCore core).tapQ engine with
  | [] => .next s
  | w :: r =>
    let s1 := (s.modCore core fun c => c.setTapQ engine r).wrLocal core w.addr w.bytes
    .next (if w.last then s1.ctrDone core w.ctr else s1)

end Sys2Proof.Machine
end

