-- ==== Sys2Proof/Machine/Dispatch.lean ====
section
/-!
DEFINITION. The dispatch: one arm per command, each one direct call of that command's meaning.
-/

namespace Sys2Proof.Machine

/-- The effect of a command on everything but the queue. -/
def exec (i : Instr) (s : State) : Host.Outcome State Fault Refusal :=
  match i with
  | .sysrefLock ppm => Sys2Proof.Machine.execSysrefLock ppm s
  | .sysrefLoss => Sys2Proof.Machine.execSysrefLoss s
  | .sysrefReturn errCc => Sys2Proof.Machine.execSysrefReturn errCc s
  | .tick => Sys2Proof.Machine.execTick s
  | .sweepBoundary => Sys2Proof.Machine.execSweepBoundary s
  | .sweepEdge errCc sinceNs => Sys2Proof.Machine.execSweepEdge errCc sinceNs s
  | .beacon f cc => Sys2Proof.Machine.execBeacon f cc s
  | .probe f cc => Sys2Proof.Machine.execProbe f cc s
  | .epochStart v => Sys2Proof.Machine.execEpochStart v s
  | .systemEpoch => Sys2Proof.Machine.execSystemEpoch s
  | .rephase v => Sys2Proof.Machine.execRephase v s
  | .sweepRephase shiftCc => Sys2Proof.Machine.execSweepRephase shiftCc s
  | .holdoverLimit => Sys2Proof.Machine.execHoldoverLimit s
  | .hbmRefresh stack => Sys2Proof.Machine.execHbmRefresh stack s
  | .start o core w => Sys2Proof.Machine.execStart o core w s
  | .coreStart core => Sys2Proof.Machine.execCoreStart core s
  | .add core insn => Sys2Proof.Machine.execAdd core insn s
  | .sub core insn => Sys2Proof.Machine.execSub core insn s
  | .mul core insn => Sys2Proof.Machine.execMul core insn s
  | .and_ core insn => Sys2Proof.Machine.execAnd core insn s
  | .or_ core insn => Sys2Proof.Machine.execOr core insn s
  | .xor_ core insn => Sys2Proof.Machine.execXor core insn s
  | .shl core insn => Sys2Proof.Machine.execShl core insn s
  | .shr core insn => Sys2Proof.Machine.execShr core insn s
  | .sra core insn => Sys2Proof.Machine.execSra core insn s
  | .cmplt core insn => Sys2Proof.Machine.execCmplt core insn s
  | .cmpeq core insn => Sys2Proof.Machine.execCmpeq core insn s
  | .movi core insn => Sys2Proof.Machine.execMovi core insn s
  | .lds core insn hw => Sys2Proof.Machine.execLds core insn hw s
  | .sts core insn => Sys2Proof.Machine.execSts core insn s
  | .srd core insn => Sys2Proof.Machine.execSrd core insn s
  | .tld core insn hw => Sys2Proof.Machine.execTld core insn hw s
  | .tst core insn => Sys2Proof.Machine.execTst core insn s
  | .amov core insn => Sys2Proof.Machine.execAmov core insn s
  | .br core insn => Sys2Proof.Machine.execBr core insn s
  | .brnz core insn => Sys2Proof.Machine.execBrnz core insn s
  | .loop core insn => Sys2Proof.Machine.execLoop core insn s
  | .halt core insn => Sys2Proof.Machine.execHalt core insn s
  | .mma core insn hw => Sys2Proof.Machine.execMma core insn hw s
  | .mmaT core insn hw => Sys2Proof.Machine.execMmaT core insn hw s
  | .mmaD core insn hw => Sys2Proof.Machine.execMmaD core insn hw s
  | .drain core insn hw => Sys2Proof.Machine.execDrain core insn hw s
  | .tap core insn => Sys2Proof.Machine.execTap core insn s
  | .tapWrite core engine => Sys2Proof.Machine.execTapWrite core engine s
  | .vadd core insn hw => Sys2Proof.Machine.execVadd core insn hw s
  | .vsub core insn hw => Sys2Proof.Machine.execVsub core insn hw s
  | .vmul core insn hw => Sys2Proof.Machine.execVmul core insn hw s
  | .vfma core insn hw => Sys2Proof.Machine.execVfma core insn hw s
  | .vmax core insn hw => Sys2Proof.Machine.execVmax core insn hw s
  | .vmin core insn hw => Sys2Proof.Machine.execVmin core insn hw s
  | .vabsmax core insn hw => Sys2Proof.Machine.execVabsmax core insn hw s
  | .vsum core insn hw => Sys2Proof.Machine.execVsum core insn hw s
  | .vcvt core insn hw => Sys2Proof.Machine.execVcvt core insn hw s
  | .vexp core insn hw => Sys2Proof.Machine.execVexp core insn hw s
  | .vlog core insn hw => Sys2Proof.Machine.execVlog core insn hw s
  | .vrsqrt core insn hw => Sys2Proof.Machine.execVrsqrt core insn hw s
  | .vrcp core insn hw => Sys2Proof.Machine.execVrcp core insn hw s
  | .xput core insn => Sys2Proof.Machine.execXput core insn s
  | .xget core insn => Sys2Proof.Machine.execXget core insn s
  | .xadd core insn => Sys2Proof.Machine.execXadd core insn s
  | .xsig core insn => Sys2Proof.Machine.execXsig core insn s
  | .xfence core insn => Sys2Proof.Machine.execXfence core insn s
  | .syncInc core insn => Sys2Proof.Machine.execSyncInc core insn s
  | .syncDec core insn => Sys2Proof.Machine.execSyncDec core insn s
  | .counterApply core ctr => Sys2Proof.Machine.execCounterApply core ctr s
  | .syncWait core insn => Sys2Proof.Machine.execSyncWait core insn s
  | .waitMet core waitedCc => Sys2Proof.Machine.execWaitMet core waitedCc s
  | .waitTimeout core => Sys2Proof.Machine.execWaitTimeout core s
  | .mark core insn => Sys2Proof.Machine.execMark core insn s
  | .loupe core insn => Sys2Proof.Machine.execLoupe core insn s
  | .packageBeat msg hw => Sys2Proof.Machine.execPackageBeat msg hw s
  | .solverSubmission o cluster data => Sys2Proof.Machine.execSolverSubmission o cluster data s
  | .solverJobStart cluster => Sys2Proof.Machine.execSolverJobStart cluster s
  | .solverJobEnd cluster hw => Sys2Proof.Machine.execSolverJobEnd cluster hw s
  | .solverDeadlineCheck cluster => Sys2Proof.Machine.execSolverDeadlineCheck cluster s
  | .shardSubmission o die data => Sys2Proof.Machine.execShardSubmission o die data s
  | .shardDescriptorEnd die => Sys2Proof.Machine.execShardDescriptorEnd die s
  | .phase1 ctx m hw => Sys2Proof.Machine.execPhase1 ctx m hw s
  | .digestCompare ctx => Sys2Proof.Machine.execDigestCompare ctx s
  | .regionMap o r w => Sys2Proof.Machine.execRegionMap o r w s
  | .regionUnmap o r w => Sys2Proof.Machine.execRegionUnmap o r w s
  | .regionUnmapComplete r => Sys2Proof.Machine.execRegionUnmapComplete r s
  | .schedCount o ctx v => Sys2Proof.Machine.execSchedCount o ctx v s
  | .fetchHbm ctx entry => Sys2Proof.Machine.execFetchHbm ctx entry s
  | .fetchStore ctx entry => Sys2Proof.Machine.execFetchStore ctx entry s
  | .evict ctx entry => Sys2Proof.Machine.execEvict ctx entry s
  | .scheduleEntryComplete ctx entry => Sys2Proof.Machine.execScheduleEntryComplete ctx entry s
  | .scheduleEntryLate ctx entry => Sys2Proof.Machine.execScheduleEntryLate ctx entry s
  | .migrationComplete page => Sys2Proof.Machine.execMigrationComplete page s
  | .heldWriteRelease => Sys2Proof.Machine.execHeldWriteRelease s
  | .ladderRungEnd page rung data shards => Sys2Proof.Machine.execLadderRungEnd page rung data shards s
  | .ladderLimit page => Sys2Proof.Machine.execLadderLimit page s
  | .channelCopyComplete stack channel => Sys2Proof.Machine.execChannelCopyComplete stack channel s
  | .channelSwitch stack channel => Sys2Proof.Machine.execChannelSwitch stack channel s
  | .dataFlit port w fec => Sys2Proof.Machine.execDataFlit port w fec s
  | .idleFlit port w fec => Sys2Proof.Machine.execIdleFlit port w fec s
  | .nakFlit port w fec => Sys2Proof.Machine.execNakFlit port w fec s
  | .portRetrainEnd port success => Sys2Proof.Machine.execPortRetrainEnd port success s
  | .frameSend n credits => Sys2Proof.Machine.execFrameSend n credits s
  | .frameForward f via => Sys2Proof.Machine.execFrameForward f via s
  | .put f via hw => Sys2Proof.Machine.execPut f via hw s
  | .getReq f hw => Sys2Proof.Machine.execGetReq f hw s
  | .getData f => Sys2Proof.Machine.execGetData f s
  | .signal f via => Sys2Proof.Machine.execSignal f via s
  | .ack f => Sys2Proof.Machine.execAck f s
  | .nack f => Sys2Proof.Machine.execNack f s
  | .barrierArrive f => Sys2Proof.Machine.execBarrierArrive f s
  | .barrierComplete f => Sys2Proof.Machine.execBarrierComplete f s
  | .mgmt f => Sys2Proof.Machine.execMgmt f s
  | .reservedKindDiscard f => Sys2Proof.Machine.execReservedKindDiscard f s
  | .queueBinding o q w => Sys2Proof.Machine.execQueueBinding o q w s
  | .groupEntry o g w => Sys2Proof.Machine.execGroupEntry o g w s
  | .barrierConfigure o b w => Sys2Proof.Machine.execBarrierConfigure o b w s
  | .barrierArm o b w => Sys2Proof.Machine.execBarrierArm o b w s
  | .voteRegister o b w => Sys2Proof.Machine.execVoteRegister o b w s
  | .barrierLocalArrival b => Sys2Proof.Machine.execBarrierLocalArrival b s
  | .barrierRelease b commit => Sys2Proof.Machine.execBarrierRelease b commit s
  | .dumpRequest o ctx w => Sys2Proof.Machine.execDumpRequest o ctx w s
  | .dumpLatch ctx => Sys2Proof.Machine.execDumpLatch ctx s
  | .dumpReadyClear o ctx w => Sys2Proof.Machine.execDumpReadyClear o ctx w s
  | .stageDescriptor o ctx w => Sys2Proof.Machine.execStageDescriptor o ctx w s
  | .stageArm o ctx w => Sys2Proof.Machine.execStageArm o ctx w s
  | .stepStart ctx => Sys2Proof.Machine.execStepStart ctx s
  | .create o ctx w => Sys2Proof.Machine.execCreate o ctx w s
  | .destroy o ctx w => Sys2Proof.Machine.execDestroy o ctx w s
  | .acquire o ctx => Sys2Proof.Machine.execAcquire o ctx s
  | .release o ctx w => Sys2Proof.Machine.execRelease o ctx w s
  | .switchArm o ctx w => Sys2Proof.Machine.execSwitchArm o ctx w s
  | .switchCancel o ctx w => Sys2Proof.Machine.execSwitchCancel o ctx w s
  | .switchEffect ctx => Sys2Proof.Machine.execSwitchEffect ctx s
  | .switchMissed ctx => Sys2Proof.Machine.execSwitchMissed ctx s
  | .ringClaim o ctx => Sys2Proof.Machine.execRingClaim o ctx s
  | .prismSubmission o die data => Sys2Proof.Machine.execPrismSubmission o die data s
  | .prismJobStart die => Sys2Proof.Machine.execPrismJobStart die s
  | .prismPlacement die => Sys2Proof.Machine.execPrismPlacement die s
  | .prismJobEnd die => Sys2Proof.Machine.execPrismJobEnd die s
  | .prismDeadlineCheck die => Sys2Proof.Machine.execPrismDeadlineCheck die s
  | .collimate v => Sys2Proof.Machine.execCollimate v s
  | .saveRequest v => Sys2Proof.Machine.execSaveRequest v s
  | .fullSaveComplete ctx manifest rows => Sys2Proof.Machine.execFullSaveComplete ctx manifest rows s
  | .resume v shards map => Sys2Proof.Machine.execResume v shards map s
  | .shutterArm o w => Sys2Proof.Machine.execShutterArm o w s
  | .shutterCancel o w => Sys2Proof.Machine.execShutterCancel o w s
  | .shutterInSample asserted => Sys2Proof.Machine.execShutterInSample asserted s
  | .shutterCut => Sys2Proof.Machine.execShutterCut s
  | .shutterDrainEnd cc => Sys2Proof.Machine.execShutterDrainEnd cc s
  | .outClear v => Sys2Proof.Machine.execOutClear v s
  | .reserveRemap => Sys2Proof.Machine.execReserveRemap s
  | .remapHoldEnd => Sys2Proof.Machine.execRemapHoldEnd s
  | .recoveryReplay permanent => Sys2Proof.Machine.execRecoveryReplay permanent s
  | .flashStackFailure stack => Sys2Proof.Machine.execFlashStackFailure stack s
  | .counterSnapshot => Sys2Proof.Machine.execCounterSnapshot s
  | .traceStart o cluster w => Sys2Proof.Machine.execTraceStart o cluster w s
  | .traceTrigger o cluster w => Sys2Proof.Machine.execTraceTrigger o cluster w s
  | .traceHalt o cluster w => Sys2Proof.Machine.execTraceHalt o cluster w s
  | .traceLossRecord cluster => Sys2Proof.Machine.execTraceLossRecord cluster s
  | .watchArm o watch w => Sys2Proof.Machine.execWatchArm o watch w s
  | .watchCancel o watch w => Sys2Proof.Machine.execWatchCancel o watch w s
  | .recorderWindow o window w => Sys2Proof.Machine.execRecorderWindow o window w s
  | .windowClose window => Sys2Proof.Machine.execWindowClose window s
  | .spectrumClear v => Sys2Proof.Machine.execSpectrumClear v s
  | .mailboxGo o w => Sys2Proof.Machine.execMailboxGo o w s
  | .mailboxDoneClear o w => Sys2Proof.Machine.execMailboxDoneClear o w s
  | .usdoRequest bus r => Sys2Proof.Machine.execUsdoRequest bus r s
  | .usdoTimeout bus => Sys2Proof.Machine.execUsdoTimeout bus s
  | .dictionaryRead => Sys2Proof.Machine.execDictionaryRead s
  | .dictionaryWrite => Sys2Proof.Machine.execDictionaryWrite s
  | .storeParameters v => Sys2Proof.Machine.execStoreParameters v s
  | .restoreDefaultParameters v => Sys2Proof.Machine.execRestoreDefaultParameters v s
  | .nmtStart bus => Sys2Proof.Machine.execNmtStart bus s
  | .nmtStop bus => Sys2Proof.Machine.execNmtStop bus s
  | .nmtEnterPreOperational bus => Sys2Proof.Machine.execNmtEnterPreOperational bus s
  | .nmtResetCommunication bus => Sys2Proof.Machine.execNmtResetCommunication bus s
  | .nmtResetNode bus => Sys2Proof.Machine.execNmtResetNode bus s
  | .classicalCanFrame bus => Sys2Proof.Machine.execClassicalCanFrame bus s
  | .heartbeat => Sys2Proof.Machine.execHeartbeat s
  | .tpdo n => Sys2Proof.Machine.execTpdo n s
  | .canTransmit bus => Sys2Proof.Machine.execCanTransmit bus s
  | .busOff bus => Sys2Proof.Machine.execBusOff bus s
  | .busOffRecovery bus => Sys2Proof.Machine.execBusOffRecovery bus s
  | .thermalWarning temp die => Sys2Proof.Machine.execThermalWarning temp die s
  | .takeover => Sys2Proof.Machine.execTakeover s
  | .startupStage stage unit pass detail beginMs endMs => Sys2Proof.Machine.execStartupStage stage unit pass detail beginMs endMs s
  | .stageTimeLimit timeMs => Sys2Proof.Machine.execStageTimeLimit timeMs s
  | .update v version verified moving charged mv => Sys2Proof.Machine.execUpdate v version verified moving charged mv s
  | .updateComplete verified => Sys2Proof.Machine.execUpdateComplete verified s
  | .activateSlot v => Sys2Proof.Machine.execActivateSlot v s
  | .handover => Sys2Proof.Machine.execHandover s
  | .handoverEnd digestMatches => Sys2Proof.Machine.execHandoverEnd digestMatches s
  | .handoverAbandon => Sys2Proof.Machine.execHandoverAbandon s
  | .ownerLock v => Sys2Proof.Machine.execOwnerLock v s
  | .ownerTransfer v => Sys2Proof.Machine.execOwnerTransfer v s
  | .debugUnlock v => Sys2Proof.Machine.execDebugUnlock v s
  | .tamperClear v => Sys2Proof.Machine.execTamperClear v s
  | .keysRevoked v => Sys2Proof.Machine.execKeysRevoked v s
  | .journalReset v => Sys2Proof.Machine.execJournalReset v s
  | .presence heldMs jumper => Sys2Proof.Machine.execPresence heldMs jumper s
  | .tamper openMs closed => Sys2Proof.Machine.execTamper openMs closed s
  | .currentTrip milliamp us => Sys2Proof.Machine.execCurrentTrip milliamp us s
  | .thermalTrip die temp => Sys2Proof.Machine.execThermalTrip die temp s
  | .laserInterlock port mateOpen lossUs => Sys2Proof.Machine.execLaserInterlock port mateOpen lossUs s
  | .laserProbePulse port signalBack => Sys2Proof.Machine.execLaserProbePulse port signalBack s
  | .getVersion => Sys2Proof.Machine.execGetVersion s
  | .getCapabilities => Sys2Proof.Machine.execGetCapabilities s
  | .negotiateAlgorithms offered => Sys2Proof.Machine.execNegotiateAlgorithms offered s
  | .getDigests => Sys2Proof.Machine.execGetDigests s
  | .getCertificate slot offset length => Sys2Proof.Machine.execGetCertificate slot offset length s
  | .challenge slot nonce => Sys2Proof.Machine.execChallenge slot nonce s
  | .getMeasurements signed block nonce => Sys2Proof.Machine.execGetMeasurements signed block nonce s
  | .keyExchange exchange => Sys2Proof.Machine.execKeyExchange exchange s
  | .finish verifies => Sys2Proof.Machine.execFinish verifies s
  | .endSession => Sys2Proof.Machine.execEndSession s
  | .chunkSend seq last data => Sys2Proof.Machine.execChunkSend seq last data s
  | .chunkGet seq size => Sys2Proof.Machine.execChunkGet seq size s
  | .vendorDefinedRequest standard vendor code => Sys2Proof.Machine.execVendorDefinedRequest standard vendor code s
  | .ideKm stream fn => Sys2Proof.Machine.execIdeKm stream fn s
  | .tdispRequest fn k => Sys2Proof.Machine.execTdispRequest fn k s
  | .perstN => Sys2Proof.Machine.execPerstN s
  | .flr fn => Sys2Proof.Machine.execFlr fn s
  | .flrPhysicalFunction => Sys2Proof.Machine.execFlrPhysicalFunction s
  | .bar2Read fn offset length ide => Sys2Proof.Machine.execBar2Read fn offset length ide s
  | .bar2Write fn offset data ide => Sys2Proof.Machine.execBar2Write fn offset data ide s
  | .dmaWindow fn insn w ide => Sys2Proof.Machine.execDmaWindow fn insn w ide s
  | .queueEnable fn q w ide => Sys2Proof.Machine.execQueueEnable fn q w ide s
  | .sqTailDoorbell fn q v entries ide => Sys2Proof.Machine.execSqTailDoorbell fn q v entries ide s
  | .cqHeadDoorbell fn q v ide => Sys2Proof.Machine.execCqHeadDoorbell fn q v ide s
  | .toModule q data poisoned => Sys2Proof.Machine.execToModule q data poisoned s
  | .toHost q => Sys2Proof.Machine.execToHost q s
  | .fence q => Sys2Proof.Machine.execFence q s
  | .hostCommandComplete q => Sys2Proof.Machine.execHostCommandComplete q s
  | .msixMessage vector => Sys2Proof.Machine.execMsixMessage vector s
  | .atsInvalidation addr => Sys2Proof.Machine.execAtsInvalidation addr s
  | .enShortMate => Sys2Proof.Machine.execEnShortMate s
  | .voltageExcursion mv => Sys2Proof.Machine.execVoltageExcursion mv s
  | .pwrGoodAssert nodeId ilim absentMs => Sys2Proof.Machine.execPwrGoodAssert nodeId ilim absentMs s
  | .inputLoss => Sys2Proof.Machine.execInputLoss s
  | .holdupEnd => Sys2Proof.Machine.execHoldupEnd s
  | .registerWrite o bar0 offset data ide => Sys2Proof.Machine.execRegisterWrite o bar0 offset data ide s
  | .addFrame f hw => Sys2Proof.Machine.execAddFrame f hw s
  | .inputRangeReturn mv => Sys2Proof.Machine.execInputRangeReturn mv s
  | .phase2Complete ctx => Sys2Proof.Machine.execPhase2Complete ctx s

end Sys2Proof.Machine
end

