-- ==== Sys2Proof/Safety.lean ====
section
/-!
DEFINITION. The terms in which claims about runs are stated: what is safe, when a core issues an instruction, and what a
command leaves as it was.
-/

namespace Sys2Proof.Machine

/-- The canonical form of the four memories: addresses strictly rising, no byte at what an unlisted address reads as. -/
def State.MemOk (s : State) : Prop :=
  tblWf byte0 s.stores = true ∧ tblWf imem0 s.imem = true ∧ tblWf byte0 s.lr = true ∧ tblWf byte0 s.side = true

/-- The tick lies in 0 to 1,249 (02 R35). -/
def State.TickOk (s : State) : Prop := s.time.tick ≤ 1249

/-- What every state of a run has: memories in canonical form and a tick that exists. -/
def State.Safe (s : State) : Prop := s.MemOk ∧ s.TickOk

/-- What the 18 cycles of a tick leave of a core: its counters of 17 Table 17-1 and the ticks that its wait has lasted (17 R376,
R377). -/
def tickedCore (s : State) (n : Nat) : Core :=
  if (s.getCore n).run = .running then (s.getCore n).runTick (s.stallCause n) else s.getCore n

/-- Every byte of every memory reads as before. -/
def SameBytes (s t : State) : Prop :=
  ∀ a, rdByte t.stores a = rdByte s.stores a ∧ rdImemByte t.imem a = rdImemByte s.imem a
    ∧ rdByte t.lr a = rdByte s.lr a ∧ rdByte t.side a = rdByte s.side a

/-- No header of a shard, factor or root that a context uses covers a byte of the long range. -/
def headerFree (s : State) (k : Nat) : Prop :=
  ∀ x ∈ s.ctxs, ∀ h ∈ x.2.headers, k < gaOffset h.2.1 ∨ gaOffset h.2.1 + headerBytes h.1 ≤ k

/-- Every byte reads as before but `n` bytes of the on-die stores from key `k`. -/
def SameBytesBut (s t : State) (k n : Nat) : Prop :=
  ∀ a, (a < k ∨ k + n ≤ a → rdByte t.stores a = rdByte s.stores a) ∧ rdImemByte t.imem a = rdImemByte s.imem a
    ∧ rdByte t.lr a = rdByte s.lr a ∧ rdByte t.side a = rdByte s.side a

/-- The core as the instructions of a group read it: registers as they stood before the group (03 R64). -/
def State.groupView (s : State) (core : Nat) : Core :=
  let c := s.getCore core
  if c.pos = 0 then { c with snapS := c.sreg, snapA := c.areg, snapT := c.treg } else c

/-- A core issues instruction `i`: its sequencer runs and waits for nothing, instruction memory holds `i` at the place
where it goes on, and where `i` opens a group, the group meets no fault cause (03 R79) and no wait. -/
def State.Issues (s : State) (core : Nat) (i : Insn) : Prop :=
  let c := s.getCore core
  c.canIssue = true ∧ s.insnAt core (c.pc + c.pos) = i ∧
    (c.pos = 0 →
      s.groupFault core (s.groupView core) (s.groupAt core c.pc) = none ∧ groupRunsOut (s.groupAt core c.pc) = false
        ∧ s.groupWait core (s.groupView core) (s.groupAt core c.pc) = none)

/-- The state in which an instruction of a core takes effect: an instruction that opens a group opens it first. -/
def State.opened (s : State) (core : Nat) : State := if (s.getCore core).pos = 0 then s.openGroup core else s

/-- The stores as an instruction of a core reads them: as they stood before its group (03 R60). -/
def State.undone (s : State) (core : Nat) : State :=
  { s with stores := undoWrites (s.getCore core).groupLog s.stores }

/-- The state that an instruction of a core reads: its group is open, and the stores are as they stood before it (03 R60, R64). -/
def State.before (s : State) (core : Nat) : State := (s.opened core).undone core

/-- A write of a group and the bytes that it may concern. -/
def GroupWrite.Touches (w : GroupWrite) (x : Nat) : Prop := w.key ≤ x ∧ x < w.key + max w.old.length w.data.length

/-- What the instructions that the group has issued before have written; none where an instruction opens its group. -/
def State.written (s : State) (core : Nat) : List GroupWrite :=
  if (s.getCore core).pos = 0 then [] else (s.getCore core).groupLog

/-- Bytes `d` that instruction `i` of a core writes from key `k` land: a byte that no earlier write of its group of a higher rank
touches is `d`'s, and a byte that such a write has set alone keeps that write's value (03 R60). -/
def Lands (s t : State) (core : Nat) (i : Insn) (k : Nat) (d : List Byte) : Prop :=
  ∀ j, (hj : j < d.length) →
    ((∀ w ∈ s.written core, w.Touches (k + j) → w.rank ≤ i.rank) → rdByte t.stores (k + j) = d[j])
    ∧ ∀ w ∈ s.written core, i.rank < w.rank → w.rank < 4 → w.add = false → w.key ≤ k + j →
      (hx : k + j - w.key < w.data.length) →
      (∀ v ∈ s.written core, v.Touches (k + j) → v.rank < w.rank ∨ v = w) → rdByte t.stores (k + j) = w.data[k + j - w.key]

/-- What follows an instruction's effect: the end of its group, or the place of the next instruction of the group. -/
def State.closed (s : State) (core : Nat) (i : Insn) : State :=
  if i.last then s.endGroup core else s.modCore core fun c => { c with pos := c.pos + 1 }

/-- What s register `r` of a core reads as. -/
def State.sReg (s : State) (core r : Nat) : W64 := tblGet w64z (s.getCore core).sreg r
def State.aReg (s : State) (core r : Nat) : W64 := tblGet w64z (s.getCore core).areg r
def State.tReg (s : State) (core r : Nat) : W128 := tblGet w128z (s.getCore core).treg r

/-- Every s, a and t register of every core reads as before, but those of one core that are named (by kind and number). -/
def SameRegsBut (s t : State) (core : Nat) (sr ar tr : List Nat) : Prop :=
  (∀ n r, (n ≠ core ∨ r ∉ sr) → t.sReg n r = s.sReg n r) ∧ (∀ n r, (n ≠ core ∨ r ∉ ar) → t.aReg n r = s.aReg n r)
    ∧ (∀ n r, (n ≠ core ∨ r ∉ tr) → t.tReg n r = s.tReg n r)

/-- The accumulators, counters, special registers and control words of a core that an instruction writes only where
its rule says so. -/
def SameSpecials (s t : State) (core : Nat) : Prop :=
  (t.getCore core).acc = (s.getCore core).acc ∧ (t.getCore core).ctr = (s.getCore core).ctr
    ∧ (t.getCore core).sat = (s.getCore core).sat ∧ (t.getCore core).startSweep = (s.getCore core).startSweep
    ∧ (t.getCore core).startTick = (s.getCore core).startTick ∧ (t.getCore core).stepNf = (s.getCore core).stepNf
    ∧ (∀ n, n ≠ core → t.getCore n = s.getCore n)

/-- The increment that the CTR field of a completed instruction asks for waits to be applied (12 R283); 0x3F asks for none. -/
def CtrAsked (s t : State) (core : Nat) (i : Insn) : Prop :=
  ∃ g, (t.getCore core).ctrPend
    = (s.getCore core).ctrPend ++ if i.ctr.toNat < 48 then [⟨g, i.ctr.toNat, false, 1, (s.getCore core).pc, i.latency⟩] else []

/-- Two runs of bytes of a core's stores that share none. -/
def Apart (core : Nat) (a : Int) (n : Nat) (b : Int) (m : Nat) : Prop :=
  storeKey core a.toNat + n ≤ storeKey core b.toNat ∨ storeKey core b.toNat + m ≤ storeKey core a.toNat

/-- What a vector instruction leaves as it was: memories other than the stores, registers but the descriptors that INC
advances, accumulators, counters and the other cores. -/
def VecFrame (s t : State) (core : Nat) (i : Insn) (regs : List (BitVec 6)) : Prop :=
  (∀ x, rdImemByte t.imem x = rdImemByte s.imem x ∧ rdByte t.lr x = rdByte s.lr x ∧ rdByte t.side x = rdByte s.side x)
    ∧ SameRegsBut s t core [] [] (if i.flagB 2 then regs.map fun r => r.toNat - 0x30 else [])
    ∧ (t.getCore core).acc = (s.getCore core).acc ∧ (t.getCore core).ctr = (s.getCore core).ctr
    ∧ (∀ n : Nat, n ≠ core → t.getCore n = s.getCore n) ∧ CtrAsked s t core i

/-- Only one context and the answer differ. -/
def OnlyCtx (s t : State) (ctx : Nat) : Prop :=
  (∃ x, t = { s with ctxs := x, resp := t.resp }) ∧ ∀ n, n ≠ ctx → t.getCtx n = s.getCtx n

/-- The command is accepted and answered OK with nothing changed beyond `t`. -/
def Accepted (c : Instr) (s : State) (P : State → Prop) : Prop :=
  ∃ t, exec c s = .next t ∧ t.resp.status = 0 ∧ P t

end Sys2Proof.Machine
end

