-- ==== Sys2Proof/Certificates/Slice0/Obligations.lean ====
section
/-!
DEFINITION. The statements for the provers, in the order of OBLIGATIONS.json. Helper definitions stand before the first statement
that uses them. Where a statement rests on a choice of the model, its title or docstring names the log entry.
-/

open Sys2Proof Sys2Proof.Machine

/-- SYSREF (02 R34, R40, R42, R44). -/
def Obligations.SysrefStates : Prop :=
  (∀ (ppm : Int) (s : State), ppm.natAbs ≤ 100 → s.time.locked = false → s.time.held = false →
    exec (.sysrefLock ppm) s = .next { s with time := { s.time with locked := true, everLocked := true } })
  ∧ (∀ s : State, s.time.locked = true → s.time.held = false →
    exec .sysrefLoss s = .next { s with time := { s.time with locked := false } })
  ∧ (∀ s : State, s.time.locked = true → s.time.held = true → ∃ t, exec .sysrefLoss s = .next t
    ∧ { t with dict := s.dict, host := s.host } = { s with time := { s.time with
        locked := false, source := .holdover, holdFrom := some s.time.boundaries,
        prevSource := if s.time.source = .holdover then s.time.prevSource else s.time.source } })
  ∧ (∀ (e : Int) (b : Nat) (s : State), s.time.locked = false → s.time.everLocked = true → s.time.held = true →
    s.time.holdFrom = some b → s.time.boundaries < b + s.od 0x2200 0xC → s.time.drifted = false →
    (e - (if s.time.prevSource = .wired then s.od 0x2200 5 else s.od 0x2200 0x10 : Nat)).natAbs
      ≤ (if s.time.prevSource = .wired then 2 else 72) →
    exec (.sysrefReturn e) s = .next { s with time := { s.time with
      locked := true, holdFrom := none, source := s.time.prevSource } })
  ∧ (∀ (e : Int) (s : State), s.time.locked = false → s.time.everLocked = true → s.time.held = true →
    s.time.holdFrom = none →
    (e - (if s.time.prevSource = .wired then s.od 0x2200 5 else s.od 0x2200 0x10 : Nat)).natAbs
      ≤ (if s.time.prevSource = .wired then 2 else 72) →
    exec (.sysrefReturn e) s = .next { s with time := { s.time with locked := true, holdFrom := none, drifted := true } })
  ∧ (∀ (b : Nat) (s : State), s.time.holdFrom = some b → s.time.source = .holdover → s.time.locked = false →
    b + s.od 0x2200 0xC ≤ s.time.boundaries → ∃ t, exec .holdoverLimit s = .next t
    ∧ (s.activeMask % 2 ^ 16 ≠ 0 →
        t.cuts = s.cuts ++ [⟨s.time.boundaries + 1, BitVec.ofNat 16 s.activeMask, cutHoldover⟩])
    ∧ t.boot.journal = ⟨s.boot.boot, 0, 0, 10, 4, 0, 0⟩ :: s.boot.journal
    ∧ { t with dict := s.dict, host := s.host, boot := s.boot, long := s.long, cuts := s.cuts }
      = { s with time := { s.time with holdFrom := none } })
  ∧ (∀ (e : Int) (s : State), s.time.locked = false → s.time.everLocked = true → s.time.held = true →
      (if s.time.prevSource = .wired then 2 else 72)
        < (e - (if s.time.prevSource = .wired then s.od 0x2200 5 else s.od 0x2200 0x10 : Nat)).natAbs → ∃ t, exec (.sysrefReturn e) s = .next t
      ∧ t.time.locked = true ∧ t.time.holdFrom = none ∧ t.time.drifted = true ∧ t.time.source = s.time.source
      ∧ t.time.errRun = s.time.errRun + 1 ∧ t.time.sweep = s.time.sweep ∧ t.time.tick = s.time.tick
      ∧ t.time.boundaries = s.time.boundaries
      ∧ { t with dict := s.dict, host := s.host, power := s.power, time := s.time } = s)

/-- One tick, and a sweep boundary (02 R35 to R37, R39, R43). -/
def Obligations.TicksAndBoundaries : Prop :=
  (∀ s : State, s.time.everLocked = true → s.time.tick < 1249 → s.tickHeld = false → ∃ t, exec .tick s = .next t
      ∧ t.time = { s.time with tick := s.time.tick + 1, shownCc := 0 }
      ∧ (∀ n, t.getCore n = tickedCore s n)
      ∧ { t with
          time := s.time, cores := s.cores, clusters := s.clusters, ports := s.ports, dict := s.dict, host := s.host, lr := s.lr,
          long := s.long, stores := s.stores, txq := s.txq, freeCtr := s.freeCtr } = s
      ∧ ((∀ c ∈ s.clusters, c.2.tState ≠ 2 ∧ c.2.solverRun = none) →
          { t with time := s.time, cores := s.cores, ports := s.ports, freeCtr := s.freeCtr } = s))
  ∧ (∀ (n : Nat) (s : State), (s.getCore n).run = .running → s.stallCause n = none →
      tickedCore s n = { s.getCore n with
        counts := tblUpd w48z (s.getCore n).counts 0x400 (fun v => v + 18),
        wait := (s.getCore n).wait.map fun w => { w with ticks := w.ticks + 1 } })
  ∧ (∀ (n k : Nat) (s : State), (s.getCore n).run = .running → s.stallCause n = some k →
      tickedCore s n = { s.getCore n with
        counts := tblUpd w48z (tblUpd w48z (s.getCore n).counts 0x400 (fun v => v + 18)) (0x568 + 8 * k) (fun v => v + 18),
        wait := (s.getCore n).wait.map fun w => { w with ticks := w.ticks + 1 } })
  ∧ (∀ s : State, s.time.everLocked = true → s.time.tick = 1249 → s.tickHeld = false → ∃ t, exec .sweepBoundary s = .next t
      ∧ t.time.sweep = (if s.time.held then (s.time.sweep + 1) % 2 ^ 64 else s.time.sweep) ∧ t.time.tick = 0
      ∧ t.time.boundaries = s.time.boundaries + 1 ∧ t.time.beaconPeriod = s.time.beaconNext
      ∧ t.time.held = s.time.held ∧ t.time.locked = s.time.locked ∧ t.time.rephaseReq = false
      ∧ (s.time.rephaseReq = false → t.time.source = s.time.source ∧ t.time.drifted = s.time.drifted)
      ∧ (s.time.rephaseReq = true → t.time.drifted = false
          ∧ t.time.source = if s.time.source = .holdover ∧ s.time.locked = true then s.time.prevSource else s.time.source)
      ∧ (∀ n, t.getCore n = tickedCore s n)
      ∧ { t with
          time := s.time, freeCtr := s.freeCtr, long := s.long, dict := s.dict, boot := s.boot, repair := s.repair,
          ports := s.ports, obs := s.obs, host := s.host, clusters := s.clusters, txq := s.txq, cores := s.cores,
          lr := s.lr, stores := s.stores } = s)

/-- SWEEP edges (02 R36, R42, R45, 21 R465). -/
def Obligations.SweepEdgesCheckOnly : Prop :=
  (∀ (e : Int) (ns : Nat) (s : State),
    (ns < 9000 ∨ s.time.everLocked = false ∨ s.time.held = true ∨ s.time.phased = true) → ∃ t, exec (.sweepEdge e ns) s = .next t
    ∧ t.time.sweep = s.time.sweep ∧ t.time.tick = s.time.tick ∧ t.time.boundaries = s.time.boundaries
    ∧ t.time.source = s.time.source ∧ t.time.phased = s.time.phased
    ∧ t.time.sweepWired = (s.time.sweepWired || decide (9000 ≤ ns))
    ∧ t.time.errRun = (if ns < 9000 then s.time.errRun + 1
        else if s.time.everLocked = false then s.time.errRun
        else if (e - (s.od 0x2200 5 : Int)).natAbs ≤ 2 then 0 else s.time.errRun + 1)
    ∧ (t.time.errRun = 3 → s.time.errRun = 2 → alPhase ∈ t.power.alerts)
    ∧ (9000 ≤ ns → s.time.everLocked = true → (e - (s.od 0x2200 5 : Int)).natAbs ≤ 2 → alPhase ∉ t.power.alerts)
    ∧ { t with time := s.time, dict := s.dict, host := s.host, power := s.power } = s)
  ∧ (∀ (e : Int) (ns : Nat) (s : State), 9000 ≤ ns → s.time.everLocked = true → s.time.held = false → s.time.phased = false →
    ∃ t, exec (.sweepEdge e ns) s = .next t
    ∧ t.time.sweepWired = true ∧ t.time.phased = true ∧ t.time.held = false ∧ t.time.source = s.time.source
    ∧ t.time.boundaries = s.time.boundaries + 1 ∧ t.time.tick = s.od 0x2200 5 % 22500 / 18 ∧ t.time.errRun = s.time.errRun
    ∧ { t with
        time := s.time, freeCtr := s.freeCtr, long := s.long, dict := s.dict, boot := s.boot, repair := s.repair,
        ports := s.ports, obs := s.obs, host := s.host, clusters := s.clusters, txq := s.txq } = s)

/-- Beacons and probes (02 R37, R38, R41, R46, R55). -/
def Obligations.BeaconsGiveTheCount : Prop :=
  (∀ (f : Frame) (cc : Nat) (s : State), f.hasKind 7 = true → f.payload.length = 8 → s.master = false →
    s.time.held = false → s.time.locked = true → s.time.sweepWired = true →
    exec (.beacon f cc) s = .next { s with time := { s.time with
      held := true, beaconFrom := some f.src, source := .wired,
      sweep := (((leNat f.payload : Int) - nearestBoundary ((cc : Int) - (s.od 0x2200 0x10 : Int))) % 2 ^ 64).toNat } })
  ∧ (∀ (f : Frame) (cc : Nat) (s : State), f.hasKind 7 = true → f.payload.length = 8 → s.master = false →
    s.time.held = false → s.time.locked = true → s.time.sweepWired = false → s.od 0x2200 0x10 < 22500 →
    ∃ t, exec (.beacon f cc) s = .next t
      ∧ t.time.held = true ∧ t.time.beaconFrom = some f.src ∧ t.time.source = .beacon
      ∧ t.time.sweep = leNat f.payload ∧ t.time.tick = s.od 0x2200 0x10 / 18 ∧ t.time.boundaries = s.time.boundaries + 1
      ∧ { t with
          time := s.time, freeCtr := s.freeCtr, long := s.long, dict := s.dict, boot := s.boot, repair := s.repair,
          ports := s.ports, obs := s.obs, host := s.host, clusters := s.clusters, txq := s.txq } = s)
  ∧ (∀ (f : Frame) (cc : Nat) (s : State), f.hasKind 7 = true → f.payload.length = 8 →
    (s.master = true ∧ f.src ≠ s.moduleId ∨
      s.master = false ∧ s.time.held = true ∧ s.time.beaconFrom ≠ some f.src) →
    ∃ t, exec (.beacon f cc) s = .next t ∧ t.time = s.time ∧ t.od 0x2200 0xF = f.src % 2 ^ 64
      ∧ { t with dict := s.dict, host := s.host } = s)
  ∧ (∀ (f : Frame) (cc : Nat) (s : State), f.hasKind 7 = true → f.payload.length ≠ 8 →
    exec (.beacon f cc) s = .next s.discard)
  ∧ (∀ (f : Frame) (cc : Nat) (s : State), f.hasKind 8 = true → s.inWindow f = true →
    exec (.probe f cc) s = .next { s with time := { s.time with probes := s.time.probes ++ [(f.src, cc)] } })

/-- The epoch, re-phasing and refresh (02 R37, R40, R41, R43, R51). -/
def Obligations.EpochAndRephase : Prop :=
  (∀ s : State, s.indexServed 0x2200 = true → s.quiescent = true → s.master = true → s.time.source = .unlocked →
    s.time.locked = true → s.time.epochUsed = false → ∃ t, exec (.epochStart 1) s = .next t ∧ t.resp.abort = 0
    ∧ { t with dict := s.dict, resp := s.resp, txq := s.txq }
      = { s with time := { s.time with epochUsed := true, epochAt := some (s.time.boundaries + 1) } })
  ∧ (∀ (b : Nat) (s : State), s.time.epochAt = some b → b ≤ s.time.boundaries →
    ∃ t, exec .systemEpoch s = .next t ∧ { t with txq := s.txq } = { s with time := { s.time with
      held := true, sweep := 0, epochAt := none, source := if s.time.sweepWired then .wired else .beacon } })
  ∧ (∀ s : State, s.indexServed 0x2200 = true → s.quiescent = true → ∃ t, exec (.rephase 1) s = .next t
    ∧ t.resp.abort = 0
    ∧ { t with dict := s.dict, resp := s.resp, txq := s.txq } = { s with time := { s.time with rephaseReq := true } })
  ∧ (∀ (c : Int) (s : State), s.time.rephaseReq = true → (s.time.sweepWired = true ∨ s.time.beaconFrom.isSome = true) →
    s.time.everLocked = true → s.tickHeld = false →
    s.time.tick = rephaseTick (c - (if s.time.sweepWired then s.od 0x2200 5 else s.od 0x2200 0x10 : Nat)) →
    ∃ t, exec (.sweepRephase c) s = .next t
    ∧ t.time.sweep = (if s.time.held then (s.time.sweep + 1) % 2 ^ 64 else s.time.sweep) ∧ t.time.tick = 0
    ∧ t.time.boundaries = s.time.boundaries + 1 ∧ t.time.rephaseReq = false ∧ t.time.drifted = false
    ∧ t.time.source = (if s.time.source = .holdover ∧ s.time.locked = true then s.time.prevSource else s.time.source)
    ∧ (∀ n, t.getCore n = tickedCore s n)
    ∧ { t with
        time := s.time, freeCtr := s.freeCtr, long := s.long, dict := s.dict, boot := s.boot, repair := s.repair,
        ports := s.ports, obs := s.obs, host := s.host, clusters := s.clusters, txq := s.txq, cores := s.cores,
        lr := s.lr, stores := s.stores } = s)
  ∧ (∀ (stack : Fin 16) (s : State), s.time.tick ∈ [100, 517, 933] → ∃ t, exec (.hbmRefresh stack) s = .next t
    ∧ tblGet nat0 t.long.refreshes stack.val = tblGet nat0 s.long.refreshes stack.val + 1
    ∧ { t with long := { t.long with refreshes := s.long.refreshes } } = s)

/-- The rows of the scalar operations with their OP and the function each one computes (03 Table 03-6, R71). -/
def scalarRows : List ((Fin 512 → Insn → Instr) × Nat × (W64 → W64 → W64)) :=
  [(.add, 0x01, fun x y => x + y), (.sub, 0x02, fun x y => x - y), (.mul, 0x03, fun x y => x * y),
   (.and_, 0x04, fun x y => x &&& y), (.or_, 0x05, fun x y => x ||| y), (.xor_, 0x06, fun x y => x ^^^ y),
   (.shl, 0x07, fun x y => if 64 ≤ y.toNat then 0 else x <<< y.toNat),
   (.shr, 0x08, fun x y => if 64 ≤ y.toNat then 0 else x >>> y.toNat),
   (.sra, 0x09, fun x y => x.sshiftRight (min y.toNat 64)),
   (.cmplt, 0x0A, fun x y => if x.toInt < y.toInt then 1 else 0),
   (.cmpeq, 0x0B, fun x y => if x = y then 1 else 0)]

/-- Scalar arithmetic, logic, shifts and comparisons (03 R71). -/
def Obligations.ScalarResults : Prop :=
  ∀ r ∈ scalarRows, ∀ (core : Fin 512) (i : Insn) (s : State), i.isOp 0 r.2.1 = true → s.Issues core i →
    ∃ t, exec (r.1 core i) s = .next t
      ∧ t.sReg core i.dst.toNat = r.2.2 ((s.groupView core).rdS i.src1)
          (if i.flags.getLsbD 0 then i.imm else (s.groupView core).rdS i.src2)
      ∧ SameRegsBut s t core [i.dst.toNat] [] [] ∧ SameSpecials s t core ∧ SameBytes s t ∧ CtrAsked s t core i

/-- Moves, special values and loads (03 R65, R71, Table 03-4); hardware checks find no fault here. -/
def Obligations.RegisterMoves : Prop :=
  ∀ (core : Fin 512) (i : Insn) (s : State), s.Issues core i →
    (i.isOp 0 0x10 = true → isS i.dst = true → ∃ t, exec (.movi core i) s = .next t
      ∧ t.sReg core i.dst.toNat = i.imm
      ∧ SameRegsBut s t core [i.dst.toNat] [] [] ∧ SameSpecials s t core ∧ SameBytes s t ∧ CtrAsked s t core i)
    ∧ (i.isOp 0 0x10 = true → isA i.dst = true → ∃ t, exec (.movi core i) s = .next t
      ∧ t.aReg core (i.dst.toNat - 0x20) = i.imm
      ∧ SameRegsBut s t core [] [i.dst.toNat - 0x20] [] ∧ SameSpecials s t core ∧ SameBytes s t ∧ CtrAsked s t core i)
    ∧ (i.isOp 0 0x16 = true → ∃ t, exec (.amov core i) s = .next t
      ∧ t.aReg core (i.dst.toNat - 0x20) = (s.groupView core).rdS i.src1
      ∧ SameRegsBut s t core [] [i.dst.toNat - 0x20] [] ∧ SameSpecials s t core ∧ SameBytes s t ∧ CtrAsked s t core i)
    ∧ (i.isOp 0 0x11 = true → ∃ t, exec (.lds core i .ok) s = .next t
      ∧ t.sReg core i.dst.toNat
        = BitVec.ofNat 64 (leNat ((s.groupBefore core).rdLocal core ((s.groupView core).rdS i.src1 + i.imm).toNat 8))
      ∧ SameRegsBut s t core [i.dst.toNat] [] [] ∧ SameSpecials s t core ∧ SameBytes s t ∧ CtrAsked s t core i)
    ∧ (i.isOp 0 0x14 = true → ∃ t, exec (.tld core i .ok) s = .next t
      ∧ t.tReg core (i.dst.toNat - 0x30)
        = BitVec.ofNat 128 (leNat ((s.groupBefore core).rdLocal core ((s.groupView core).rdS i.src1 + i.imm).toNat 16))
      ∧ SameRegsBut s t core [] [] [i.dst.toNat - 0x30] ∧ SameSpecials s t core ∧ SameBytes s t ∧ CtrAsked s t core i)
    ∧ (i.isOp 0 0x13 = true → ∃ t, exec (.srd core i) s = .next t
      ∧ (i.imm = 0 → t.sReg core i.dst.toNat = BitVec.ofNat 64 s.time.sweep
          ∧ t.sReg core (i.dst.toNat + 1) = BitVec.ofNat 64 s.time.tick)
      ∧ (i.imm = 1 → ∃ k, k < s.tickLength ∧ (s.time.shownCc < s.tickLength → s.time.shownCc ≤ k)
          ∧ t.sReg core i.dst.toNat = BitVec.ofNat 64 (s.time.tick * 18 + k))
      ∧ (i.imm = 2 → ∃ k, k < s.tickLength ∧ (s.time.shownCc < s.tickLength → s.time.shownCc ≤ k)
          ∧ t.sReg core i.dst.toNat = BitVec.ofNat 64 (s.time.sweep * 22500 + (s.time.tick * 18 + k)))
      ∧ (i.imm = 3 → t.sReg core i.dst.toNat = BitVec.ofNat 64 core.val)
      ∧ (i.imm = 4 → ∀ x, s.ctxOfCore core = some x → t.sReg core i.dst.toNat = BitVec.ofNat 64 x)
      ∧ (i.imm = 5 → t.sReg core i.dst.toNat = BitVec.ofNat 64 s.moduleId)
      ∧ (i.imm = 6 → ∀ x, s.ctxOfCore core = some x → t.sReg core i.dst.toNat = (s.getCtx x).stepNo)
      ∧ (i.imm = 7 → ∀ x, s.ctxOfCore core = some x → t.sReg core i.dst.toNat = BitVec.ofNat 64 (s.versionOf x))
      ∧ SameRegsBut s t core (if i.imm = 0 then [i.dst.toNat, i.dst.toNat + 1] else [i.dst.toNat]) [] []
      ∧ SameSpecials s t core ∧ SameBytes s t ∧ CtrAsked s t core i)

/-- Scalar and descriptor stores (03 R71); the stored bytes start at `storeKey core (SRC1 + IMM)`. -/
def Obligations.StoresWriteTheirBytes : Prop :=
  ∀ (core : Fin 512) (i : Insn) (s : State), s.Issues core i →
    let a := ((s.groupView core).rdS i.src1 + i.imm).toNat
    (i.isOp 0 0x12 = true → ∃ t, exec (.sts core i) s = .next t
      ∧ Lands s t core i (storeKey core a) (leBytes 8 ((s.groupView core).rdS i.src2).toNat)
      ∧ SameBytesBut s t (storeKey core a) 8 ∧ SameRegsBut s t core [] [] [] ∧ SameSpecials s t core
      ∧ CtrAsked s t core i)
    ∧ (i.isOp 0 0x15 = true → ∃ t, exec (.tst core i) s = .next t
      ∧ Lands s t core i (storeKey core a) (leBytes 16 ((s.groupView core).rdT i.src2).toNat)
      ∧ SameBytesBut s t (storeKey core a) 16 ∧ SameRegsBut s t core [] [] [] ∧ SameSpecials s t core
      ∧ CtrAsked s t core i)

/-- Control transfers (03 R69, R79, R81). A group that holds BR, BRNZ or LOOP holds no HALT, which shares their lane (R67). -/
def Obligations.ControlMovesThePc : Prop :=
  ∀ (core : Fin 512) (i : Insn) (s : State), s.Issues core i →
    let c := s.getCore core
    let g := s.groupAt core c.pc
    let e := c.pc + g.length - 1
    let noHalt := g.any (fun p => p.2.clsN == 0 && p.2.opN == 0x2F) = false
    let same := fun t => SameRegsBut s t core [] [] [] ∧ SameSpecials s t core ∧ SameBytes s t ∧ CtrAsked s t core i
    let jumps := fun t : State => (i.immN ≤ 4095 → s.groupStart core i.immN = true →
          (t.getCore core).pc = i.immN ∧ (t.getCore core).pos = 0 ∧ (t.getCore core).faulted = false)
        ∧ (4095 < i.immN → (t.getCore core).faulted = true ∧ fld (t.getCore core).faultInfo 7 0 = 7)
        ∧ (i.immN ≤ 4095 → s.groupStart core i.immN = false →
            (t.getCore core).faulted = true ∧ fld (t.getCore core).faultInfo 7 0 = 0xC)
    (i.isOp 0 0x20 = true → i.last = true → noHalt → ∃ t, exec (.br core i) s = .next t ∧ jumps t ∧ same t)
    ∧ (i.isOp 0 0x21 = true → i.last = true → noHalt → (s.groupView core).rdS i.src1 ≠ 0 →
        ∃ t, exec (.brnz core i) s = .next t ∧ jumps t ∧ same t)
    ∧ (i.isOp 0 0x21 = true → i.last = true → noHalt → (s.groupView core).rdS i.src1 = 0 → c.taken = none →
        c.loopNew = none → ∃ t, exec (.brnz core i) s = .next t
          ∧ ((loopBack e c.loops).1 ≤ 4095 → (t.getCore core).pc = (loopBack e c.loops).1
              ∧ (t.getCore core).loops = (loopBack e c.loops).2) ∧ same t)
    ∧ (i.isOp 0 0x22 = true → i.last = true → noHalt → c.taken = none → s.loopOk core e i.immN = true →
        ∃ t, exec (.loop core i) s = .next t
          ∧ ((s.groupView core).rdS i.src1 ≠ 0 → e + 1 ≤ 4095 → (t.getCore core).pc = e + 1
              ∧ (t.getCore core).loops = ⟨e + 1, i.immN, ((s.groupView core).rdS i.src1).toNat⟩ :: c.loops)
          ∧ ((s.groupView core).rdS i.src1 = 0 → (loopBack i.immN c.loops).1 ≤ 4095 →
              (t.getCore core).pc = (loopBack i.immN c.loops).1
              ∧ (t.getCore core).loops = (loopBack i.immN c.loops).2) ∧ same t)
    ∧ (i.isOp 0 0x2F = true → i.last = true → (e, i) ∈ g → ∃ t, exec (.halt core i) s = .next t
        ∧ (t.getCore core).run = .halted ∧ same t)
    ∧ (i.last = false → ∀ r ∈ [(Instr.br core i, 0x20), (.brnz core i, 0x21), (.loop core i, 0x22), (.halt core i, 0x2F)],
        i.isOp 0 r.2 = true → ∃ t, exec r.1 s = .next t ∧ (t.getCore core).pos = c.pos + 1
          ∧ (t.getCore core).pc = c.pc ∧ (t.getCore core).run = c.run ∧ same t)

/-- MMA (05 R109, R113, R116); hardware checks find no fault here. -/
def Obligations.MmaAccumulates : Prop :=
  ∀ (core : Fin 512) (i : Insn) (s : State), i.isOp 1 1 = true → s.Issues core i →
    let v := s.groupView core
    ∃ t, exec (.mma core i .ok) s = .next t
      ∧ (∀ r j, r < 16 → j < 16 → (t.getCore core).accAt i.engine i.slot r j =
          let sum := dotElem (((s.groupBefore core).operand core (v.rdT i.src1)).getD r []) (((s.groupBefore core).operand core (v.rdT i.src2)).getD j [])
          if i.flagB 0 then sum else rnd (FV.add (v32 ((s.getCore core).accAt i.engine i.slot r j)) (v32 sum)))
      ∧ (∀ e k r j, k < 8 → r < 16 → j < 16 → ¬ (e = i.engine ∧ k = i.slot) →
          (t.getCore core).accAt e k r j = (s.getCore core).accAt e k r j)
      ∧ SameRegsBut s t core [] [] ((if i.flagB 1 then [i.src1.toNat - 0x30] else [])
          ++ if i.flagB 2 then [i.src2.toNat - 0x30] else [])
      ∧ (t.getCore core).ctr = (s.getCore core).ctr ∧ (t.getCore core).stepNf = (s.getCore core).stepNf
      ∧ (∀ n : Nat, n ≠ core.val → t.getCore n = s.getCore n) ∧ SameBytes s t ∧ CtrAsked s t core i

/-- MMA.T (05 R116, R117); `mmaTSlots` gives the first slot of the group and their number. -/
def Obligations.TransposedMma : Prop :=
  ∀ (core : Fin 512) (i : Insn) (s : State), i.isOp 1 2 = true → s.Issues core i →
    let v := s.groupView core
    let A := (s.groupBefore core).operand core (v.rdT i.src1)
    let B := (s.groupBefore core).operand core (v.rdT i.src2)
    let g := (mmaTSlots i.fmtN i.slot).1
    let q := (mmaTSlots i.fmtN i.slot).2
    let line := fun r => if q = 1 then A.getD r [] else ((A.getD r []).drop (16 * (i.slot - g))).take 16
    let column := fun j => B.map fun b => b.getD j .nan
    ∃ t, exec (.mmaT core i .ok) s = .next t
      ∧ (∀ n r j, n < q → r < 16 → j < 16 → (t.getCore core).accAt i.engine (g + n) r j =
          let sum := dotElem (line r) (column (16 * n + j))
          if i.flagB 0 then sum else rnd (FV.add (v32 ((s.getCore core).accAt i.engine (g + n) r j)) (v32 sum)))
      ∧ (∀ e k r j, k < 8 → r < 16 → j < 16 → ¬ (e = i.engine ∧ g ≤ k ∧ k < g + q) →
          (t.getCore core).accAt e k r j = (s.getCore core).accAt e k r j)
      ∧ SameRegsBut s t core [] [] ((if i.flagB 1 then [i.src1.toNat - 0x30] else [])
          ++ if i.flagB 2 then [i.src2.toNat - 0x30] else [])
      ∧ (t.getCore core).ctr = (s.getCore core).ctr ∧ (t.getCore core).stepNf = (s.getCore core).stepNf
      ∧ (∀ n : Nat, n ≠ core.val → t.getCore n = s.getCore n) ∧ SameBytes s t ∧ CtrAsked s t core i

/-- MMA.D (05 R111); an odd slot is fault cause 0x05. -/
def Obligations.DoubletMma : Prop :=
  ∀ (core : Fin 512) (i : Insn) (s : State), i.isOp 1 3 = true → s.Issues core i → i.slot % 2 = 0 →
    let v := s.groupView core
    let A := tileDoublets ((s.groupBefore core).rdLocal core (dAddr (v.rdT i.src1)).toNat 2048)
    let B := tileDoublets ((s.groupBefore core).rdLocal core (dAddr (v.rdT i.src2)).toNat 2048)
    ∃ t, exec (.mmaD core i .ok) s = .next t
      ∧ (∀ r j, r < 16 → j < 16 →
          let p := dblDot (A.getD r []) (B.getD j [])
          let res := if i.flagB 0 then p
            else dadd ((s.getCore core).accAt i.engine i.slot r j, (s.getCore core).accAt i.engine (i.slot + 1) r j) p
          (t.getCore core).accAt i.engine i.slot r j = res.1 ∧ (t.getCore core).accAt i.engine (i.slot + 1) r j = res.2)
      ∧ (∀ e k r j, k < 8 → r < 16 → j < 16 → ¬ (e = i.engine ∧ (k = i.slot ∨ k = i.slot + 1)) →
          (t.getCore core).accAt e k r j = (s.getCore core).accAt e k r j)
      ∧ SameRegsBut s t core [] [] ((if i.flagB 1 then [i.src1.toNat - 0x30] else [])
          ++ if i.flagB 2 then [i.src2.toNat - 0x30] else [])
      ∧ (t.getCore core).ctr = (s.getCore core).ctr ∧ (t.getCore core).stepNf = (s.getCore core).stepNf
      ∧ (∀ n : Nat, n ≠ core.val → t.getCore n = s.getCore n) ∧ SameBytes s t ∧ CtrAsked s t core i

/-- DRAIN (05 R118, R119, 06 R130, R131; the order of the group's writers, 03 R60); hardware checks find no fault here. Where ACCUM adds
to a tile that an earlier instruction of the group has written, or to one that its own record lies in, the statement leaves the
sums to log 125. -/
def Obligations.DrainWritesItsTile : Prop :=
  ∀ (core : Fin 512) (i : Insn) (s : State), i.isOp 1 8 = true → s.Issues core i → 1 ≤ i.fmtN → i.fmtN ≤ 0xB →
    let v := s.groupView core
    let b := s.groupBefore core
    let d := v.rdT i.src1
    let a := (dAddr d).toNat
    let useRec := v.drainReadsRec i d
    let r := b.rdRec core d
    let out := b.drainTile core v i d useRec r
    let s1 := if useRec then b.wrRec core d ((r.addNf out.tile.nf).raise out.tile.amax) else b
    let bytes := if i.flagB 0 then (accumBytes (s1.rdLocal core a out.tile.bytes.length) out.tile.bytes).1 else out.tile.bytes
    let inTile := fun x => storeKey core a ≤ x ∧ x < storeKey core a + footprint i.fmtN
    let inRec := fun x => useRec = true ∧ storeKey core ((dRec d).toNat + 8) ≤ x ∧ x < storeKey core ((dRec d).toNat + 8) + 8
    (∀ k ∈ witnessSlots i, v.witnessFails i.engine k = false) →
    (i.flagB 0 = true → i.fmtN = 1 ∧ ∀ x, inTile x → ¬ inRec x) →
    ∃ t, exec (.drain core i .ok) s = .next t
      ∧ (i.flagB 0 = false → Lands s t core i (storeKey core a) bytes)
      ∧ ((∀ x, inTile x → ∀ w ∈ s.written core, ¬ w.Touches x) → t.rdLocal core a (footprint i.fmtN) = bytes)
      ∧ (∀ x, inRec x → ¬ inTile x → (∀ w ∈ s.written core, ¬ w.Touches x) →
          (i.flagB 0 = true → ∀ y, inTile y → ∀ w ∈ s.written core, ¬ w.Touches y) → rdByte t.stores x = rdByte s1.stores x)
      ∧ (∀ x, ¬ inTile x → ¬ inRec x → rdByte t.stores x = rdByte s.stores x)
      ∧ (∀ x, rdImemByte t.imem x = rdImemByte s.imem x ∧ rdByte t.side x = rdByte s.side x
          ∧ (i.flagB 2 = false → rdByte t.lr x = rdByte s.lr x))
      ∧ (t.getCore core).acc = (s.getCore core).acc ∧ (t.getCore core).ctr = (s.getCore core).ctr
      ∧ SameRegsBut s t core [] [] (if i.flagB 1 then
          [i.src1.toNat - 0x30, i.src2.toNat - 0x30, i.src3.toNat - 0x30] else [])
      ∧ (∀ n : Nat, n ≠ core.val → t.getCore n = s.getCore n) ∧ CtrAsked s t core i

/-- What an instruction over walks leaves: every destination tile is `f` of its source tiles (03 R62, R71). -/
def VecDone (s t : State) (core : Nat) (i : Insn) (regs srcRegs : List (BitVec 6)) (f : List (List W32) → List W32) : Prop :=
  let v := s.groupView core
  let b := s.groupBefore core
  let d := v.rdT i.dst
  let dst (k : Nat) : Nat := (walkIdx d i.count (dIndex d)).getD k 0
  let at_ (k : Nat) : Int := dAddrAt d (dst k)
  let src (a : W128) (k : Nat) : Int := (walk a i.count (dIndex a)).getD k 0
  (∀ k, k < i.count →
    (∀ j, j < i.count → (k < j → Apart core (at_ j) 512 (at_ k) 512)
      ∧ (j + 3 < k → (∀ r ∈ srcRegs, Apart core (at_ j) 512 (src (v.rdT r) k) 512)
          ∧ (fld i.flags 1 0 = 1 → Apart core (at_ j) 512 (dRec d) 32))) →
    Lands s t core i (storeKey core (at_ k).toNat)
      (vecStore i.fmtN (b.vecRounding core i d (dst k)) (f (srcRegs.map fun r => b.vecTile core (v.rdT r) (src (v.rdT r) k)))).1)
  ∧ (∀ x, (∀ k, k < i.count → x < storeKey core (at_ k).toNat ∨ storeKey core (at_ k).toNat + 512 ≤ x) →
      rdByte t.stores x = rdByte s.stores x)
  ∧ VecFrame s t core i regs

/-- Vector arithmetic and functions (03 R71, 04 R106); hardware checks find no fault here. -/
def Obligations.VectorArithmetic : Prop :=
  ∀ (core : Fin 512) (i : Insn) (s : State), s.Issues core i → i.fmtN = 1 ∨ i.fmtN = 2 →
    let ok (r : BitVec 6) : Prop := dFmt ((s.groupView core).rdT r) = i.fmtN
    let two (c : Instr) (op : Nat) (f : W32 → W32 → W32) : Prop := i.isOp 2 op = true → ok i.dst → ok i.src1 → ok i.src2 →
      ∃ t, exec c s = .next t ∧ VecDone s t core i [i.dst, i.src1, i.src2] [i.src1, i.src2] (zip2W f)
    let one (c : Instr) (op : Nat) (f : W32 → W32) : Prop := i.isOp 2 op = true → ok i.dst → ok i.src1 →
      ∃ t, exec c s = .next t ∧ VecDone s t core i [i.dst, i.src1] [i.src1] (fun l => (l.getD 0 []).map f)
    two (.vadd core i .ok) 1 add32 ∧ two (.vsub core i .ok) 2 sub32 ∧ two (.vmul core i .ok) 3 mul32
    ∧ two (.vmax core i .ok) 5 vmax32 ∧ two (.vmin core i .ok) 6 vmin32
    ∧ (i.isOp 2 4 = true → ok i.dst → ok i.src1 → ok i.src2 → ok i.src3 → ∃ t, exec (.vfma core i .ok) s = .next t
        ∧ VecDone s t core i [i.dst, i.src1, i.src2, i.src3] [i.src1, i.src2, i.src3] fmaW)
    ∧ one (.vexp core i .ok) 0x20 exp32 ∧ one (.vlog core i .ok) 0x21 ln32
    ∧ one (.vrsqrt core i .ok) 0x22 rsqrt32 ∧ one (.vrcp core i .ok) 0x23 rcp32

/-- Reductions (03 R71, R78); hardware checks find no fault here. -/
def Obligations.VectorReductions : Prop :=
  ∀ (core : Fin 512) (i : Insn) (s : State), s.Issues core i →
    let d := (s.groupView core).rdT i.src1
    let xs : List W32 := (walk d i.count (dIndex d)).flatMap fun a => (s.groupBefore core).vecTile core d a
    let done (c : Instr) (op : Nat) (f : List W32 → W32) : Prop := i.isOp 2 op = true →
      ∃ t, exec c s = .next t
        ∧ t.sReg core i.dst.toNat = (if i.count = 0 then s.sReg core i.dst.toNat else BitVec.ofNat 64 (f xs).toNat)
        ∧ SameRegsBut s t core [i.dst.toNat] [] (if i.flagB 2 then [i.src1.toNat - 0x30] else [])
        ∧ (t.getCore core).acc = (s.getCore core).acc ∧ (t.getCore core).ctr = (s.getCore core).ctr
        ∧ (∀ n : Nat, n ≠ core.val → t.getCore n = s.getCore n) ∧ SameBytes s t ∧ CtrAsked s t core i
    done (.vabsmax core i .ok) 7 absMax ∧ done (.vsum core i .ok) 8 vsum32

/-- Tiles of the source that destination tile `k` of a VCVT reads, and the elements of them that it takes (03 R71). -/
def cvtTiles (i : Insn) (d a : W128) (k : Nat) : List Int :=
  let per := vecElems (dFmt d)
  let perSrc := vecElems (dFmt a)
  ((walk a (vcvtSrcTiles (dFmt d) (dFmt a) i.count) (dIndex a)).drop (k * per / perSrc)).take
    (cdiv (k * per % perSrc + per) perSrc)
def cvtElems (s : State) (core : Nat) (i : Insn) (d a : W128) (k : Nat) : List W32 :=
  (((cvtTiles i d a k).flatMap fun x => s.vecTile core a x).drop (k * vecElems (dFmt d) % vecElems (dFmt a))).take (vecElems (dFmt d))
/-- What tile `k` becomes: a doublet from doublets keeps both parts. -/
def cvtResult (s : State) (core : Nat) (i : Insn) (d a : W128) (k : Nat) : TileOut :=
  if dFmt d = 0xB ∧ dFmt a = 0xB then
    doubletTile id ((((cvtTiles i d a k).flatMap fun x => s.vecPairs core x).drop (k * vecElems (dFmt d) % vecElems (dFmt a))).take (vecElems (dFmt d)))
  else cvtTile (dFmt d) (s.rdRec core d).tscale (s.vecRounding core i d ((walkIdx d i.count (dIndex d)).getD k 0)) (cvtElems s core i d a k)

/-- VCVT (03 R71, 04 R92, R101, the order of the group's writers 03 R60); hardware checks find no fault here. -/
def Obligations.ConvertWritesItsTiles : Prop :=
  ∀ (core : Fin 512) (i : Insn) (s : State), i.isOp 2 0x10 = true → s.Issues core i →
    let v := s.groupView core
    let b := s.groupBefore core
    let d := v.rdT i.dst
    let a := v.rdT i.src1
    let at_ (k : Nat) : Int := dAddrAt d ((walkIdx d i.count (dIndex d)).getD k 0)
    let out (k : Nat) : TileOut := cvtResult b core i d a k
    let useRec : Bool := (dScaled d || fld i.flags 1 0 == 1) && i.count != 0
    let inRec (x : Nat) : Prop := storeKey core ((dRec d).toNat + 8) ≤ x ∧ x < storeKey core ((dRec d).toNat + 8) + 8
    -- no tile overlaps a later one or the record, and none that has landed overlaps a source or its record
    let clear : Prop := ∀ j k, j < i.count → k < i.count →
      (j < k → Apart core (at_ j) (out j).bytes.length (at_ k) (out k).bytes.length)
      ∧ Apart core (at_ j) (out j).bytes.length (dRec d) 32
      ∧ Apart core (at_ j) (out j).bytes.length (((dRec d).toNat + 8 : Nat) : Int) 8
      ∧ (j + 3 < k → Apart core (at_ j) (out j).bytes.length (dRec a) 32
          ∧ ∀ x ∈ cvtTiles i d a k, Apart core (at_ j) (out j).bytes.length x (max 512 (vecBytes (dFmt a))))
    ∃ t, exec (.vcvt core i .ok) s = .next t
      ∧ VecFrame s t core i [i.dst, i.src1]
      ∧ (∀ x, (∀ k, k < i.count → x < storeKey core (at_ k).toNat ∨ storeKey core (at_ k).toNat + vecBytes (dFmt d) ≤ x) →
          (useRec = false ∨ ¬ inRec x) → rdByte t.stores x = rdByte s.stores x)
      ∧ (clear →
          (∀ k, k < i.count → Lands s t core i (storeKey core (at_ k).toNat) (out k).bytes)
          ∧ (useRec = true → (∀ x, inRec x → ∀ w ∈ s.written core, ¬ w.Touches x) →
              let r := (List.range i.count).foldl (fun r k => (r.addNf (out k).nf).raise (out k).amax) (b.rdRec core d)
              t.rdLocal core ((dRec d).toNat + 8) 8 = leBytes 4 r.amax.toNat ++ leBytes 4 r.nonfinite))

/-- What a transfer instruction of a core asks for (03 Table 03-7, 11 R259). -/
def xferRequest (s : State) (core : Nat) (i : Insn) (k : XKind) : Request :=
  let v := s.groupView core
  { who := core, ctx := s.ctxOfCore core, msg := core * 2 ^ 39 + v.msgCount % 2 ^ 39, kind := k, ctr := i.ctrN,
    queue := fld i.imm 47 32, gaddr := v.rdA i.src1, laddr := (v.rdS i.src2).toNat,
    len := if k = .fence then 0 else fld i.imm 31 0, fmt := i.fmtN, sig := decide (k = .sig) || i.flagB 0,
    sigCtr := fld i.imm 53 48 }

/-- The source bytes of an XPUT or XADD, read before the group's writes (03 R60), as they are written at the destination (R258). -/
def xferData (s : State) (core : Nat) (r : Request) : List Byte :=
  if r.kind = .put ∨ r.kind = .add then
    wireBytes (if r.kind = .put then bPack (s.binding r.queue) else 0) ((s.groupBefore core).rdLocal core r.laddr r.len)
  else []

/-- Header fields that the frames of an operation share. -/
def xferArgs (r : Request) (x : Xfer) : FrameArgs :=
  { msg := x.msg, addr := x.gaddr.toNat % 2 ^ 48, sigCore := x.sigCore, sigCtr := x.sigCtr, sig := x.sig,
    packed := decide (x.pack ≠ 0), sidecar := x.side, fmt := if r.kind = .add then r.fmt else 0 }

/-- XPUT, XGET, XADD and XSIG to a module (11 R258, R267). -/
def Obligations.TransfersStart : Prop :=
  ∀ (core : Fin 512) (i : Insn) (s : State), s.Issues core i →
    let start (c : Instr) (op : Nat) (k : XKind) : Prop := i.isOp 3 op = true →
      let r := xferRequest s core i k
      let b := s.binding r.queue
      s.queueRefuses r = false → isGroup (bDest b) = false → s.sourceStatus r = stOk → r.len ≠ 0 →
      let x := s.newOp r (xferData s core r)
      ∃ t, exec c s = .next t
        ∧ SameBytes s t ∧ SameRegsBut s t core [] [] [] ∧ SameSpecials s t core
        ∧ (t.getCore core).ctrPend = (s.getCore core).ctrPend
        ∧ (bDest b = s.moduleId → t.ops = s.ops ++ [{ x with own := true }] ∧ t.txq = s.txq)
        ∧ (bDest b ≠ s.moduleId →
            let pieces := framePieces x.data
            (k = .put ∨ k = .add →
              t.ops = s.ops ++ [{ x with awaited := pieces.length }]
              ∧ t.txq = s.txq ++ pieces.map fun p =>
                  ⟨s.mkFrame (bDest b) (if k = .put then 0 else 3) (bTc b)
                    { xferArgs r x with total := x.data.length, foffset := p.1 } p.2, r.queue, bDest b, some (coreDie core)⟩)
            ∧ (k = .get → t.ops = s.ops ++ [{ x with awaited := 1 }]
              ∧ t.txq = s.txq ++ [⟨s.mkFrame (bDest b) 1 (bTc b) { xferArgs r x with total := wireLen x.pack r.len } [],
                  r.queue, (s.mkFrame (bDest b) 1 (bTc b) { xferArgs r x with total := wireLen x.pack r.len } []).dest,
                  some (coreDie core)⟩])
            ∧ (k = .sig → t.ops = s.ops ++ [{ x with awaited := 1 }]
              ∧ t.txq = s.txq ++ [⟨s.mkFrame (bDest b) 4 (bTc b)
                  { msg := x.msg, addr := x.gaddr.toNat % 2 ^ 48, total := r.len, sigCore := x.sigCore, sigCtr := x.sigCtr,
                    sig := true } [], r.queue, bDest b, some (coreDie core)⟩]))
    start (.xput core i) 1 .put ∧ start (.xget core i) 2 .get ∧ start (.xadd core i) 3 .add ∧ start (.xsig core i) 4 .sig

/-- Counters of a core after an instruction that completed at once: its CTR has one more, saturating (11 R277). -/
def CtrStepped (s t : State) (core : Nat) (i : Insn) : Prop :=
  ∀ k, (t.getCore core).ctrVal k
    = if k = i.ctrN ∧ k < 48 then min (2 ^ 32 - 1) ((s.getCore core).ctrVal k + 1) else (s.getCore core).ctrVal k

/-- Transfers that complete at issue, and XFENCE (11 R262, R271, R277, 03 R78). -/
def Obligations.TransfersThatEndAtOnce : Prop :=
  ∀ (core : Fin 512) (i : Insn) (s : State), s.Issues core i →
    let each (P : Instr → Nat → XKind → Prop) : Prop :=
      P (.xput core i) 1 .put ∧ P (.xget core i) 2 .get ∧ P (.xadd core i) 3 .add ∧ P (.xsig core i) 4 .sig
        ∧ P (.xfence core i) 5 .fence
    let still (t : State) : Prop := SameBytes s t ∧ SameRegsBut s t core [] [] [] ∧ t.txq = s.txq
      ∧ (t.getCore core).acc = (s.getCore core).acc ∧ (∀ n : Nat, n ≠ core.val → t.getCore n = s.getCore n)
    -- refused by its queue
    each (fun c op k => i.isOp 3 op = true →
      let r := xferRequest s core i k
      s.queueRefuses r = true →
      ∃ t, exec c s = .next t ∧ still t ∧ t.ops = s.ops ∧ t.qstatus = (s.queueStatus r.queue r.msg stAccess).qstatus
        ∧ CtrStepped s t core i)
    -- nothing to move
    ∧ each (fun c op k => i.isOp 3 op = true → k ≠ .fence →
      let r := xferRequest s core i k
      s.queueRefuses r = false → s.sourceStatus r = stOk → r.len = 0 → (k = .sig ∨ k = .get ∨ r.sig = false) →
      ∃ t, exec c s = .next t ∧ still t ∧ t.ops = s.ops ∧ t.qstatus = s.qstatus
        ∧ (t.getCore core).ctr = (s.getCore core).ctr ∧ CtrAsked s t core i)
    -- fences
    ∧ (i.isOp 3 5 = true →
      let r := xferRequest s core i .fence
      s.queueRefuses r = false →
      ∃ t, exec (.xfence core i) s = .next t ∧ still t ∧ t.qstatus = s.qstatus
        ∧ ((∃ y ∈ s.ops, y.core = core.val ∧ y.queue = r.queue) →
            t.ops = s.ops ++ [{ s.newOp r [] with own := true }] ∧ (t.getCore core).ctr = (s.getCore core).ctr)
        ∧ ((∀ y ∈ s.ops, ¬ (y.core = core.val ∧ y.queue = r.queue)) → t.ops = s.ops ∧ CtrStepped s t core i))

/-- The operation of a reduce-scatter after a piece: the own one is added here, the others are awaited (11 R273). -/
def reduceStep (s : State) (g : BitVec 256) (x y : Xfer) (p : Nat × Nat × List Byte) : Xfer :=
  if (s.reduceMembers g).getD p.1 0 = s.moduleId then
    { y with own := true, ownAddr := p.2.1, data := p.2.2,
             sigCore := if p.2.1 / 2 ^ 44 = 1 then p.2.1 / 2 ^ 32 % 512 else x.sigCore }
  else { y with awaited := y.awaited + (framePieces p.2.2).length }

/-- XPUT, XSIG and XADD to a group (11 R258, R272, R273). -/
def Obligations.GroupTransfersStart : Prop :=
  ∀ (core : Fin 512) (i : Insn) (s : State), s.Issues core i →
    let start (c : Instr) (op : Nat) (k : XKind) (P : State → Request → BitVec 256 → Xfer → Prop) : Prop := i.isOp 3 op = true →
      let r := xferRequest s core i k
      let b := s.binding r.queue
      s.queueRefuses r = false → isGroup (bDest b) = true → s.sourceStatus r = stOk → r.len ≠ 0 →
      (∀ y ∈ s.ops, ¬ (y.msg = r.msg ∧ y.core = core.val)) →
      ∃ t, exec c s = .next t ∧ SameBytes s t ∧ SameRegsBut s t core [] [] [] ∧ SameSpecials s t core
        ∧ (t.getCore core).ctrPend = (s.getCore core).ctrPend ∧ P t r (s.groupOf (bDest b)) (s.newOp r (xferData s core r))
    let put : State → Request → BitVec 256 → Xfer → Prop := fun t r g x =>
      let hops := s.treeNeighbours g
      t.ops = s.ops ++ [{ x with own := true, awaited := hops.length * (framePieces x.data).length }]
      ∧ t.txq = s.txq ++ (framePieces x.data).flatMap fun p => hops.map fun h =>
          ⟨s.mkFrame (bDest (s.binding r.queue)) 0 (bTc (s.binding r.queue))
            { xferArgs r x with total := x.data.length, foffset := p.1 } p.2, r.queue, h, some (coreDie core)⟩
    let sig : State → Request → BitVec 256 → Xfer → Prop := fun t r g x =>
      let hops := s.treeNeighbours g
      t.ops = s.ops ++ [{ x with own := true, awaited := hops.length }]
      ∧ t.txq = s.txq ++ hops.map fun h => ⟨s.mkFrame (bDest (s.binding r.queue)) 4 (bTc (s.binding r.queue))
          { msg := x.msg, addr := x.gaddr.toNat % 2 ^ 48, total := r.len, sigCore := x.sigCore, sigCtr := x.sigCtr,
            sig := true } [], r.queue, h, some (coreDie core)⟩
    let add : State → Request → BitVec 256 → Xfer → Prop := fun t r g x =>
      let pieces := reducePieces g (gaOffset r.gaddr) x.data
      t.ops = s.ops ++ [pieces.foldl (reduceStep s g x) { x with data := [], served := 4 }]
      ∧ t.txq = s.txq ++ pieces.flatMap fun p =>
          let m := (s.reduceMembers g).getD p.1 0
          if m = s.moduleId then []
          else (framePieces p.2.2).map fun f => ⟨s.mkFrame m 3 (bTc (s.binding r.queue))
            { xferArgs r x with
              addr := p.2.1, sigCore := if p.2.1 / 2 ^ 44 = 1 then p.2.1 / 2 ^ 32 % 512 else x.sigCore,
              total := p.2.2.length, foffset := f.1 } f.2, r.queue, m, some (coreDie core)⟩
    start (.xput core i) 1 .put put ∧ start (.xsig core i) 4 .sig sig ∧ start (.xadd core i) 3 .add add

/-- SYNC.INC, SYNC.DEC and SYNC.WAIT (12 R283, R285, R286). -/
def Obligations.SyncInstructions : Prop :=
  ∀ (core : Fin 512) (i : Insn) (s : State), s.Issues core i →
    let amount := fld i.imm 31 0
    let still (t : State) : Prop := SameBytes s t ∧ SameRegsBut s t core [] [] [] ∧ SameSpecials s t core
    (i.isOp 4 1 = true → ∃ t g, exec (.syncInc core i) s = .next t ∧ still t ∧ (t.getCore core).wait = (s.getCore core).wait
      ∧ (t.getCore core).ctrPend = (s.getCore core).ctrPend ++ [⟨g, i.ctr.toNat, false, amount, (s.getCore core).pc, 4⟩])
    ∧ (i.isOp 4 2 = true → ∃ t g, exec (.syncDec core i) s = .next t ∧ still t ∧ (t.getCore core).wait = (s.getCore core).wait
      ∧ (t.getCore core).ctrPend
          = (s.getCore core).ctrPend ++ [⟨g, i.ctr.toNat, true, amount, (s.getCore core).pc + (s.getCore core).pos, 4⟩])
    ∧ (i.isOp 4 3 = true → ∃ t, exec (.syncWait core i) s = .next t ∧ still t
      ∧ (t.getCore core).ctrPend = (s.getCore core).ctrPend
      ∧ (t.getCore core).wait = some ⟨i.ctr.toNat, amount, fld i.imm 63 32, s.time.sweep, s.time.boundaries,
          decide ((s.getCore core).ctrVal i.ctr.toNat ≥ amount), false, 0⟩)

/-- Counters and waits (12 R283 to R287). -/
def Obligations.CountersAndWaits : Prop :=
  ∀ (core : Fin 512) (s : State),
    let c := s.getCore core
    let still (t : State) : Prop := SameBytes s t ∧ SameRegsBut s t core [] [] []
      ∧ (t.getCore core).acc = c.acc ∧ (∀ n : Nat, n ≠ core.val → t.getCore n = s.getCore n)
    let cutAfter (t : State) : Prop := ∀ x, s.ctxOfCore core = some x → x < 16 →
      t.cuts = s.cuts ++ [⟨s.time.boundaries + 1, BitVec.ofNat 16 (2 ^ x), cutSync⟩]
    (∀ (ctr : BitVec 6) (picks : List Nat),
      let q := pickChanges ctr.toNat picks 0 c.ctrPend
      let decs := q.1.filter CtrChange.dec
      let up := min (2 ^ 32 - 1) (c.ctrVal ctr.toNat + (q.1.filter fun x => !x.dec).foldl (fun n x => n + x.amount) 0)
      sameCycle q.1 q.2 = true →
      (∀ d, decs = [d] ∨ decs = [] → let n := if decs = [d] then d.amount else 0
        ∃ t, exec (.counterApply core ⟨ctr, picks⟩) s = .next t ∧ still t
          ∧ (t.getCore core).ctrPend = q.2
          ∧ (t.getCore core).wait = (c.wait.map fun w =>
              { w with met := w.met || decide ((t.getCore core).ctrVal w.ctr ≥ w.threshold) })
          ∧ (∀ k, k ≠ ctr.toNat → (t.getCore core).ctrVal k = c.ctrVal k)
          ∧ (n ≤ up → (t.getCore core).ctrVal ctr.toNat = up - n ∧ (t.getCore core).faulted = c.faulted)
          ∧ (up < n → (t.getCore core).ctrVal ctr.toNat = up ∧ (t.getCore core).faulted = true
              ∧ (c.faulted = false → (t.getCore core).faultInfo = faultInfoWord d.pc 3 (causeStatus 8) 8 ∧ cutAfter t))))
    ∧ (∀ w cc, c.run = .running → c.wait = some w → w.met = true → w.timedOut = false →
        ∃ t, exec (.waitMet core cc) s = .next t ∧ still t ∧ (t.getCore core).wait = none ∧ (t.getCore core).ctr = c.ctr)
    ∧ (∀ w, c.run = .running → c.wait = some w → w.met = false → w.timedOut = false → w.timeout ≠ 0 →
        w.boundary + w.timeout + 1 ≤ s.time.boundaries → s.time.tick = 0 →
        ∃ t, exec (.waitTimeout core) s = .next t ∧ still t ∧ (t.getCore core).wait = some { w with timedOut := true }
          ∧ (t.getCore core).ctr = c.ctr ∧ cutAfter t)

/-- TAP and TAP_WRITE (07 R151 to R156). -/
def Obligations.TapCapturesAndWrites : Prop :=
  ∀ (core : Fin 512) (s : State),
    let still (t : State) : Prop := SameRegsBut s t core [] [] [] ∧ (t.getCore core).acc = (s.getCore core).acc
      ∧ (∀ n : Nat, n ≠ core.val → t.getCore n = s.getCore n)
    (∀ (i m : Insn), i.isOp 1 9 = true → s.Issues core i → s.groupMma core i.engine = some m →
      let v := s.groupView core
      let d := v.rdT i.src1
      let x := s.getCtx ((s.ctxOfCore core).getD 16)
      let b := s.groupBefore core
      let hit := s.tapsOn x (b.rdRec core d).tensorId.toNat
        && (tapSample x.seed (b.rdRec core d).tensorId x.stepNo x.tokenBlocks i.tapMb i.tapJ i.tapShift).1
      let writes : List TapPending :=
        ((List.range (b.tapOut core v i m).length).zip ((b.tapTiles core i d).zip (b.tapOut core v i m))).map fun p =>
          ⟨p.2.1.toNat, p.2.2, i.ctrN, p.1 + 1 == (b.tapOut core v i m).length⟩
      ∃ t, exec (.tap core i) s = .next t ∧ still t ∧ SameBytes s t ∧ (t.getCore core).ctr = (s.getCore core).ctr
        ∧ (∀ e, e < 2 → e ≠ i.engine → (t.getCore core).tapQ e = (s.getCore core).tapQ e ∧ (t.getCore core).half e = (s.getCore core).half e)
        ∧ (t.getCore core).tapQ i.engine
            = (s.getCore core).tapQ i.engine ++ (if hit = true ∧ (i.tapSide = true ∨ i.tapPart = true) then writes else [])
        ∧ (t.getCore core).half i.engine
            = (if hit = false then (s.getCore core).half i.engine
               else if i.tapSide = false ∧ i.tapPart = false then
                 some ⟨i.tapMb, i.tapJ, i.tapRow, b.tapRows core (v.rdT m.src2)⟩
               else if i.tapPart = true then none else (s.getCore core).half i.engine)
        ∧ (hit = false ∨ (i.tapSide = false ∧ i.tapPart = false) → CtrAsked s t core i))
    ∧ ∀ (e : Fin 2) (w : TapPending) (rest : List TapPending), (s.getCore core).tapQ e = w :: rest →
      ∃ t, exec (.tapWrite core e) s = .next t ∧ still t
        ∧ t.rdLocal core w.addr w.bytes.length = w.bytes ∧ SameBytesBut s t (storeKey core w.addr) w.bytes.length
        ∧ (t.getCore core).tapQ e = rest
        ∧ ∀ k, (t.getCore core).ctrVal k
          = if w.last = true ∧ k = w.ctr ∧ k < 48 then min (2 ^ 32 - 1) ((s.getCore core).ctrVal k + 1)
            else (s.getCore core).ctrVal k

/-- MARK and LOUPE (17 R379, R389 to R391); `u` is the state before the group goes on. -/
def Obligations.MarkAndLoupe : Prop :=
  ∀ (core : Fin 512) (i : Insn) (s : State), s.Issues core i →
    let still (t : State) : Prop := SameRegsBut s t core [] [] [] ∧ (t.getCore core).acc = (s.getCore core).acc
      ∧ (t.getCore core).ctr = (s.getCore core).ctr ∧ (∀ n : Nat, n ≠ core.val → t.getCore n = s.getCore n)
      ∧ CtrAsked s t core i
    let k := core.val / 8
    let tag := fld i.imm 31 0
    (i.isOp 5 1 = true →
      ∃ u : State, exec (.mark core i) s = .next (u.closed core i) ∧ still (u.closed core i) ∧ SameBytes s (u.closed core i)
        ∧ (flag (s.getCluster k).traceBank 238 = false → u.clusters = s.clusters)
        ∧ (flag (s.getCluster k).traceBank 238 = true →
            let v := (s.before core).trace k (core.val % 8) 2 (tag * 2 ^ 48 + ((s.getCore core).pc + (s.getCore core).pos) % 4096 * 2 ^ 36)
            (∀ n, fld (v.getCluster n).traceBank 287 256 ≠ tag) → u.clusters = v.clusters))
    ∧ (i.isOp 5 2 = true →
      let d := (s.groupView core).rdT i.src1
      let r := (s.groupBefore core).rdRec core d
      let n := fld i.imm 5 0
      let w := s.watch n
      let tile := (s.groupBefore core).rdLocal core (dAddr d).toNat (footprint (dFmt d))
      let size := roundUp (128 + tile.length) 128
      let used := fld w 383 320
      let off := wDest w % 2 ^ 44 + used
      let writes (x : Nat) : Prop := s.ctxOfCore core = some x
        ∧ watchMatches w x r.tensorId.toNat (fld i.imm 29 6) (fld i.imm 53 30 + dIndex d) = true
        ∧ used + size ≤ fld w 447 384 ∧ s.longOk (.ctx x) true off size = true
      ∃ u : State, exec (.loupe core i) s = .next (u.closed core i) ∧ still (u.closed core i)
        ∧ (∀ a, rdByte u.stores a = rdByte s.stores a ∧ rdImemByte u.imem a = rdImemByte s.imem a ∧ rdByte u.side a = rdByte s.side a)
        ∧ (∀ x, writes x →
            u.rdLong off size = leBytes 128 (loupeHeader w (dFmt d) r.tscale.toNat (s.getCtx x).stepNo.toNat (s.versionOf x)
              r.tensorId.toNat (fld i.imm 29 6) (fld i.imm 53 30 + dIndex d)).toNat ++ tile ++ zeroBytes (size - 128 - tile.length)
            ∧ (∀ a, (a < off ∨ off + size ≤ a) → rdByte u.lr a = rdByte s.lr a)
            ∧ u.watch n = setFld (setFld w 383 320 (used + size)) 63 32 (fld w 63 32 + 1))
        ∧ ((∀ x, ¬ writes x) → ∀ a, rdByte u.lr a = rdByte s.lr a))

/-- Stage descriptors and step starts (13 R299 to R301), and CORE_CTL (03 R61, R81). -/
def Obligations.StagesAndStarts : Prop :=
  ∀ (o : Origin) (ctx : Fin 16) (core : Fin 512) (s : State), s.originStatus o = stOk →
    (∀ w : BitVec 1024, (s.getCtx ctx).stepRun = false → fld w 948 944 = 0 → fld w 776 0 = 0 → stageValues w = true →
      (flag w 777 = true → s.time.held = true ∧ fld w 959 949 ≤ 1249
        ∧ lin s.now + 2 ≤ lin (fld w 1023 960, fld w 959 949)) →
      let stored (t : State) : Prop := (t.getCtx ctx).stage = setFld w 777 777 0
        ∧ (t.getCtx ctx).startAt = (if flag w 777 then some (fld w 1023 960, fld w 959 949) else (s.getCtx ctx).startAt)
        ∧ OnlyCtx s t ctx
      Accepted (.stageDescriptor o ctx w) s stored ∧ Accepted (.stageArm o ctx w) s stored)
    ∧ (∀ p, (s.getCtx ctx).startAt = some p → s.reached p = true → (s.getCtx ctx).active = true → (s.getCtx ctx).stepRun = false →
        s.cutCovers ctx p = false → s.isFirst ctx (eventKey p 6) = true →
        let x := s.getCtx ctx
        ∃ t, exec (.stepStart ctx) s = .next t ∧ (t.getCtx ctx).stepRun = true ∧ (t.getCtx ctx).startAt = none
          ∧ (t.getCtx ctx).stepStartSweep = p.1
          ∧ (∀ k, k < x.sched.length → tblGet sched0 (t.getCtx ctx).schedState k = .waiting)
          ∧ (∀ n, t.getCore n = (if n ∈ s.coresOf ctx ∧ (s.getCore n).run ≠ .armed ∧ (s.getCore n).run ≠ .running
              then (s.getCore n).armed (s.getCore n).entry p else s.getCore n))
          ∧ (∀ k, k < x.dSlots → leNat (t.rdLong (x.dTable + k * 32) 8) = 0 ∧ leNat (t.rdLong (x.dTable + k * 32 + 8) 8) = 0
              ∧ leNat (t.rdLong (x.dTable + k * 32 + 24) 8) = x.stepNo.toNat)
          ∧ (∀ a, (a < x.dTable ∨ x.dTable + x.dSlots * 32 ≤ a) → rdByte t.lr a = rdByte s.lr a)
          ∧ t.stores = s.stores ∧ t.imem = s.imem ∧ t.side = s.side ∧ t.dict = s.dict ∧ t.barriers = s.barriers)
    ∧ (∀ w : BitVec 64, fld w 63 28 = 0 → fld w 15 1 = 0 → flag w 0 = true → (s.getCore core).run ≠ .armed →
        (s.getCore core).run ≠ .running → s.time.held = true → (s.getCore core).startTick.toNat ≤ 1249 →
        lin s.now + 2 ≤ lin ((s.getCore core).startSweep.toNat, (s.getCore core).startTick.toNat) →
        Accepted (.start o core w) s fun t => (∀ r, t.sReg core r = 0 ∧ t.aReg core r = 0 ∧ t.tReg core r = 0)
          ∧ (t.getCore core).acc = [] ∧ (t.getCore core).run = .armed ∧ (t.getCore core).entry = fld w 27 16
          ∧ (t.getCore core).armedAt = some ((s.getCore core).startSweep.toNat, (s.getCore core).startTick.toNat)
          ∧ (t.getCore core).ctr = (s.getCore core).ctr ∧ (∃ c, t = { s with cores := c, resp := t.resp })
          ∧ (∀ n : Nat, n ≠ core → t.getCore n = s.getCore n))
    ∧ (∀ p, (s.getCore core).armedAt = some p → (s.getCore core).run = .armed → s.reached p = true → s.coreCut core p = false →
        s.isFirstIn (core / 8) (eventKey p 6) = true →
        exec (.coreStart core) s = .next (s.setCore core { s.getCore core with
          run := .running
          armedAt := none
          pc := (s.getCore core).entry }))

/-- Creation and teardown of a context (14 R312, R313; 12 R288). -/
def Obligations.ContextsComeAndGo : Prop :=
  ∀ (o : Origin) (ctx : Fin 16) (w : BitVec 512) (s : State), s.originStatus o = stOk → (o = .host → s.frozen ctx = false) →
    fld w 337 0 = 0 →
    let rest (cores : List Nat) (t : State) : Prop := (∃ co x f k, t = { s with
        time := { s.time with shownCc := k }
        cores := co
        ctxs := x
        freeCtr := f
        resp := t.resp })
      ∧ (∀ n : Nat, n ∉ cores → t.getCore n = s.getCore n) ∧ (∀ c, c ≠ ctx.val → t.getCtx c = s.getCtx c)
    ((s.getCtx ctx).draining = false → (s.getCtx ctx).state = 0 → dCreate w = true → s.createOk ctx w = true →
      Accepted (.create o ctx w) s fun t => rest (t.coresOf ctx) t ∧ (t.getCtx ctx).state = 1 ∧ (t.getCtx ctx).clusters = dClusters w
        ∧ (t.getCtx ctx).role = dRole w ∧ (t.getCtx ctx).vslots = dVslots w ∧ flag (t.getCtx ctx).desc 341 = false
        ∧ (fld w 447 384 ≠ 0 → fld (t.getCtx ctx).desc 447 384 = fld w 447 384)
        ∧ (t.getCtx ctx).stepNo = 0 ∧ (t.getCtx ctx).stepRun = false ∧ (t.getCtx ctx).settings = s.dict.tensors
        ∧ (∀ n, n ∈ t.coresOf ctx → (t.getCore n).run = .idle ∧ (t.getCore n).ctr = [] ∧ (t.getCore n).sreg = (s.getCore n).sreg))
    ∧ ((s.getCtx ctx).draining = false → (s.getCtx ctx).state ≠ 0 → w.toNat &&& descWritable = 2 ^ 339 → s.teardownFails ctx = false →
      Accepted (.destroy o ctx w) s fun t => rest (s.coresOf ctx) t ∧ (t.getCtx ctx).state = 0 ∧ (t.getCtx ctx).startAt = none
        ∧ (t.getCtx ctx).stepRun = false
        ∧ (∀ n, n ∈ s.coresOf ctx → (t.getCore n).ctr = [] ∧ (t.getCore n).sat = (s.getCore n).sat ∧ (t.getCore n).wait = none
          ∧ (t.getCore n).run ≠ .armed ∧ (t.getCore n).run ≠ .running ∧ (t.getCore n).sreg = (s.getCore n).sreg))
    ∧ ((s.getCtx ctx).draining = true → (s.getCtx ctx).state ≠ 0 → w.toNat &&& descWritable = 2 ^ 339 →
      Accepted (.destroy o ctx w) s fun t => (t.getCtx ctx).destroyDue = true ∧ (t.getCtx ctx).state = (s.getCtx ctx).state
        ∧ OnlyCtx s t ctx)

/-- Version slots (14 R316 to R318) and the rollout ring (R330, R331). -/
def Obligations.SlotsAndRing : Prop :=
  ∀ (o : Origin) (ctx : Fin 16) (s : State), s.originStatus o = stOk →
    let s' := s.switchSeen ctx
    (∀ v, (s'.getCtx ctx).curSlot = some v →
      Accepted (.acquire o ctx) s fun t =>
        t.resp.data = leBytes 8 ((v * 2 ^ 32 + slotVersion ((s'.getCtx ctx).getSlot v)) % 2 ^ 64)
        ∧ (t.getCtx ctx).getSlot v = setFld ((s'.getCtx ctx).getSlot v) 95 64 (slotRefs ((s'.getCtx ctx).getSlot v) + 1)
        ∧ (∀ u, u ≠ v → (t.getCtx ctx).getSlot u = (s'.getCtx ctx).getSlot u) ∧ OnlyCtx s' t ctx)
    ∧ ((s'.getCtx ctx).curSlot = none →
      exec (.acquire o ctx) s = .next (s'.answer stOk (leBytes 8 (2 ^ 63))))
    ∧ (∀ w : BitVec 64, let n := fld w 1 0
      let x := (s'.getCtx ctx).getSlot n
      fld w 63 2 = 0 → slotRefs x ≠ 0 → 1 < slotState x →
      Accepted (.release o ctx w) s fun t =>
        (t.getCtx ctx).getSlot n = (if slotState x = 3 ∧ slotRefs x = 1 then mkSlot 0 0 (slotRegion x) 0
          else setFld x 95 64 (slotRefs x - 1))
        ∧ (∀ u, u ≠ n → (t.getCtx ctx).getSlot u = (s'.getCtx ctx).getSlot u) ∧ OnlyCtx s' t ctx)
    ∧ (s.ringCheck ctx = stOk →
      let a := gaOffset (s.getCtx ctx).ringBase
      let h := s.ringHeader ctx
      let used := (fld h 447 384 + 2 ^ 64 - fld h 511 448) % 2 ^ 64
      Accepted (.ringClaim o ctx) s fun t =>
        (used < fld h 383 352 → t.resp.data = leBytes 8 (fld h 447 384 % 2 ^ 63)
          ∧ t.rdLong (a + 48) 8 = leBytes 8 (fld h 447 384 + 1)
          ∧ (∀ b, (b < a + 48 ∨ a + 56 ≤ b) → rdByte t.lr b = rdByte s.lr b)
          ∧ ∃ l d k, t = { s with
            lr := t.lr
            long := l
            dict := d
            clusters := k
            resp := t.resp })
        ∧ (fld h 383 352 ≤ used → t.resp.data = leBytes 8 (2 ^ 63) ∧ ∃ d, t = { s with
            dict := d
            resp := t.resp }))

/-- The weight switch of a context (14 R319 to R321). -/
def Obligations.SwitchesTakeEffect : Prop :=
  ∀ (o : Origin) (ctx : Fin 16) (w : BitVec 128) (s : State), s.originStatus o = stOk →
    let x := s.getCtx ctx
    let only (t : State) : Prop := (∃ c d h, t = { s with
        ctxs := c
        dict := d
        host := h
        resp := t.resp })
      ∧ ∀ n, n ≠ ctx.val → t.getCtx n = s.getCtx n
    (fld w 12 12 = 0 → fld w 5 0 = 0 → flag w 7 = true → swState x.switch ≠ 1 → (x.role = 1 ∨ x.role = 2) →
      (flag x.desc 341 = true → newer (swVersion w) x.version = true) →
      (x.role = 2 → swTarget w < x.vslots ∧ slotState (x.getSlot (swTarget w)) = 0 ∧ barCtx (s.barrier (swBarrier w)) = ctx) →
      s.time.held = true → (swPoint w).2 ≤ 1249 → lin s.now + 2 ≤ lin (swPoint w) →
      Accepted (.switchArm o ctx w) s fun t => (t.getCtx ctx).switch = setFld (setFld w 7 6 0) 9 8 1
        ∧ (x.role = 2 → (t.getCtx ctx).getSlot (swTarget w)
            = mkSlot (swVersion w) 0 (slotRegion (x.getSlot (swTarget w))) 1)
        ∧ (∀ v, x.role = 1 ∨ v ≠ swTarget w → (t.getCtx ctx).getSlot v = x.getSlot v)
        ∧ (t.getCtx ctx).desc = x.desc ∧ only t)
    ∧ (fld w 12 12 = 0 → fld w 5 0 = 0 → flag w 7 = false → flag w 6 = true → swState x.switch = 1 →
      Accepted (.switchCancel o ctx w) s fun t =>
        (t.getCtx ctx).switch = setFld (setFld w 6 6 0) 9 8 (if x.role = 2 then 3 else 0)
        ∧ (x.role = 2 → (t.getCtx ctx).getSlot (swTarget x.switch) = mkSlot 0 0 (slotRegion (x.getSlot (swTarget x.switch))) 0)
        ∧ (t.getCtx ctx).desc = x.desc ∧ only t)
    ∧ (fld w 12 12 = 0 → fld w 5 0 = 0 → flag w 7 = false → flag w 6 = true → swState x.switch ≠ 1 →
      Accepted (.switchCancel o ctx w) s fun t => (t.getCtx ctx).switch = setFld (setFld w 6 6 0) 9 8 (swState x.switch)
        ∧ (t.getCtx ctx).slot = x.slot ∧ (t.getCtx ctx).desc = x.desc ∧ only t)
    ∧ (∀ q, s.switchDue ctx = some q → s.isFirst ctx (eventKey q 4) = true →
      ∃ t, exec (.switchEffect ctx) s = .next t ∧ (t.getCtx ctx).version = swVersion x.switch
        ∧ swState (t.getCtx ctx).switch = 2 ∧ t.od 0x2600 0xD = q.1 % 2 ^ 64
        ∧ (s.od 0x2600 6 + 1 < 2 ^ 32 → t.od 0x2600 6 = s.od 0x2600 6 + 1)
        ∧ (x.role = 2 → slotState ((t.getCtx ctx).getSlot (swTarget x.switch)) = 2
            ∧ (t.getCtx ctx).curSlot = some (swTarget x.switch))
        ∧ (x.role ≠ 2 → (t.getCtx ctx).slot = x.slot) ∧ only t)
    ∧ (swState x.switch = 1 → x.role = 2 → lin (swPoint x.switch) < lin s.now →
      (∀ q, (s.barCollect (swBarrier x.switch)).release = some q → barState (s.barrier (swBarrier x.switch)) = 3 →
        lin (swPoint x.switch) < lin q) →
      ∃ t, exec (.switchMissed ctx) s = .next t ∧ (t.getCtx ctx).switch = setFld x.switch 9 8 3
        ∧ (t.getCtx ctx).getSlot (swTarget x.switch) = mkSlot 0 0 (slotRegion (x.getSlot (swTarget x.switch))) 0
        ∧ (t.getCtx ctx).desc = x.desc ∧ only t)

/-- Writes of a barrier entry and of its vote register (12 R290, R291). -/
def Obligations.BarrierSetUp : Prop :=
  ∀ (o : Origin) (b : Fin 256) (w : BitVec 512) (v : BitVec 64) (s : State), s.originStatus o = stOk →
    let old := s.barrier b
    let g := s.groupOf (barGroup w)
    let only (t : State) : Prop := (∃ x y, t = { s with
        barriers := x
        barCol := y
        resp := t.resp }) ∧ ∀ n, n ≠ b.val → t.barrier n = s.barrier n ∧ t.barCollect n = s.barCollect n
    let fits : Prop := barState old = 0 ∧ fld w 236 0 = 0 ∧ barArrCtr w < 48 ∧ barNotify w < 48 ∧ (barPoint w).2 ≤ 1249
    (fits → flag w 237 = false →
      Accepted (.barrierConfigure o b w) s fun t =>
        (∀ i, i < 512 → i ≠ 237 → (i < 352 ∨ 384 ≤ i) →
          (t.barrier b).getLsbD i = if barRo.testBit i then old.getLsbD i else w.getLsbD i)
        ∧ barGen (t.barrier b) = 0 ∧ only t)
    ∧ (fits → flag w 237 = true → isGroup (barGroup w) = true → grValid g = true → grKind g = 1 → grCtx g = barCtx w →
      ((s.treeNeighbours g).all fun m => s.hasRoute m) = true → s.time.held = true → lin s.now + 2 ≤ lin (barPoint w) →
      Accepted (.barrierArm o b w) s fun t => (s.barCollect b).kept = [] → barCount w ≠ 0 →
        barState (t.barrier b) = 1 ∧ barGen (t.barrier b) = (barGen old + 1) % 2 ^ 32
        ∧ barVoteIn (t.barrier b) = 0 ∧ barVoteOut (t.barrier b) = 0 ∧ fld (t.barrier b) 351 336 = 0
        ∧ barPoint (t.barrier b) = barPoint w ∧ barCount (t.barrier b) = barCount w ∧ barGroup (t.barrier b) = barGroup w
        ∧ t.barCollect b = { BarrierCol.init with kept := [] } ∧ only t)
    ∧ (fld v 63 2 = 0 → barState old = 1 →
      Accepted (.voteRegister o b v) s fun t => barVoteIn (t.barrier b) = barVoteIn old ||| fld v 1 0
        ∧ barState (t.barrier b) = 1 ∧ t.barCollect b = s.barCollect b ∧ only t)

/-- Queue bindings (11 R261), group entries (R272) and dump requests (12 R296, R297). -/
def Obligations.QueuesGroupsDumps : Prop :=
  ∀ (o : Origin) (ctx : Fin 16) (s : State), s.originStatus o = stOk →
    (∀ (q : BitVec 16) (w : BitVec 128), fld w 79 0 = 0 → bPack w ≠ 3 → bCredit w ≠ 0 → (bPack w ≠ 0 → bSide w = false) →
      (s.ops.any fun x => x.queue == q.toNat) = false → (s.getCtx (bCtx w)).stepRun = false → s.bindingInStep q.toNat = false → (bTc w = 3 → originIsCore o = false) →
      exec (.queueBinding o q w) s = .next { s with
        bindings := tblSet bindingD s.bindings q.toNat w
        qstatus := tblSet w128z s.qstatus q.toNat 0
        resp := ⟨0, 0, []⟩ })
    ∧ (∀ (g : Fin 16384) (w : BitVec 256), fld w 200 176 = 0 → fld w 7 0 = 0 →
      (grValid w = true → grKind w = 2 → grSeg w ≠ 0 ∧ grSeg w % 4 = 0 ∧ grMembers w ≠ 0 ∧ grMembers w ≤ 49152) →
      (s.barriers.any fun b => barGroup b.2 == g.val + 0xC000 && barState b.2 != 0) = false →
      exec (.groupEntry o g w) s = .next { s with
        groups := tblSet groupD s.groups g w
        resp := ⟨0, 0, []⟩ })
    ∧ (∀ w : BitVec 64, fld w 63 2 = 0 →
      let done (t : State) : Prop := (t.getCtx ctx).dumpReady = ((s.getCtx ctx).dumpReady && !flag w 0)
        ∧ (t.getCtx ctx).dumpReq = (if flag w 1 then some (s.time.boundaries + 1) else (s.getCtx ctx).dumpReq)
        ∧ OnlyCtx s t ctx
      Accepted (.dumpRequest o ctx w) s done ∧ Accepted (.dumpReadyClear o ctx w) s done)
    ∧ (∀ k, (s.getCtx ctx).dumpReq = some k → k ≤ s.time.boundaries →
      ∃ t, exec (.dumpLatch ctx) s = .next t
        ∧ ((s.getCtx ctx).dumpAddr = 0 → t = s.setCtx ctx { s.getCtx ctx with dumpReq := none })
        ∧ ((s.getCtx ctx).dumpAddr ≠ 0 → (s.getCtx ctx).dumpReady = true →
            t = (s.setCtx ctx { s.getCtx ctx with dumpReq := none }).countSync (some ctx.val) 6)
        ∧ (let s1 := s.setCtx ctx { s.getCtx ctx with dumpReq := none }
          let a := (s.getCtx ctx).dumpAddr
          let recs := (s1.coresOf ctx).map (fun n => coreRecord n (s1.getCore n))
            ++ (s1.busyBarriers ctx).map (fun b => leBytes 64 b.toNat) ++ (s1.pendOf ctx).map pendRecord
          let d := s1.dumpRecords ctx (a.toNat + 64) recs
          a ≠ 0 → (s.getCtx ctx).dumpReady = false → d.2 = true → d.1.engineOk ctx a 64 = true →
            ∃ n, t = ((d.1.engineWrite ctx a (leBytes 64 n)).modCtx ctx fun x => { x with dumpReady := true }).msixEvent ctx 2
              ∧ n % 2 ^ 32 = 0x53594E43 ∧ n / 2 ^ 373 % 16 = ctx.val ∧ n / 2 ^ 377 % 8 = 4 ∧ n / 2 ^ 380 % 256 = stOk
              ∧ n / 2 ^ 403 % 2 ^ 16 = (s1.pendOf ctx).length % 2 ^ 16
              ∧ n / 2 ^ 419 % 512 = (s1.busyBarriers ctx).length % 512
              ∧ n / 2 ^ 428 % 512 = ((s1.coresOf ctx).length - 1) % 512 ∧ n / 2 ^ 448 = s.time.sweep % 2 ^ 64))

/-- What an entry shows once collection `c` is what it has of its generation (12 R292, R293). -/
def arrivalShows (s t : State) (b : Nat) (c : BarrierCol) : Prop :=
  let w := s.barrier b
  let g := s.groupOf (barGroup w)
  let all : Prop := c.arrived = true ∧ ∀ m, m ∈ s.treeChildren g → ∃ k, k ∈ c.kids ∧ k.1 = m
  let n := s.tickAfter (max 2 (barGuard w))
  let late := decide (lin (barPoint w) < n)
  let q := if late then (n / 1250, n % 1250) else barPoint w
  (t.barCollect b).arrived = c.arrived ∧ (t.barCollect b).kids = c.kids ∧ (t.barCollect b).votes = c.votes
    ∧ fld (t.barrier b) 351 336 = c.subtree % 2 ^ 16 ∧ barGen (t.barrier b) = barGen w
    ∧ (¬ all → barState (t.barrier b) = 1 ∧ t.txq = s.txq)
    ∧ (all → grParent g ≠ 0xFFFF → barState (t.barrier b) = 2 ∧ ∃ e, t.txq = s.txq ++ [e]
        ∧ e.frame = s.barrierFrame (grParent g) b (barGen w) 0 0 0 c.subtree c.votes)
    ∧ (all → grParent g = 0xFFFF → barState (t.barrier b) = 3 ∧ barVoteOut (t.barrier b) = c.votes % 4
        ∧ flag (t.barrier b) 238 = late ∧ (t.barCollect b).release = some q
        ∧ t.txq.map TxEntry.frame = s.txq.map TxEntry.frame
            ++ (s.treeChildren g).map fun m => s.barrierFrame m b (barGen w) q.1 q.2 1 0 c.votes)

/-- Local arrival, ARRIVE and COMPLETE frames, and the release (12 R292 to R295). -/
def Obligations.BarriersRun : Prop :=
  ∀ (b : Fin 256) (f : Frame) (s : State),
    let w := s.barrier b
    let c := s.barCollect b
    let p := barPayload f
    let only (t : State) : Prop := ∃ co x y q cx, t = { s with
      cores := co
      barriers := x
      barCol := y
      txq := q
      ctxs := cx }
    (barState w = 1 → c.arrived = false → barCount w ≤ (s.getCore (barArrCore w)).ctrVal (barArrCtr w) →
      s.voteReady (barCtx w) = true →
      let run := (s.getCtx (barCtx w)).stepRun
      let s0 := if run then s.voteSums (barCtx w) else s
      let vote := barVoteIn w ||| if (s0.getCtx (barCtx w)).stepRun then s0.voteBits (barCtx w) else 0
      ∃ t, exec (.barrierLocalArrival b) s = .next t
        ∧ (∃ co x y q cx, t = { s0 with
          cores := co
          barriers := x
          barCol := y
          txq := q
          ctxs := cx })
        ∧ (∃ st cx lr k lo q d, s0 = { s with
          stores := st
          ctxs := cx
          lr := lr
          clusters := k
          long := lo
          txq := q
          dict := d })
        ∧ (t.getCore (barArrCore w)).ctrVal (barArrCtr w) = (s.getCore (barArrCore w)).ctrVal (barArrCtr w) - barCount w
        ∧ barVoteIn (t.barrier b) = vote % 4
        ∧ arrivalShows s0 t b { c with
          arrived := true
          votes := c.votes ||| vote })
    ∧ (f.hasKind 9 = true → s.inWindow f = true → f.payload.length = 16 → flag p 64 = false → f.addr % 256 = b →
      fld p 127 96 = barGen w → barState w = 1 → f.src ∈ s.treeChildren (s.groupOf (barGroup w)) →
      (∀ k, k ∈ c.kids → k.1 ≠ f.src) →
      ∃ t, exec (.barrierArrive f) s = .next t ∧ only t ∧ t.cores = s.cores
        ∧ arrivalShows s t b { c with
          kids := c.kids ++ [(f.src, fld p 1 0, fld p 63 48)]
          votes := c.votes ||| fld p 1 0 })
    ∧ (f.hasKind 9 = true → s.time.held = true → s.inWindow f = true → f.payload.length = 16 → flag p 64 = true → f.addr % 256 = b →
      fld p 127 96 = barGen w → barState w = 2 → ∀ q, s.fullSweep (fld p 95 80) = some q →
      lin s.now + 2 ≤ lin (q, fld p 79 69) →
      ∃ t, exec (.barrierComplete f) s = .next t ∧ only t ∧ t.cores = s.cores ∧ barState (t.barrier b) = 3
        ∧ barVoteOut (t.barrier b) = fld p 1 0 ∧ (t.barCollect b).release = some (q, fld p 79 69)
        ∧ flag (t.barrier b) 238 = decide (lin (q, fld p 79 69) > lin (barPoint w))
        ∧ t.txq.map TxEntry.frame = s.txq.map TxEntry.frame ++ (s.treeChildren (s.groupOf (barGroup w))).map fun m =>
            s.barrierFrame m b (barGen w) q (fld p 79 69) 1 0 (fld p 1 0))
    ∧ (∀ q, c.release = some q → barState w = 3 → s.reached q = true → (s.getCtx (barCtx w)).state ≠ 2 →
      s.cutCovers (barCtx w) q = false → (s.switchAt b).isFirst (barCtx w) (eventKey q 5) = true →
      ∃ t, exec (.barrierRelease b none) s = .next t ∧ barState (t.barrier b) = 0 ∧ fld (t.barrier b) 447 384 = q.1 % 2 ^ 64
        ∧ fld (t.barrier b) 292 282 = q.2 % 2 ^ 11 ∧ barVoteOut (t.barrier b) = barVoteOut w
        ∧ (t.barCollect b).release = none ∧ (t.barCollect b).arrived = false ∧ (t.barCollect b).kids = []
        ∧ t.stores = s.stores ∧ t.imem = s.imem ∧ t.lr = s.lr ∧ t.side = s.side)

/-- Prism jobs (14 R322 to R326); the placement clause is for a binding to another module with a route. -/
def Obligations.PrismJobsRun : Prop :=
  ∀ (o : Origin) (die : Fin 8) (data : List Byte) (s : State),
    let x := s.getDie die
    let j := BitVec.ofNat 512 (leNat data)
    let same (s1 t : State) : Prop := t.stores = s1.stores ∧ t.imem = s.imem ∧ t.lr = s.lr ∧ t.side = s.side
      ∧ t.cores = s.cores ∧ t.ctxs = s1.ctxs ∧ ∀ n, n ≠ die.val → t.getDie n = s.getDie n
    (s.originStatus o = stOk → s.time.held = true → data.length = 64 → fld j 129 0 = 0 → pjSrcCount j ≤ 65536 → x.prismQ.length < 64 →
      exec (.prismSubmission o die data) s = .next ((s.setDie die { x with prismQ := x.prismQ ++ [j] }).status 0))
    ∧ (∀ d r hw, x.prismQ = d :: r → x.prismRun = none → s.exportsInto d = false →
      let u := s.unitReads (die * 64) hw (((s.jobHeads d).getD []).map fun h => (h.1, 128))
      let s1 := u.1
      u.2 = true →
      let heads := if gaModule (pjSrc d) = s1.moduleId ∧ gaSpace (pjSrc d) = 0 ∧ gaOffset (pjSrc d) % 128 = 0 then
        s1.prismHeads (pjCtx d) (pjVersion d) (pjSrcCount d) (gaOffset (pjSrc d)) else none
      ∃ t run, exec (.prismJobStart ⟨die, hw⟩) s = .next t ∧ same s1 t ∧ (t.getDie die).prismQ = r ∧ (t.getDie die).prismRun = some run
        ∧ run.desc = d ∧ run.next = 0 ∧ run.bytes = 0 ∧ run.heads = heads.getD []
        ∧ run.stopped = heads.isNone ∧ run.status = if heads.isSome then stOk else stAccess)
    ∧ (∀ r hw, x.prismRun = some r → r.stopped = false → r.next < pjPlaceCount r.desc → s.prismInFlight die < 64 →
      let u := s.unitReads (die * 64) hw (s.placeReads r)
      let s1 := u.1
      u.2 = true →
      let p := s1.engineRead (pjCtx r.desc) (addr64 (pjPlace r.desc) (32 * r.next)) 32
      let e := BitVec.ofNat 256 (leNat p.data)
      let b := s.binding (plQueue e)
      (∀ st, (p.fault = true ∧ st = stAccess ∨ p.fault = false ∧ p.poison = true ∧ st = stPoison
          ∨ p.fault = false ∧ p.poison = false ∧ s1.placement r e = .error st) →
        exec (.prismPlacement ⟨die, hw⟩) s = .next (s1.setDie die { x with prismRun := some (r.fails st r.next) }))
      ∧ (∀ rec, p.fault = false → p.poison = false → s1.placement r e = .ok rec → rec ≠ [] →
          bValid b = true → bCtx b = pjCtx r.desc → bDest b ≠ s1.moduleId → isGroup (bDest b) = false →
          s1.hasRoute (bDest b) = true → bTc b ≠ 3 →
          ∃ (t : State) (y : Xfer) (q : List TxEntry), exec (.prismPlacement ⟨die, hw⟩) s = .next t ∧ same s1 t
            ∧ (t.getDie die).prismRun = some { r with
              next := r.next + 1
              bytes := r.bytes + rec.length }
            ∧ t.ops = s.ops ++ [y] ∧ y.core = 513 + die.val ∧ y.kind = .put ∧ y.queue = plQueue e ∧ y.data = rec
            ∧ y.sigCtr = plSigCtr e ∧ y.awaited = (framePieces rec).length
            ∧ t.txq = s.txq ++ q ∧ q.map (fun z => z.frame.payload) = (framePieces rec).map Prod.snd))
    ∧ (∀ r0, x.prismRun = some r0 →
      let r := if s.reached (pjDeadline r0.desc) = true ∧ r0.stopped = false then r0.fails stDeadline r0.next else r0
      (r.stopped = true ∨ pjPlaceCount r.desc ≤ r.next) → s.prismInFlight die = 0 →
      let a := pjRec r.desc
      let st := if r.status ≠ stOk then r.status else if r.recovered then stRecovered else stOk
      ∃ t, exec (.prismJobEnd die) s = .next t ∧ (t.getDie die).prismRun = none ∧ (t.getDie die).prismQ = x.prismQ
        ∧ (gaModule a = s.moduleId → gaSpace a = 0 → s.engineOk (pjCtx r.desc) a 16 = true → s.heldAt (gaOffset a) 16 = none →
            ∃ mid, (∀ n, r.fail = some n → mid = n) ∧ rdBytes t.lr (gaOffset a) 16 = completion16 r.bytes mid st
              ∧ (∀ k, (k < gaOffset a ∨ gaOffset a + 16 ≤ k) → rdByte t.lr k = rdByte s.lr k) ∧ t.stores = s.stores)
        ∧ t.imem = s.imem ∧ t.side = s.side)
    ∧ (∀ r, x.prismRun = some r → s.reached (pjDeadline r.desc) = true → r.stopped = false →
      s.isFirst (pjCtx r.desc) (eventKey (pjDeadline r.desc) 7) = true →
      exec (.prismDeadlineCheck die) s = .next (s.setDie die { x with prismRun := some (r.fails stDeadline r.next) }))

/-- A job of a batched operation that borrows no engine and updates no root buffer (08 Tables 08-2, 08-3). -/
def plainJob (d : BitVec 1024) : Prop := jBatched d = true ∧ jLend d = 0

/-- The completion record at a job's RECORD address, where it lies in this module's long range and may be written. -/
def recordShows (s t : State) (cluster : Nat) (d : BitVec 1024) (e : JobEnd) : Prop :=
  gaModule (jRec d) = s.moduleId → gaSpace (jRec d) = 0 → s.engineOk (s.engineCtx cluster) (jRec d) 32 = true →
    s.heldAt (gaOffset (jRec d)) 32 = none → rdBytes t.lr (gaOffset (jRec d)) 32 = jobRecord e

/-- The jobs of a cluster's solver engine (08 R172 to R178, R187 to R189). -/
def Obligations.SolverJobsRun : Prop :=
  ∀ (o : Origin) (cluster : Fin 64) (data : List Byte) (s : State),
    let c := s.getCluster cluster
    let j := BitVec.ofNat 1024 (leNat data)
    (s.originStatus o = stOk → s.time.held = true → data.length = 128 → jobRefused j = false → c.solverQ.length < 64 →
      exec (.solverSubmission o cluster data) s = .next ((s.setCluster cluster { c with solverQ := c.solverQ ++ [j] }).status 0))
    ∧ (∀ d r hw, c.solverQ = d :: r → c.solverRun = none → s.reached (jStart d) = true →
      (∀ x, s.ctxOfCluster cluster = some x → (s.getCtx x).remapHold = none) → plainJob d →
      let u := s.unitReads (cluster * 8) hw (s.ownRanges (s.jobReads (s.engineCtx cluster) d))
      let s1 := u.1
      u.2 = true →
      let cc := max (lin s.now * 18) c.solverEnd
      let dur := jobDuration d false false 0
      let ctx := s1.engineCtx cluster
      let input := s1.engineRead ctx (jSrc d) (jSrcBytes d)
      let aux := s1.engineRead ctx (jAux d) (jAuxBytes d)
      ∃ t, exec (.solverJobStart ⟨cluster, hw⟩) s = .next t ∧ (t.getCluster cluster).solverQ = r
        ∧ (cc + dur < lin (jDeadline d) * 18 → jBatch d ≠ 0 → ((jOp d = opTrsm ∨ jOp d = opSyrk) → jK d ≠ 0) →
            input.fault = false → aux.fault = false → s1.engineOk ctx (jDst d) (jDstBytes d) = true →
            ∃ run, (t.getCluster cluster).solverRun = some run ∧ run.desc = d ∧ run.startCc = cc ∧ run.warm = false
              ∧ run.coldAsked = false ∧ run.fallback = false ∧ run.duration = dur ∧ run.refs = none ∧ run.input = input.data
              ∧ run.aux = aux.data ∧ run.writes = false ∧ run.began = false
              ∧ t.lr = s.lr ∧ t.stores = s1.stores ∧ t.side = s.side ∧ t.imem = s.imem ∧ t.cores = s.cores)
        ∧ (lin (jDeadline d) * 18 ≤ cc + dur → jBatch d ≠ 0 → ((jOp d = opTrsm ∨ jOp d = opSyrk) → jK d ≠ 0) →
            (t.getCluster cluster).solverRun = none ∧ recordShows s1 t cluster d (simpleEnd s1 stDeadline 0)))
    ∧ (∀ r, c.solverRun = some r → s.jobDone r = true → r.missesDeadline = false → s.jobHeld r.desc = false → plainJob r.desc →
      r.refs = none → r.coldAsked = false → r.fallback = false → r.writes = false →
      let d := r.desc
      let res := jobCompute d r (jPrec d)
      let fails := res.badInput || !outFinite d res.outs
      let out := jobBytes d res.outs
      let st := if res.badInput then stNonfinite else if fails then stPoison else if res.regs.length ≠ 0 then stRegularised else stOk
      ∃ t, exec (.solverJobEnd cluster .ok) s = .next t ∧ (t.getCluster cluster).solverRun = none
        ∧ (t.getCluster cluster).solverQ = c.solverQ ∧ (t.getCluster cluster).solverEnd = r.startCc + r.duration
        ∧ t.imem = s.imem ∧ t.side = s.side
        ∧ ∃ e, e.status = st ∧ e.regs = res.regs.length ∧ e.iters = 0 ∧ e.duration = r.duration
          ∧ (fails = true → recordShows s t cluster d e)
          ∧ (fails = false → gaModule (jDst d) = s.moduleId → gaSpace (jDst d) = 0 →
              s.engineOk (s.engineCtx cluster) (jDst d) out.length = true → s.heldAt (gaOffset (jDst d)) out.length = none →
              gaModule (jRec d) = s.moduleId → gaSpace (jRec d) = 1 →
              rdBytes t.lr (gaOffset (jDst d)) out.length = out
              ∧ ∀ k, (k < gaOffset (jDst d) ∨ gaOffset (jDst d) + out.length ≤ k) → rdByte t.lr k = rdByte s.lr k))
    ∧ (∀ r i, c.solverRun = some r → r.missesDeadline = true → plainJob r.desc → r.refs = none →
      (i = .solverDeadlineCheck cluster ∧ s.reached (jDeadline r.desc) = true
          ∧ s.isFirstIn cluster (eventKey (jDeadline r.desc) 7) = true
        ∨ s.jobDone r = true ∧ ∃ hw, i = .solverJobEnd cluster hw) →
      let res := jobCompute r.desc r (jPrec r.desc)
      ∃ t, exec i s = .next t ∧ (t.getCluster cluster).solverRun = none
        ∧ (t.getCluster cluster).solverQ = c.solverQ ∧ (t.getCluster cluster).solverEnd = lin s.now * 18
        ∧ t.imem = s.imem ∧ t.side = s.side
        ∧ ∃ e, e.status = (if res.badInput then stNonfinite else stDeadline) ∧ e.regs ≤ res.regs.length
          ∧ e.flags.testBit 0 = true ∧ e.flags.testBit 1 = decide (e.regs ≠ 0) ∧ recordShows s t cluster r.desc e)

/-- The shard engines (09 R210), phase 1 and phase 2 of a step (09 R199 to R202), the comparison of digests (15 R348). -/
def Obligations.ShardsAndCommit : Prop :=
  ∀ (o : Origin) (die : Fin 8) (data : List Byte) (ctx : Fin 16) (m : ShardMap) (s : State),
    let x := s.getCtx ctx
    (s.originStatus o = stOk → data.length = 64 → leNat data % 2 ^ 241 = 0 → (s.getDie die).shardQ.length < 256 →
      exec (.shardSubmission o die data) s = .next ((s.modDie die fun d =>
        { d with shardQ := d.shardQ ++ [(BitVec.ofNat 512 (leNat data), s.originCtx o,
          (s.exportCtx (BitVec.ofNat 512 (leNat data))).any fun c => (s.getCtx c).phase2.isSome)] }).status 0))
    ∧ (∀ d c late r hw, (s.getDie die).shardQ = (d, c, late) :: r → (late = true → s.exportWaits d = false) →
      let u := s.unitReads (die * 64) hw (s.ownRanges (s.shardReads d c))
      let s1 := u.1
      u.2 = true →
      let tpl := s1.engineRead c (sdHdr d) 128
      let h := s1.fillHeader (BitVec.ofNat 1024 (leNat tpl.data)) c
      let p := s1.engineRead c (sdSrc d) (payloadLength h)
      let out := leBytes 128 h.toNat ++ p.data
      let good := tpl.fault = false ∧ headerOk h = true ∧ sdDst d % 128 = 0 ∧ p.fault = false
        ∧ s1.engineOk c (sdDst d) (128 + payloadLength h) = true
      ∃ t, exec (.shardDescriptorEnd ⟨die, hw⟩) s = .next t ∧ (t.getDie die).shardQ = r ∧ t.imem = s.imem ∧ t.side = s.side
        ∧ (¬ good → gaModule (sdRec d) = s1.moduleId → gaSpace (sdRec d) = 0 → s1.engineOk c (sdRec d) 16 = true →
            s1.heldAt (gaOffset (sdRec d)) 16 = none →
            rdBytes t.lr (gaOffset (sdRec d)) 16 = completion16 0 0 stAccess)
        ∧ (good → gaModule (sdDst d) = s1.moduleId → gaSpace (sdDst d) = 0 → s1.engineOk c (sdDst d) out.length = true →
            s1.heldAt (gaOffset (sdDst d)) out.length = none →
            gaModule (sdRec d) = s1.moduleId → gaSpace (sdRec d) = 1 →
            rdBytes t.lr (gaOffset (sdDst d)) out.length = out
            ∧ ∀ k, (k < gaOffset (sdDst d) ∨ gaOffset (sdDst d) + out.length ≤ k) → rdByte t.lr k = rdByte s.lr k))
    ∧ (x.active = true → x.stepRun = true → x.phase2 = none → s.ctxOfCore m.ctrCore = some ctx.val → m.ctrNum.toNat < 48 →
      m.count.toNat ≤ (s.getCore m.ctrCore).ctrVal m.ctrNum.toNat → shStaged (s.shardHeader m) = false → m ∉ x.shards →
      s.cutCovers ctx s.now = false → (∀ k, x.ownerOf (s.ownAddr m.header) = some k → k = m.ctrCore.val / 8) → s.mapOk ctx m = true →
      (shRule (s.shardHeader m) = 2 → s.enginesFree m = true) → s.shardHeld m = false →
      (s.unitReads m.ctrCore .ok (s.phaseReads m)).2 = true →
      let submitted := x.ortho.any fun o => o.1 == m.header
      ((shRule (s.shardHeader m) = 3 → submitted = true ∧ s.polarRuns m = false) →
        ∃ t, exec (.phase1 ctx m .ok) s = .next t ∧ m ∈ (t.getCtx ctx).shards ∧ (∀ k ∈ x.shards, k ∈ (t.getCtx ctx).shards)
          ∧ (m.lastShard = false → (t.getCore m.ctrCore).ctrVal m.ctrNum.toNat
              = (s.getCore m.ctrCore).ctrVal m.ctrNum.toNat - m.count.toNat)
          ∧ (t.getCtx ctx).ownerOf (s.ownAddr m.header) = some (m.ctrCore.val / 8)
          ∧ (shRule (s.shardHeader m) ≠ 2 → t.stores = s.stores) ∧ t.imem = s.imem)
      ∧ (shRule (s.shardHeader m) = 3 → submitted = false → s.polarRoom m = true →
        ∃ t l, exec (.phase1 ctx m .ok) s = .next t ∧ (t.getCtx ctx).ortho = x.ortho ++ [(m.header, l)]
          ∧ (t.getCtx ctx).shards = x.shards ∧ t.imem = s.imem ∧ t.cores = s.cores))
    ∧ (x.stepRun = true → x.active = true → x.voted = false → 2 ≤ x.dMembers → x.rederived = false →
      x.dMembers ≤ (s.getCore x.dCmpCore).ctrVal x.dCmpCtr →
      (∀ k, k < x.dSlots → s.slotMismatch x k = (false, false, false)) →
      exec (.digestCompare ctx) s
        = .next ((s.ctrSub x.dCmpCore x.dCmpCtr x.dMembers).modCtx ctx fun y => { y with voted := true }))
    ∧ (∀ q map, x.phase2 = some q → x.phase2Map = some map →
      (∀ f ∈ map.factors, f.count.toNat ≤ (s.getCore f.ctrCore).ctrVal f.ctrNum.toNat) → s.exportRuns ctx = false →
      (∀ k ∈ x.shards, s.shardHeld k = false) →
      ∃ t, exec (.phase2Complete ctx) s = .next t
        ∧ (t.getCtx ctx).stepRun = false ∧ (t.getCtx ctx).phase2 = none ∧ (t.getCtx ctx).shards = []
        ∧ (t.getCtx ctx).stepNo = (if q = 3 then x.stepNo else x.stepNo + 1)
        ∧ (t.getCtx ctx).lastCommit = (if q = 1 then x.stepNo else x.lastCommit)
        ∧ (∀ n : Nat, n ≠ ctx → (t.getCtx n).stepNo = (s.getCtx n).stepNo ∧ (t.getCtx n).shards = (s.getCtx n).shards
            ∧ (t.getCtx n).stepRun = (s.getCtx n).stepRun ∧ (t.getCtx n).lastCommit = (s.getCtx n).lastCommit)
        ∧ t.imem = s.imem ∧ t.time = s.time)

/-- Region descriptors (10 R228 to R230). -/
def Obligations.RegionsMapAndUnmap : Prop :=
  ∀ (o : Origin) (r : Fin 4096) (w : BitVec 256) (s : State),
    let old := s.region r
    (s.originStatus o = stOk → fld w 142 0 = 0 → rgValid old = false → rgValid w = true →
      (∀ e ∈ s.long.region, rgValid e.2 = true → rgOverlap e.2 w = false) → s.mappedPages + rgPages w ≤ s.mapLimit →
      (rgPin w = true → rgHomeFlash w = false ∧ s.pinnedPages (rgCtx w) + rgPages w ≤ s.frameBudget (rgCtx w)) →
      rgBase w + rgPages w ≤ 2 ^ 28 → (s.getCtx (rgCtx w)).stepRun = false →
      ∃ t, exec (.regionMap o r w) s = .next t ∧ t.region r = w ∧ (∀ n : Nat, n ≠ r → t.region n = s.region n) ∧ t.resp = ⟨0, 0, []⟩
        ∧ (∀ k, rdByte t.lr k = if rgHolds w (k / 65536) then 0 else rdByte s.lr k)
        ∧ (∀ k, rdByte t.side k = if rgHolds w (k / 4096) then 0 else rdByte s.side k)
        ∧ t.stores = s.stores ∧ t.imem = s.imem ∧ t.ctxs = s.ctxs ∧ t.cores = s.cores)
    ∧ (s.originStatus o = stOk → fld w 142 0 = 0 → rgValid old = true → rgValid w = false →
      (s.getCtx (rgCtx old)).stepRun = false →
      exec (.regionUnmap o r w) s = .next { s with long := { s.long with
        unmapping := (s.long.unmapping.filter fun e => e.1 != r.val) ++ [(r.val, w)] } })
    ∧ (∀ q, s.long.unmapping.find? (fun e => e.1 == r.val) = some (q, w) → s.regionBusy old = false →
      ∃ t, exec (.regionUnmapComplete r) s = .next t ∧ t.region r = w ∧ t.resp.status = 0
        ∧ t.long.unmapping.find? (fun e => e.1 == r.val) = none
        ∧ (∀ k, rdByte t.lr k = if rgHolds old (k / 65536) then 0 else rdByte s.lr k)
        ∧ (∀ k, rdByte t.side k = if rgHolds old (k / 4096) then 0 else rdByte s.side k)
        ∧ t.stores = s.stores ∧ t.imem = s.imem
        ∧ ((∀ e ∈ s.long.unmapWait, e.1 ≠ r.val) → t.ctxs = s.ctxs ∧ t.cores = s.cores))

/-- Prefetch schedules (10 R237 to R239). -/
def Obligations.SchedulesRun : Prop :=
  ∀ (o : Origin) (ctx : Fin 16) (v : BitVec 64) (n : Nat) (s : State),
    let x := s.getCtx ctx
    let es := s.readSchedule x.schedBase.toNat v.toNat
    let due (e : W128) (kind : Nat) : Prop := x.sched[n]? = some e ∧ x.entryState n = .waiting ∧ seKind e = kind
      ∧ s.reached (x.stepStartSweep + seStart e, 0) = true ∧ ∀ j, j < n → x.entryState j ≠ .waiting
    (s.originStatus o = stOk → x.stepRun = false →
      (v ≠ 0 → x.schedBase.toNat < 2 ^ 44 ∧ s.longOk (.ctx ctx) false x.schedBase.toNat (16 * v.toNat) = true) →
      startsRise es = true → (∀ e ∈ es, s.entryOk ctx e = true) →
      exec (.schedCount o ctx v) s
        = .next ((s.modCtx ctx fun x => { x with schedCount := v, sched := es, schedState := [] }).status 0))
    ∧ (∀ e, due e 0 → let p := sePage e
      ∃ t, exec (.fetchHbm ctx n) s = .next t ∧ (t.getCtx ctx).entryState n = .begun ∧ (t.getPage p).prot = true
        ∧ (¬ (s.pageInHbm p = true ∧ s.pageDie p = seDie e) → (t.getPage p).moving.isSome = true ∧ (t.getPage p).die = seDie e)
        ∧ SameBytes s t ∧ t.cores = s.cores)
    ∧ (∀ e, due e 1 → let p := sePage e
      ∃ t, exec (.fetchStore ctx n) s = .next t ∧ (t.getCtx ctx).entryState n = .begun
        ∧ (s.pageInHbm p = false → (t.getPage p).moving.isSome = true) ∧ SameBytes s t ∧ t.cores = s.cores)
    ∧ (∀ e, due e 2 → let p := sePage e
      ∃ t, exec (.evict ctx n) s = .next t ∧ (t.getCtx ctx).entryState n = .done
        ∧ t.getPage p = { s.getPage p with prot := false } ∧ SameBytes s t ∧ t.cores = s.cores)
    ∧ (∀ e, x.sched[n]? = some e → x.entryState n = .begun ∨ x.entryState n = .late → s.pageInHbm (sePage e) = true →
      s.ladderOf (sePage e) = none → let p := sePage e
      (seKind e = 0 → s.pageDie p = seDie e → (s.getPage p).moving = none →
        exec (.scheduleEntryComplete ctx ⟨n, .ok⟩) s = .next (s.setEntry ctx n .done))
      ∧ (seKind e = 1 → ∃ t, exec (.scheduleEntryComplete ctx ⟨n, .ok⟩) s = .next t ∧ (t.getCtx ctx).entryState n = .done
        ∧ (let out := s.fetchBytes p (seTiled e)
           rdBytes t.stores (storeKey (seCore e) (seLocal e)) out.length = out
           ∧ SameBytesBut s t (storeKey (seCore e) (seLocal e)) out.length)))
    ∧ (∀ e, x.sched[n]? = some e → x.entryState n = .begun → s.reached (x.stepStartSweep + seBy e, 0) = true →
      exec (.scheduleEntryLate ctx n) s = .next ((s.setEntry ctx n .late).addOd 0x2400 9 1))

/-- Migrations (10 R233, R234), held flash writes (R223), ladders (R243 to R246), channels (R217). -/
def Obligations.LaddersAndMigrations : Prop :=
  ∀ (page : BitVec 28) (step : BitVec 64) (data : List Byte) (shards : List ShardMap) (stack : Fin 16) (channel : Fin 32) (s : State),
    let p := page.toNat
    let g := s.getPage p
    (∀ q r, s.regionOf p = some (q, r) → s.ladderOf p = none →
      (g.moving = some true → s.pageInHbm p = false → s.framesUsed (rgCtx r) < s.frameBudget (rgCtx r) →
        exec (.migrationComplete ⟨page, .ok⟩) s = .next (s.setPage p { g with moving := none, inHbm := true }))
      ∧ (g.moving = some false → (∀ h ∈ s.long.heldWrites, h.2 ≠ some p) → g.dirty = false →
        exec (.migrationComplete ⟨page, .ok⟩) s = .next (s.setPage p { g with inHbm := false, moving := none }))
      ∧ (g.moving = some false → (∀ h ∈ s.long.heldWrites, h.2 ≠ some p) → g.dirty = true →
        4096 * s.pageSectors p ≤ s.long.governor →
        ∃ t, exec (.migrationComplete ⟨page, .ok⟩) s = .next t
          ∧ t.getPage p = { g with inHbm := false, dirty := false, moving := none }
          ∧ t.long.governor = s.long.governor - 4096 * s.pageSectors p ∧ SameBytes s t))
    ∧ (∀ n q r, s.long.heldWrites = (n, q) :: r → 4096 * n ≤ s.long.governor →
      ∃ t, exec .heldWriteRelease s = .next t ∧ t.long.heldWrites = r ∧ t.long.governor = s.long.governor - 4096 * n
        ∧ (∀ k, q = some k → (t.getPage k).inHbm = false ∧ (t.getPage k).moving = none) ∧ SameBytes s t)
    ∧ (∀ w r, s.long.heldWrites = [] → s.obs.staging = w :: r → 256 ≤ s.long.governor →
      ∃ t, exec .heldWriteRelease s = .next t ∧ t.obs.staging = r ∧ SameBytes s t)
    ∧ (∀ l, s.ladderOf p = some l →
      (∀ ok, (ok = true → s.rungHolds l step shards = false) → s.nextRung p l.rung ≠ 4 →
        ∃ t, exec (.ladderRungEnd page ⟨ok, step⟩ data shards) s = .next t
          ∧ t.long = { s.long with ladders := s.long.ladders.map fun x =>
              if x.page = p then { x with rung := s.nextRung p l.rung } else x }
          ∧ (s.nextRung p l.rung ≠ 2 → t.txq = s.txq)
          ∧ (∀ q r, s.nextRung p l.rung = 2 → s.regionOf p = some (q, r) → ∃ e msg, t.txq = s.txq ++ [e] ∧ e.die = some (s.homeDie p)
              ∧ e.frame = s.mkFrame (rgReplica r) 1 2 { msg := msg, addr := p * 65536, total := 69632, sidecar := true } [])
          ∧ SameBytes s t ∧ t.cores = s.cores ∧ t.ctxs = s.ctxs)
      ∧ (∀ c, ((∃ ok, c = .ladderRungEnd page ⟨ok, step⟩ data shards ∧ (ok = true → s.rungHolds l step shards = false))
                ∧ s.nextRung p l.rung = 4)
            ∨ (c = .ladderLimit page ∧ l.began + s.od 0x2400 0xF ≤ s.time.boundaries) →
        ∃ u, exec c s = .next ((l.held.foldl State.poisonHeld u).status stUncorrectable) ∧ u.ladderOf p = none ∧ (u.getPage p).poison = true
          ∧ SameBytes s u ∧ u.cores = s.cores ∧ u.ctxs = s.ctxs)
      ∧ (s.rungHolds l step shards = true →
        ∃ u, exec (.ladderRungEnd page ⟨true, step⟩ data shards) s = .next (l.held.foldl (fun s h => s.serveHeld p h) u) ∧ u.ladderOf p = none
          ∧ (l.rung ≤ 1 → SameBytes s u) ∧ u.stores = s.stores ∧ u.imem = s.imem ∧ u.cores = s.cores ∧ u.ctxs = s.ctxs))
    ∧ exec (.channelCopyComplete stack channel) s = .next { s with repair := { s.repair with copies := s.repair.copies.map fun c =>
        if c.1 = stack.val ∧ c.2.1 = channel.val ∧ c.2.2.isNone then (c.1, c.2.1, some (s.time.boundaries + 1)) else c } }
    ∧ (∀ q, s.repair.copies.find? (fun c => c.1 == stack.val && c.2.1 == channel.val) = some (stack.val, channel.val, some q) →
      q ≤ s.time.boundaries → dueCuts s.time.boundaries s.cuts = [] →
      ∃ t, exec (.channelSwitch stack channel) s = .next t
        ∧ t.repair.copies = s.repair.copies.filter (fun c => !(c.1 == stack.val && c.2.1 == channel.val))
        ∧ tblGet nat0 t.repair.chErrors (stack.val * 32 + channel.val) = 0
        ∧ SameBytes s t ∧ t.cores = s.cores ∧ t.ctxs = s.ctxs)

/-- Remaps, holds, the recovery replay (16 R364 to R368) and flash stacks (R369, R371). The unit numbers are the model's (log 18). -/
def Obligations.RepairsTakeEffect : Prop :=
  ∀ (permanent : Bool) (stack : Fin 4) (s : State),
    (∀ r, s.repair.remaps.filter (fun r => decide (r.boundary ≤ s.time.boundaries)) = [r] →
      let k := r.core / 8
      s.isFirstIn k (eventKey (s.boundaryPoint r.boundary) 2) = true →
      (s.getCluster k).solverRun = none →
      ∃ t, exec .reserveRemap s = .next t
        ∧ t.repair.remaps = s.repair.remaps.filter (fun r => decide (r.boundary > s.time.boundaries))
        ∧ t.repair.replayQ = s.repair.replayQ ++ r.fault.toList
        ∧ (r.cluster = false → tblGet id0 (t.getCluster k).coreMap (r.core % 8) = 8 ∧ (t.getCluster k).reserveUsed = true)
        ∧ (r.cluster = true → tblGet id0 (t.getDie (k / 8)).clusterMap (k % 8) = 8 ∧ (t.getCluster k).coreMap = []
            ∧ (t.getCluster k).reserveUsed = false ∧ t.repair.dieReserve = s.repair.dieReserve ||| BitVec.ofNat 8 (2 ^ (k / 8)))
        ∧ (∀ c, s.ctxOfCluster k = some c → (s.getCtx c).remapHold = none →
            (t.getCtx c).remapHold = some (s.time.boundaries, if r.cluster then 219 else 151)
            ∧ ∀ n ∈ s.coresOf c, (t.getCore n).hold = true)
        ∧ SameBytes s t)
    ∧ (∃ t, exec .remapHoldEnd s = .next t
      ∧ (∀ (c : Fin 16) b q, (s.getCtx c).remapHold = some (b, q) →
          let ended := b < s.time.boundaries ∨ (b = s.time.boundaries ∧ q ≤ s.time.tick)
          (ended → (t.getCtx c).remapHold = none ∧ ∀ n ∈ s.coresOf c, (t.getCore n).hold = false)
          ∧ (¬ ended → t.getCtx c = s.getCtx c))
      ∧ SameBytes s t)
    ∧ (∀ u q, s.repair.replayQ = u :: q →
      ∃ t, exec (.recoveryReplay permanent) s = .next t ∧ t.repair.replayQ = q
        ∧ t.repair.retiredClass = s.repair.retiredClass ++ [(u, permanent)]
        ∧ fldN (t.od 0x2300 0x10) 55 54 = (if permanent then 2 else 1) ∧ SameBytes s t)
    ∧ (stack.val ∉ s.repair.failedStacks →
      ∃ t, exec (.flashStackFailure stack) s = .next t ∧ t.repair.failedStacks = s.repair.failedStacks ++ [stack.val]
        ∧ (s.repair.failedStacks = [] → t.od 0x2300 6 = 1 ∧ t.cuts = s.cuts)
        ∧ (s.repair.failedStacks ≠ [] →
            t.cuts = s.cuts ++ [⟨s.time.boundaries + 1, BitVec.ofNat 16 s.activeMask, cutReserves⟩] ∧ t.od 0x2300 9 = 1)
        ∧ SameBytes s t)

/-- Ports: flits (11 R249, R250, R280), routes, classes and frames that leave (R254 to R256, R263, R264), the mesh (01 R19), dark
ports (16 R370). The shares of the classes rest on log 121. -/
def Obligations.PortsCarryFrames : Prop :=
  ∀ (port : Fin 48) (w : BitVec 2048) (fec : Option Nat) (n : Nat) (f : Frame) (credits : List Nat) (s : State),
    let p := s.getPort port
    let s1 := s.fecCount fec
    let inSeq (q : Port) : Prop := q.expect = (p.expect + 1) % 4096 ∧ q.rxAck = some (flSeq w) ∧ q.nakWait = false ∧ q.nakOut = none
      ∧ q.replay = dropAcked (flAck w) p.replay ∧ q.state = 2 ∧ q.txStream = p.txStream ∧ q.txSeq = p.txSeq
    (∀ k, fec = some k → s1 = s.addOd 0x2500 3 k)
    ∧ (fec = none → s1 = s.addOd 0x2500 4 1)
    ∧ (p.state = 2 → flitGood w fec = true →
      (flType w = 0 → flSeq w = p.expect → ∃ q, exec (.dataFlit port w fec) s = .next (s1.setPort port q) ∧ inSeq q
        ∧ q.rxStream = takeFrames (p.rxStream ++ flData w).length (p.rxStream ++ flData w))
      ∧ (flType w = 1 → flSeq w = p.expect → ∃ q, exec (.idleFlit port w fec) s = .next (s1.setPort port q) ∧ inSeq q
        ∧ q.rxStream = p.rxStream)
      ∧ (flType w = 0 → flSeq w ≠ p.expect → p.nakWait = false →
        exec (.dataFlit port w fec) s = .next (s1.setPort port { p with nakWait := true, nakOut := some p.expect }))
      ∧ (flType w = 2 → p.nakWait = false → ∃ q, exec (.nakFlit port w fec) s = .next ((s1.setPort port q).addOd 0x2500 5 1)
        ∧ q.resend = p.replay.dropWhile (fun g => flSeq g != flAck w) ∧ q.replaysSweep = p.replaysSweep + 1
        ∧ q.replay = p.replay ∧ q.expect = p.expect
        ∧ q.state = (if p.replaysSweep + 1 > s.od 0x2500 6 then 1 else 2))
      ∧ (flType w = 2 → p.nakWait = true → exec (.nakFlit port w fec) s = .next s1))
    ∧ (p.state = 2 → flitGood w fec = false →
      ∀ c ∈ [Instr.dataFlit port w fec, .idleFlit port w fec, .nakFlit port w fec],
        exec c s = .next (if p.nakWait then s1 else s1.setPort port { p with nakWait := true, nakOut := some p.expect }))
    ∧ (p.state = 1 → p.laserOff = false →
      exec (.portRetrainEnd port true) s = .next (s.setPort port { p with state := 2, nakWait := false, nakOut := none }))
    ∧ (p.state = 1 → ∃ t, exec (.portRetrainEnd port false) s = .next t ∧ (t.getPort port).state = 3 ∧ SameBytes s t
        ∧ ∀ k : Nat, k ≠ port → t.getPort k = s.getPort k)
    ∧ (∀ e k, s.txq[n]? = some e → s.maySend n e = true → s.choosePort e.hop e.frame.tc 1 credits = some k →
      s.classGoes credits k e.frame = true →
      ∃ t, exec (.frameSend n credits) s = .next t ∧ t.txq = s.txq.eraseIdx n
        ∧ (t.getPort k).lastFrame = some { e.frame with hdr := setFld e.frame.hdr 13 11 (e.frame.hops + 1) }
        ∧ (e.queue < 65536 → tblGet nat0 t.qflight e.queue = tblGet nat0 s.qflight e.queue + flightBytes e.frame)
        ∧ (∀ d, e.die = some d → t.mesh = meshRoute d (portDie k))
        ∧ SameBytes s t ∧ t.ops = s.ops)
    ∧ (f.wf = true → s.isHere f = false →
      (6 ≤ f.hops → exec (.frameForward f ⟨port, credits⟩) s = .next (match issuerOf f with
        | some m => s.discard.send (s.discard.replyFrame f m 6 stAccess) 65536 (portDie port)
        | none => s.discard))
      ∧ (∀ k, f.hops < 6 → s.choosePort f.dest f.tc (f.hops + 1) credits = some k → s.classGoes credits k f = true →
        ∃ t, exec (.frameForward f ⟨port, credits⟩) s = .next (t.addOd 0x2510 9 1)
          ∧ (t.getPort k).lastFrame = some { f with hdr := setFld f.hdr 13 11 (f.hops + 1) }
          ∧ (t.getPort k).rxStream = (s.getPort k).rxStream ∧ t.mesh = meshRoute (portDie port) (portDie k)
          ∧ SameBytes s t ∧ t.txq = s.txq))

/-- One frame that answers `f` has been queued behind those waiting. -/
def answered (s t : State) (f : Frame) (st : Nat) : Prop :=
  ∃ u : State, u.moduleId = s.moduleId ∧ u.time = s.time ∧ t.txq = (u.replyTo f f.src st).txq ∧ u.txq = s.txq

/-- PUT, ADD and SIGNAL frames that have come to their module (11 R255, R267 to R272, R276). -/
def Obligations.FramesWrite : Prop :=
  ∀ (f : Frame) (via : BitVec 16) (s : State),
    s.isHere f = true → s.inWindow f = true →
    let a := frameAccess f true f.payload.length
    let at_ := f.addr % 2 ^ 44 + f.foffset
    let core := f.addr % 2 ^ 44 / 2 ^ 32 % 512
    let loc := f.addr % 2 ^ 44 % 2 ^ 32 + f.foffset
    let own := isGroup f.dest = false ∧ f.sig = false
    (f.hasKind 0 = true → s.frameStatus f true f.payload.length = stOk →
      (f.addr / 2 ^ 44 = 1 → ∃ t, exec (.put f via .ok) s = .next t
        ∧ rdBytes t.stores (storeKey core loc) f.payload.length = f.payload
        ∧ SameBytesBut s t (storeKey core loc) f.payload.length ∧ (own → answered s t f stOk))
      ∧ (f.addr / 2 ^ 44 = 0 → f.sidecar = false → s.accessHeld a = none → ∃ t, exec (.put f via .ok) s = .next t
        ∧ t.lr = (s.keepHeaders (s.longWrite at_ f.payload (some (f.src, f.msg)))).lr
        ∧ (∀ (i : Nat) (hi : i < f.payload.length), headerFree s (at_ + i) → rdByte t.lr (at_ + i) = f.payload[i])
        ∧ (∀ k, (k < at_ ∨ at_ + f.payload.length ≤ k) → headerFree s k → rdByte t.lr k = rdByte s.lr k)
        ∧ t.stores = s.stores ∧ t.side = s.side ∧ t.imem = s.imem ∧ (own → answered s t f stOk)))
    ∧ (f.hasKind 0 = true → s.frameStatus f true f.payload.length ≠ stOk → s.accessHeld a = none →
      ∃ t, exec (.put f via .ok) s = .next t ∧ SameBytes s t ∧ (own → answered s t f (s.frameStatus f true f.payload.length)))
    ∧ (f.hasKind 3 = true → s.addStatus f = stOk → s.collimate = false →
      let e := addElem f.fmt
      let sum (m : List Byte) : List Byte := (addList f.fmt e (f.payload.length / e) m f.payload).1
      let off := (f.addr + f.foffset) % 2 ^ 44
      (f.addr / 2 ^ 44 = 1 → (f.addr + f.foffset) / 2 ^ 44 = 1 → ∃ t, exec (.addFrame f .ok) s = .next t
        ∧ (let k := storeKey (off / 2 ^ 32 % 512) (off % 2 ^ 32)
           let out := sum (s.rdLocal (off / 2 ^ 32 % 512) (off % 2 ^ 32) f.payload.length)
           rdBytes t.stores k out.length = out ∧ SameBytesBut s t k out.length) ∧ (own → answered s t f stOk))
      ∧ (f.addr / 2 ^ 44 = 0 → (f.addr + f.foffset) / 2 ^ 44 = 0 → s.accessHeld a = none → ∃ t, exec (.addFrame f .ok) s = .next t
        ∧ (let out := sum (s.rdLong off f.payload.length)
           rdBytes t.lr off out.length = out ∧ (∀ k, (k < off ∨ off + out.length ≤ k) → rdByte t.lr k = rdByte s.lr k))
        ∧ t.stores = s.stores ∧ t.side = s.side ∧ t.imem = s.imem ∧ (own → answered s t f stOk)))
    ∧ (f.hasKind 4 = true → s.frameStatus f true 0 = stOk → ∃ t, exec (.signal f via) s = .next t
        ∧ (t.getCore f.sigCore).ctrVal f.sigCtr = min (2 ^ 32 - 1) ((s.getCore f.sigCore).ctrVal f.sigCtr + f.total)
        ∧ (∀ n, n ≠ f.sigCore → t.getCore n = s.getCore n) ∧ SameBytes s t ∧ (isGroup f.dest = false → answered s t f stOk))

/-- Reads, answers, management frames and reserved kinds (11 R263, R267, R273, R276, 18 R415). -/
def Obligations.FramesReadAndAnswer : Prop :=
  ∀ (f : Frame) (s : State),
    (f.hasKind 1 = true → f.dest = s.moduleId → isGroup f.dest = false → s.inWindow f = true → s.accessStatus (getAccess f) = stOk → f.addr / 2 ^ 44 = 1 →
      let d := s.rdLocal (f.addr % 2 ^ 44 / 2 ^ 32 % 512) (f.addr % 2 ^ 44 % 2 ^ 32) f.total
      let g (p : Nat × List Byte) : Frame := s.mkFrame f.src 2 f.tc
        { msg := f.msg, addr := f.addr, total := d.length, foffset := p.1, packed := f.packed, sidecar := f.sidecar, fmt := stOk } p.2
      exec (.getReq f .ok) s = .next { s with txq := s.txq ++ (framePieces d).map fun p => ⟨g p, 65536, (g p).dest, some (s.frameDie f)⟩ })
    ∧ (f.hasKind 1 = true → isGroup f.dest = true → s.inWindow f = true → exec (.getReq f .ok) s = .next (s.replyTo f f.src stAccess))
    ∧ (∀ x, f.hasKind 2 = true → s.inWindow f = true → s.opOf f true = some x →
      ∃ t, exec (.getData f) s = .next t
        ∧ (x.core < 512 → x.pack = 0 →
            let k := storeKey x.core (x.laddr + f.foffset)
            rdBytes t.stores k (returnedBytes x f).length = returnedBytes x f ∧ SameBytesBut s t k (returnedBytes x f).length)
        ∧ (x.own = true ∨ x.moved + f.payload.length < wireLen x.pack x.len → t.ops = s.ops.map fun y =>
            if y.msg = x.msg ∧ y.core = x.core then ({ x.fold f.fmt with
              moved := x.moved + f.payload.length
              awaited := (if x.moved + f.payload.length ≥ wireLen x.pack x.len then 0 else x.awaited) } : Xfer) else y)
        ∧ (x.own = false → wireLen x.pack x.len ≤ x.moved + f.payload.length → ∀ y ∈ t.ops, ¬ (y.msg = x.msg ∧ y.core = x.core)))
    ∧ (∀ c, (c = .ack f ∧ f.hasKind 5 = true) ∨ (c = .nack f ∧ f.hasKind 6 = true) → f.dest = s.moduleId → s.inWindow f = true →
      (∀ x, s.opOf f false = some x →
        let n := if x.kind = .put ∨ x.kind = .add then ackBytes f else 0
        ∃ t, exec c s = .next t ∧ SameBytes s t
          ∧ (x.kind ≠ .get → x.own = true ∨ x.awaited ≠ 1 → x.awaited ≠ 0 → t.ops = s.ops.map fun y =>
              if y.msg = x.msg ∧ y.core = x.core then ({ x.fold f.fmt with
                awaited := x.awaited - 1
                moved := x.moved + (if isError f.fmt then 0 else n) } : Xfer) else y)
          ∧ (x.own = false → x.awaited = 1 → ∀ y ∈ t.ops, ¬ (y.msg = x.msg ∧ y.core = x.core))
          ∧ tblGet nat0 t.qflight x.queue = tblGet nat0 s.qflight x.queue - n)
      ∧ (∀ r, s.opOf f false = none → (isError f.fmt = true → s.opOf f true = none) →
        s.relays.find? (fun r => r.frame.msg == f.msg && r.frame.foffset == f.foffset && r.frame.total == f.total) = some r →
        let st := if isError r.status then r.status else if isError f.fmt ∨ f.fmt = stRecovered then f.fmt else r.status
        (r.awaited ≤ 1 → exec c s = .next (({ s with relays := s.relays.erase r } : State).replyTo r.frame r.via st))
        ∧ (1 < r.awaited → exec c s = .next { s with
            relays := s.relays.erase r ++ [{ r with awaited := r.awaited - 1, status := st }] })))
    ∧ (f.hasKind 10 = true → f.dest = s.moduleId → s.inWindow f = true →
      (¬ (f.tc = 3 ∧ s.allowed f.src = true) → exec (.mgmt f) s = .next (s.denial.reply f 6 stDenied))
      ∧ (f.tc = 3 → s.allowed f.src = true → mgmtSizeOk f = false → exec (.mgmt f) s = .next (s.reply f 6 stAccess))
      ∧ (f.tc = 3 → s.allowed f.src = true → mgmtSizeOk f = true → (mgmtRequest f).op ≠ 3 → (mgmtRequest f).op ≠ 4 →
        ∃ t, exec (.mgmt f) s = .next t ∧ t.dict.queue = s.dict.queue ++ [mgmtRequest f] ∧ t.txq = (s.reply f 5 stOk).txq ∧ SameBytes s t))
    ∧ (f.wf = true → 0xB ≤ f.kind → exec (.reservedKindDiscard f) s = .next (s.addOd 0x2510 0xA 1))

/-- The cut, what asks for it and what follows it (02 R50, 15 R353 to R358, 12 R297). -/
def Obligations.ShutterStops : Prop :=
  ∀ (s : State),
    (∀ (o : Origin) (w : BitVec 128) (c : Instr), c = .shutterArm o w ∨ c = .shutterCancel o w →
      s.originStatus o = stOk → s.shutterCheck o w = stOk →
      let kept := match s.armedCut with
        | some c => s.cuts.erase c
        | none => s.cuts
      let cut : Cut := ⟨s.time.boundaries + (shSweep w - s.time.sweep), BitVec.ofNat 16 (shContexts w), cutRegister⟩
      let fields (t : State) : Prop := shSweep t.shutter = shSweep w ∧ shContexts t.shutter = shContexts w
        ∧ t = { s with shutter := t.shutter, cuts := t.cuts, armedCut := t.armedCut, resp := t.resp }
      (shArm w = true → Accepted c s fun t => shState t.shutter = 1 ∧ t.cuts = kept ++ [cut] ∧ t.armedCut = some cut ∧ fields t)
      ∧ (shArm w = false → shCancel w = true → Accepted c s fun t => t.cuts = kept ∧ t.armedCut = none ∧ fields t
          ∧ shState t.shutter = (if s.armedCut.isSome then 0 else shState s.shutter))
      ∧ (shArm w = false → shCancel w = false → Accepted c s fun t => t.cuts = s.cuts ∧ t.armedCut = s.armedCut ∧ fields t
          ∧ shState t.shutter = shState s.shutter))
    ∧ (∀ a, s.time.tick = 1000 →
      let mask := s.activeMask &&& s.od 0x2700 6
      exec (.shutterInSample a) s = .next { s with
        power := { s.power with shutterIn := a }
        cuts := s.cuts ++ (if a = true ∧ mask % 2 ^ 16 ≠ 0 then [⟨s.time.boundaries + 1, BitVec.ofNat 16 mask, cutPin⟩] else []) })
    ∧ (∀ c0 r, dueCuts s.time.boundaries s.cuts = c0 :: r →
      (∀ c ∈ bitsOf (cutMask (c0 :: r)).toNat 16, s.isFirst c (eventKey (s.boundaryPoint c0.boundary) 1) = true) →
      let mask := (cutMask (c0 :: r)).toNat &&& s.activeMask
      ∃ t, exec .shutterCut s = .next t ∧ t.imem = s.imem ∧ t.side = s.side ∧ t.barriers = s.barriers
        ∧ t.time.sweep = s.time.sweep ∧ t.time.tick = s.time.tick ∧ t.time.boundaries = s.time.boundaries
        ∧ (∀ x ∈ bitsOf mask 16, (t.getCtx x).state = 2 ∧ (t.getCtx x).startAt = none ∧ (t.getCtx x).draining = true
            ∧ ∀ n ∈ s.coresOf x, (t.getCore n).run = .stopped)
        ∧ (∀ x, x ∉ bitsOf mask 16 → (t.getCtx x).state = (s.getCtx x).state ∧ (t.getCtx x).startAt = (s.getCtx x).startAt)
        ∧ (mask ≠ 0 → ∃ d, t.drains = s.drains ++ [d] ∧ d.boundary = c0.boundary ∧ d.contexts = BitVec.ofNat 16 mask))
    ∧ (∀ c cc, (s.drains.find? fun c => (bitsOf c.contexts.toNat 16).all fun x => !s.stillDrains x) = some c →
      let l := bitsOf c.contexts.toNat 16
      ∃ t, exec (.shutterDrainEnd cc) s = .next t ∧ t.drains = s.drains.erase c ∧ t.od 0x2700 2 = s.cutSweep c % 2 ^ 64
        ∧ t.od 0x2700 3 = (c.contexts.toNat * 2 ^ 16 + c.reason) % 2 ^ 64 ∧ t.od 0x2700 9 = s.cutAge c cc.toNat % 2 ^ 64
        ∧ (∀ x ∈ l, (t.getCtx x).draining = false
            ∧ (t.getCtx x).state = (if (s.getCtx x).destroyDue then 0 else (s.getCtx x).state)
            ∧ ∀ n ∈ s.coresOf x, (s.getCore n).run = .stopped → (t.getCore n).wait = none)
        ∧ (∀ x, x ∉ l → (t.getCtx x).state = (s.getCtx x).state ∧ (t.getCtx x).draining = (s.getCtx x).draining)
        ∧ (∀ n, (∀ x ∈ l, n ∉ s.coresOf x) → t.getCore n = s.getCore n))
    ∧ (∀ v : BitVec 8, v.toNat ≤ 1 → s.indexServed 0x2700 = true →
      ∃ t, exec (.outClear v) s = .next t ∧ t.resp.abort = 0 ∧ SameBytes s t ∧ t.cores = s.cores ∧ t.ctxs = s.ctxs
        ∧ t.power = (if v = 1 then { s.power with shutterOut := false } else s.power))

/-- COLLIMATE, full saves and RESUME (15 R338, R350, R351). -/
def Obligations.SavesAndResumes : Prop :=
  ∀ (s : State), s.quiescent = true → s.indexServed 0x2700 = true →
    (∀ v : BitVec 8, v.toNat ≤ 1 →
      (s.activeMask = 0 → ∃ t, exec (.collimate v) s = .next t ∧ t.resp.abort = 0 ∧ t.od 0x2700 1 = v.toNat ∧ SameBytes s t
        ∧ t.cores = s.cores ∧ t.ctxs = s.ctxs)
      ∧ (s.activeMask ≠ 0 → ∃ t, exec (.collimate v) s = .next t ∧ t.resp.abort = BitVec.ofNat 32 abState ∧ t.od 0x2700 1 = s.od 0x2700 1
        ∧ SameBytes s t))
    ∧ (∀ v : BitVec 64, fld v 59 44 = 0 → s.pageCtx (fld v 43 0 / 65536) = some (fld v 63 60) →
      (s.getCtx (fld v 63 60)).stepRun = false → (s.getCtx (fld v 63 60)).state ≠ 0 →
      ∃ t, exec (.saveRequest v) s = .next t ∧ t.resp.abort = 0 ∧ (t.getCtx (fld v 63 60)).saveReq = some (fld v 43 0)
        ∧ t.od 0x2700 4 = v.toNat ∧ SameBytes s t ∧ t.cores = s.cores ∧ ∀ n, n ≠ fld v 63 60 → t.getCtx n = s.getCtx n)
    ∧ (∀ (ctx : Fin 16) manifest rows off, (s.getCtx ctx).saveReq = some off → (s.dies.any fun d => d.2.shardQ.any fun e => e.2.1 == ctx.val || s.exportCtx e.1 == some ctx.val) = false →
      let rec_ := leBytes 128 (manifestHeader rows.length (s.getCtx ctx).lastCommit.toNat (s.versionOf ctx)).toNat ++ rows.flatMap fun r => leBytes 16 r.toNat
      ∃ t, exec (.fullSaveComplete ctx manifest rows) s = .next t ∧ (t.getCtx ctx).saveReq = none ∧ t.stores = s.stores ∧ t.side = s.side
        ∧ (∀ n, n ≠ ctx.val → t.getCtx n = s.getCtx n)
        ∧ (s.longOk (.ctx ctx) true manifest rec_.length = true → t.od 0x2700 0x1A = stOk ∧ rdBytes t.lr manifest rec_.length = rec_
          ∧ ∀ k, (k < manifest ∨ manifest + rec_.length ≤ k) → rdByte t.lr k = rdByte s.lr k)
        ∧ (s.longOk (.ctx ctx) true manifest rec_.length = false → t.od 0x2700 0x1A = stAccess ∧ t.lr = s.lr))
    ∧ (∀ (v : BitVec 8) shards map, v.toNat ≤ 15 → (s.getCtx v.toNat).state = 2 → (s.getCtx v.toNat).draining = false →
      ¬ (s.power.shutterIn = true ∧ (s.od 0x2700 6).testBit v.toNat = true) →
      ∃ t, exec (.resume v shards map) s = .next t ∧ t.resp.abort = 0 ∧ (t.getCtx v.toNat).state = 1 ∧ (t.getCtx v.toNat).stepRun = false
        ∧ (t.getCtx v.toNat).shards = [] ∧ swState (t.getCtx v.toNat).switch = 0 ∧ t.od 0x2700 5 = v.toNat
        ∧ (∀ n ∈ s.coresOf v.toNat, (t.getCore n).run = .idle ∧ (t.getCore n).sat = 0 ∧ ∀ k, (t.getCore n).ctrVal k = 0)
        ∧ (∀ n, n ≠ v.toNat → (t.getCtx n).desc = (s.getCtx n).desc) ∧ t.imem = s.imem ∧ t.side = s.side)

/-- Snapshots, trace banks and watches (17 R378, R382 to R388). -/
def Obligations.TracesAndWatches : Prop :=
  ∀ (o : Origin) (n : Fin 64) (s : State), s.originStatus o = stOk →
    let c := s.getCluster n
    let only (t : State) : Prop := (∃ x, t = { s with clusters := x, resp := t.resp }) ∧ ∀ m : Nat, m ≠ n → t.getCluster m = s.getCluster m
    (s.time.held = true → s.time.tick = 0 → s.time.sweep % s.od 0x2900 1 = 0 →
      ∃ t, exec .counterSnapshot s = .next t ∧ (∃ x, t = { s with cores := x })
        ∧ ∀ k, t.getCore k = if k < 512 then { s.getCore k with
            shadow := (s.getCore k).counts
            shadowSweep := BitVec.ofNat 64 s.time.sweep } else s.getCore k)
    ∧ (∀ w : BitVec 512, s.traceCheck n w = stOk →
      (flag w 231 = true → c.tState ≠ 1 → c.tState ≠ 2 → Accepted (.traceStart o n w) s fun t =>
        (t.getCluster n).tState = (if fld w 246 245 = 1 then 2 else if fld w 246 245 = 2 then 1 else 0)
        ∧ fld (t.getCluster n).traceBank 383 320 = 0 ∧ fld (t.getCluster n).traceBank 319 288 = 0
        ∧ fld (t.getCluster n).traceBank 511 448 = fld w 511 448 ∧ fld (t.getCluster n).traceBank 447 384 = fld w 447 384
        ∧ (t.getCluster n).traceBuf = (if fld w 246 245 = 1 then [syncWord s] else []) ∧ only t)
      ∧ (flag w 230 = true → c.tState = 1 → c.tMode = 2 → (fld c.traceBank 237 232).testBit 5 = true →
        Accepted (.traceTrigger o n w) s fun t => (t.getCluster n).tState = 2
          ∧ (∃ kept, (t.getCluster n).traceBuf = syncWord s :: traceWord (5 * 2 ^ 72) 10 10 (s.epochCc % 2 ^ 32) :: kept)
          ∧ t.cores = s.cores ∧ SameBytes s t)
      ∧ (flag w 230 = false → (c.tState = 1 ∨ c.tState = 2) → Accepted (.traceHalt o n w) s fun t =>
        (t.getCluster n).tState = 3 ∧ (t.getCluster n).traceBuf = []
          ∧ (c.traceBuf = [] ∨ flag c.traceBank 247 = true → ∀ m : Nat, m ≠ n → t.getCluster m = s.getCluster m)
          ∧ t.cores = s.cores ∧ t.ctxs = s.ctxs ∧ t.stores = s.stores))
    ∧ (c.tState = 2 → c.traceBufLost ≠ 0 → c.traceBuf.length + 2 ≤ 16384 →
      ∃ t, exec (.traceLossRecord n) s = .next t ∧ (t.getCluster n).traceBufLost = 0
        ∧ (t.getCluster n).traceBuf = c.traceBuf ++ [traceWord (c.traceBufLost % 2 ^ 32 * 2 ^ 48 + c.lossTime.toNat * 2 ^ 16) 10 11 s.epochCc, syncWord s]
        ∧ (t.getCluster n).traceBank = c.traceBank ∧ only t)
    ∧ (∀ w : BitVec 512, s.watchCheck n w = stOk →
      let old := s.watch n
      let others (t : State) : Prop := ∀ m : Nat, m ≠ n → t.watch m = s.watch m
      let frame (t : State) : Prop := ∃ x, t = { s with obs := x, resp := t.resp }
      (wState old ≠ 1 → wState old ≠ 2 → flag w 21 = true → flag w 20 = false → Accepted (.watchArm o n w) s fun t =>
        wState (t.watch n) = 1 ∧ fld (t.watch n) 383 320 = 0 ∧ fld (t.watch n) 63 32 = 0 ∧ wDest (t.watch n) = wDest w ∧ others t ∧ frame t)
      ∧ (wState old = 1 ∨ wState old = 2 → Accepted (.watchCancel o n w) s fun t =>
        t.watch n = setFld old 27 26 0 ∧ others t ∧ frame t))

/-- Recorder windows and the partition (17 R394 to R397). -/
def Obligations.RecorderWindowsClose : Prop :=
  ∀ (s : State),
    (∀ (o : Origin) (n : Fin 256) (w : BitVec 128), s.originStatus o = stOk → s.windowCheck n w = stOk →
      Accepted (.recorderWindow o n w) s fun t => t.window n = w ∧ tblGet nat0 t.obs.winCount n = 0 ∧ (∃ x, t = { s with obs := x, resp := t.resp })
        ∧ (∀ m : Nat, m ≠ n → t.window m = s.window m)
        ∧ (∀ ch, wnValid w = true → ch ∈ wnChannels w → (t.getChan ch).count = 0 ∧ (t.getChan ch).winStart = s.time.sweep
            ∧ (t.getChan ch).defn = (s.getChan ch).defn ∧ (t.getChan ch).seq = (s.getChan ch).seq)
        ∧ (∀ ch, wnValid w = false ∨ ch ∉ wnChannels w → t.getChan ch = s.getChan ch))
    ∧ (∀ n : Fin 256, wnValid (s.window n) = true → tblGet nat0 s.obs.winCount n > wnLength (s.window n) →
      ∃ t, exec (.windowClose n) s = .next t ∧ tblGet nat0 t.obs.winCount n = 0 ∧ (∀ m : Nat, t.window m = s.window m)
        ∧ (∀ ch ∈ wnChannels (s.window n), (t.getChan ch).count = 0 ∧ (t.getChan ch).seq = (s.getChan ch).seq + 1 ∧ (t.getChan ch).winStart = s.time.sweep)
        ∧ (∀ ch, ch ∉ wnChannels (s.window n) → t.getChan ch = s.getChan ch)
        ∧ SameBytes s t ∧ t.cores = s.cores
        ∧ (∀ ch, wnChannels (s.window n) = [ch] → s.od 0x2800 2 < spectrumFull → s.obs.staging = [] → 256 ≤ s.long.governor →
          t.obs.spectrum = (s.getChan ch).record ch (s.getChan ch).seq s.time.sweep true :: s.obs.spectrum))
    ∧ (s.quiescent = true → s.indexServed 0x2800 = true →
      ∃ t, exec (.spectrumClear 1) s = .next t ∧ t.resp.abort = 0 ∧ t.obs.spectrum = [] ∧ t.od 0x2800 1 = 0 ∧ t.od 0x2800 2 = 0 ∧ SameBytes s t)

/-- The object dictionary's requests (18 R402 to R418). -/
def Obligations.DictionaryServes : Prop :=
  ∀ (s : State),
    (∀ (o : Origin) (w : BitVec 64), s.originStatus o = stOk → mailCheck o 0x10 w = stOk →
      let frame (t : State) : Prop := ∃ d, t = { s with dict := d, resp := t.resp }
      (flag w 2 = true → s.dict.mbBusy = false → Accepted (.mailboxGo o w) s fun t =>
        t.dict.mbBusy = true ∧ t.dict.queue = s.dict.queue ++ [s.mailRequest] ∧ t.dict.od = s.dict.od ∧ frame t)
      ∧ (flag w 1 = true → (flag w 2 = false ∨ s.dict.mbBusy = true) → Accepted (.mailboxDoneClear o w) s fun t =>
        t.dict.mbDone = false ∧ t.dict.queue = s.dict.queue ∧ t.dict.mbBusy = s.dict.mbBusy ∧ t.dict.od = s.dict.od ∧ frame t))
    ∧ (∀ (b : Fin 2) (r : DictReq), s.busTakes b = true → s.dict.controller < 2 →
      ((s.bus b).state ≠ 2 → r.data.length ≤ 256 → ∃ t, exec (.usdoRequest b r) s = .next t
        ∧ t.dict.queue = s.dict.queue ++ [{ r with path := BitVec.ofNat 2 (b.val + 1) }]
        ∧ (t.bus b).session = some (r.tag.toNat, r.data.length) ∧ ∃ d, t = { s with dict := d })
      ∧ (∃ t, exec (.usdoTimeout b) s = .next t ∧ (t.bus b).session = none ∧ t.resp.abort = BitVec.ofNat 32 abTimeout
        ∧ (∀ r ∈ t.dict.queue, r.path.toNat ≠ b.val + 1) ∧ SameBytes s t ∧ t.cores = s.cores))
    ∧ (∀ r, s.served = some r → s.notServed r = false →
      (r.op = 1 → ∀ e n, s.reqEntry r = (n, some e) →
        let d := if (r.path = 0 ∨ r.path = 3) ∧ r.length = 0 then [] else s.entryBytes e
        ∃ t, exec .dictionaryRead s = .next t ∧ t.resp.abort = 0 ∧ t.resp.data = d ∧ t.dict.queue = s.dict.queue.tail ∧ SameBytes s t
          ∧ (∀ i k, i ≠ 0x2001 → i ≠ 0x2110 → k < 256 → t.od i k = s.od i k)
          ∧ (r.path = 0 → rdBytes t.dict.mbData 0 d.length = d ∧ t.dict.mbDone = true ∧ t.dict.mbBusy = false))
      ∧ (∀ ab, s.reqEntry r = (ab, none) →
        let refused (t : State) : Prop := t.resp.abort = BitVec.ofNat 32 ab ∧ t.dict.queue = s.dict.queue.tail ∧ SameBytes s t
          ∧ (∀ i k, i ≠ 0x2001 → i ≠ 0x2110 → k < 256 → t.od i k = s.od i k) ∧ t.cores = s.cores ∧ t.ctxs = s.ctxs
        (r.op ≠ 2 → ∃ t, exec .dictionaryRead s = .next t ∧ refused t) ∧ (r.op = 2 → ∃ t, exec .dictionaryWrite s = .next t ∧ refused t))
      ∧ (r.op = 2 → ∀ e n, s.reqEntry r = (n, some e) → waitsForRow e.key = false →
        let v := leNat (r.data.take r.length.toNat)
        ownWrite e.key v = none →
        let i := e.key / 256
        let k := e.key % 256
        let allowed := (e.acc = .rwp → s.present = true) ∧ (e.acc = .rwq → s.quiescent = true) ∧ rangeAbort e v = 0 ∧ s.ruleAbort i k v = 0
        ∃ t, exec .dictionaryWrite s = .next t ∧ t.dict.queue = s.dict.queue.tail ∧ SameBytes s t ∧ t.cores = s.cores ∧ t.ctxs = s.ctxs
          ∧ (allowed → t.resp.abort = 0 ∧ (i ≠ 0x1003 → isTensor i k = false → i ≠ 0x2001 → i ≠ 0x2110 → t.od i k = v % 2 ^ 64)
            ∧ ∀ j l, odKey j l ≠ e.key → j ≠ 0x2001 → j ≠ 0x2110 → l < 256 → t.od j l = s.od j l)
          ∧ (¬ allowed → ∀ j l, j ≠ 0x2001 → j ≠ 0x2110 → l < 256 → t.od j l = s.od j l)))
    ∧ (s.quiescent = true → s.indexServed 0x1010 = true → s.indexServed 0x1011 = true →
      (∃ t, exec (.storeParameters 0x65766173) s = .next t ∧ t.resp.abort = 0 ∧ t.dict.storedValid = true ∧ t.dict.loadDefaults = false
        ∧ t.dict.stored = (s.dict.od.filter fun e => storable e.1) ++ s.dict.tensors.map (fun e => (e.1 + storedTensors, e.2)) ∧ SameBytes s t)
      ∧ (∃ t, exec (.restoreDefaultParameters 0x64616F6C) s = .next t ∧ t.resp.abort = 0 ∧ t.dict.loadDefaults = true
        ∧ t.dict.stored = s.dict.stored ∧ SameBytes s t))

/-- CANopen FD on the two buses, the thermal warning and the takeover (18 R408 to R424). -/
def Obligations.CanBuses : Prop :=
  ∀ (b : Fin 2) (s : State),
    let other := 1 - b.val
    let dictOnly (t : State) : Prop := ∃ d, t = { s with dict := d }
    (s.busOn b = true → (s.bus b).state ≠ 2 → s.dict.controller < 2 → ((s.bus b).nmt ≠ 0 →
      (∀ c v, (c = .nmtStart b ∧ v = 5) ∨ (c = .nmtStop b ∧ v = 4) ∨ (c = .nmtEnterPreOperational b ∧ v = 127) →
        ∃ t, exec c s = .next t ∧ t.bus b = { s.bus b with nmt := v } ∧ t.bus other = s.bus other ∧ dictOnly t)
      ∧ (∀ c, c = .nmtResetCommunication b ∨ c = .nmtResetNode b →
        ∃ t, exec c s = .next t ∧ (t.bus b).nmt = 127 ∧ (t.bus b).queue = [] ∧ (t.bus b).session = none ∧ t.bus other = s.bus other ∧ dictOnly t)
      ∧ (∃ t, exec .heartbeat s = .next t ∧ (t.bus b).lastMsg = some ⟨0, 0x700 + s.power.nodeId.toNat, leBytes 1 (s.bus b).nmt⟩
        ∧ (t.bus b).queue = (s.bus b).queue ∧ dictOnly t))
      ∧ (∀ n : Fin 4, s.tpdoCob n < 2 ^ 31 → (s.bus b).nmt = 5 → (s.bus b).queue.length < 64 →
        ∃ t, exec (.tpdo n) s = .next t ∧ (t.bus b).queue = (s.bus b).queue ++ [⟨2, s.tpdoCob n, s.tpdoData n⟩]
          ∧ SameBytes s t ∧ t.cores = s.cores))
    ∧ exec (.classicalCanFrame b) s = .next s
    ∧ (∀ m r, (s.bus b).queue = m :: r → s.busTakes b = true → (s.bus b).state ≠ 2 → (s.bus b).bucket ≠ 0 →
      ∃ t, exec (.canTransmit b) s = .next t ∧ t.bus b = { s.bus b with
        queue := r
        bucket := (s.bus b).bucket - 1
        lastMsg := some m } ∧ t.bus other = s.bus other ∧ dictOnly t)
    ∧ (s.busOn b = true → (s.bus b).state ≠ 2 →
      ∃ t, exec (.busOff b) s = .next t ∧ (t.bus b).state = 2 ∧ flag t.dict.errReg 4 = true ∧ t.bus other = s.bus other ∧ dictOnly t)
    ∧ ((s.bus b).state = 2 → ∃ t, exec (.busOffRecovery b) s = .next t ∧ (t.bus b).state = 0 ∧ (t.bus other).state = (s.bus other).state
        ∧ ((s.bus other).state ≠ 2 → s.darkPorts = 0 → flag t.dict.errReg 4 = false) ∧ SameBytes s t ∧ t.cores = s.cores ∧ t.ctxs = s.ctxs)
    ∧ (∀ (temp : BitVec 16) (die : BitVec 8), let w : Int := s.od 0x2100 0xC
      (flag s.dict.errReg 3 = false → w ≤ temp.toInt → ∃ t, exec (.thermalWarning temp die) s = .next t ∧ flag t.dict.errReg 3 = true
        ∧ t.power.alerts.contains alThermal = true ∧ t.dict.history.head? = some 0xFF70 ∧ SameBytes s t ∧ t.cores = s.cores)
      ∧ (flag s.dict.errReg 3 = true → temp.toInt ≤ w - 200 → ∃ t, exec (.thermalWarning temp die) s = .next t ∧ flag t.dict.errReg 3 = false
        ∧ t.power.alerts.contains alThermal = false ∧ SameBytes s t ∧ t.cores = s.cores))
    ∧ (s.dict.controller = 0 → ∃ t, exec .takeover s = .next t ∧ t.dict.controller = 1 ∧ t.dict.standby = false ∧ t.dict.queue = []
        ∧ SameBytes s t ∧ t.cores = s.cores ∧ t.ctxs = s.ctxs)
    ∧ (s.dict.controller = 1 → ∃ t, exec .takeover s = .next t ∧ t.dict.controller = 2 ∧ SameBytes s t ∧ t.cores = s.cores ∧ t.ctxs = s.ctxs)

/-- The stages of a start-up (19 R425 to R430). -/
def Obligations.StartUpRuns : Prop :=
  ∀ (stage unit : Nat) (pass : Bool) (detail b e : BitVec 32) (s : State), s.stageDue stage unit = true →
    let l := s.stageLevel stage unit
    let next (t : State) : Prop := (t.boot.stage, t.boot.unit) =
      if unit + 1 < stageUnits stage then (stage, unit + 1) else if stage < 10 then (stage + 1, 0) else (11, 0)
    let records (r d bt et : Nat) : List JournalRec := ⟨s.boot.boot, et, s.resultDetail stage d, stage, r, l, unit⟩
      :: ⟨s.boot.boot, bt, 0, stage, 0, l, unit⟩ :: s.boot.journal
    let failed (c : Instr) (d bt et : Nat) : Prop :=
      (stageMandatory stage = true → (l = stageLast stage ∨ 8 ≤ s.boot.restarts) →
        ∃ t, exec c s = .next t ∧ t.boot.recovery = true ∧ t.boot.stage = stage ∧ t.boot.journal = records 2 d bt et
          ∧ (t.bus 0).nmt = 127 ∧ (t.bus 1).nmt = 127 ∧ SameBytes s t)
      ∧ (stageMandatory stage = true → l ≠ stageLast stage → s.boot.restarts < 8 →
        ∃ t, exec c s = .next t ∧ t.boot.boot = s.boot.boot + 1 ∧ t.boot.restarts = s.boot.restarts + 1 ∧ t.boot.stage = 1 ∧ t.boot.unit = 0
          ∧ t.boot.journal = records 2 d bt et ∧ t.stores = [] ∧ t.imem = [] ∧ t.lr = [] ∧ t.side = [] ∧ t.ctxs = [] ∧ t.cores = [])
      ∧ (stageMandatory stage = false → ∃ t, exec c s = .next t ∧ next t ∧ t.boot.journal = records 2 d bt et ∧ SameBytes s t)
    (pass = true → e.toNat - b.toNat ≤ stageLimit stage → (stage = 7 → l = 0) → (stage = 9 → (s.slotAt l).isSome = true) →
      ∃ t, exec (.startupStage stage unit pass detail b e) s = .next t ∧ next t ∧ t.boot.journal = records 1 detail.toNat b.toNat e.toNat
        ∧ (stage = 1 → t.power.powered = true) ∧ (stage = 10 → (t.bus 0).nmt = 5 ∧ (t.bus 1).nmt = 5)
        ∧ (∀ k, stage = 9 → s.slotAt l = some k → t.boot.running = k) ∧ SameBytes s t)
    ∧ ((stage = 7 → l = 0) → (pass = false ∨ stageLimit stage < e.toNat - b.toNat ∨ (stage = 9 ∧ s.slotAt l = none)) →
      failed (.startupStage stage unit pass detail b e) detail.toNat b.toNat e.toNat)
    ∧ (stage = 7 → l = 1 → ∃ t, exec (.startupStage stage unit pass detail b e) s = .next t ∧ next t ∧ SameBytes s t
      ∧ ∃ d, t.boot.journal = ⟨s.boot.boot, e.toNat, d, 7, 3, 1, unit⟩ :: ⟨s.boot.boot, b.toNat, 0, 7, 0, 1, unit⟩ :: s.boot.journal)
    ∧ ((stage = 7 → l = 0) → failed (.stageTimeLimit e) 0 (e.toNat - stageLimit stage) e.toNat)

/-- Firmware images, their activation and the handover (19 R431 to R435). -/
def Obligations.ImagesAndHandovers : Prop :=
  ∀ (s : State),
    let still (t : State) : Prop := SameBytes s t ∧ t.cores = s.cores ∧ t.ctxs = s.ctxs
    (∀ (version : BitVec 32) verified moving charged mv,
      let r := s.updateReason version.toNat verified moving charged mv
      (r = 0 → ∃ t, exec (.update 1 version verified moving charged mv) s = .next t ∧ t.resp.abort = 0
        ∧ t.boot.updating = some (s.targetSlot, version.toNat) ∧ t.slotVersionOf s.targetSlot = 0
        ∧ (∀ k, k ≠ s.targetSlot → t.slotVersionOf k = s.slotVersionOf k) ∧ still t)
      ∧ (r ≠ 0 → ∃ t, exec (.update 1 version verified moving charged mv) s = .next t ∧ t.resp.abort = BitVec.ofNat 32 abState
        ∧ t.od 0x2020 8 = r ∧ t.boot = s.boot ∧ still t))
    ∧ (∀ k v, s.boot.updating = some (k, v) →
      (∃ t, exec (.updateComplete true) s = .next t ∧ t.boot.updating = none ∧ t.slotVersionOf k = v ∧ t.od 0x2020 8 = 0
        ∧ (s.boot.recovery = false → t.boot.activate = some (k, s.time.boundaries) ∧ t.boot.nextBoot = s.boot.nextBoot)
        ∧ (s.boot.recovery = true → t.boot.activate = none ∧ t.boot.nextBoot = some k) ∧ still t)
      ∧ (∃ t, exec (.updateComplete false) s = .next t ∧ t.boot.updating = none ∧ t.slotVersionOf k = s.slotVersionOf k ∧ t.od 0x2020 8 = 5
        ∧ t.boot.activate = s.boot.activate ∧ still t))
    ∧ (∀ v : BitVec 8, v.toNat ≤ 2 → s.slotVersionOf v.toNat ≠ 0 →
      (s.slotVersionOf v.toNat < s.slotVersionOf s.boot.running → s.present = true) →
      ∃ t, exec (.activateSlot v) s = .next t ∧ t.resp.abort = 0 ∧ t.boot.activate = some (v.toNat, s.time.boundaries) ∧ t.od 0x2020 9 = v.toNat ∧ still t)
    ∧ (∀ v : BitVec 8, v.toNat ≤ 2 → (s.slotVersionOf v.toNat = 0 ∨ (s.slotVersionOf v.toNat < s.slotVersionOf s.boot.running ∧ s.present = false)) →
      ∃ t, exec (.activateSlot v) s = .next t ∧ t.resp.abort ≠ 0 ∧ t.boot = s.boot ∧ still t)
    ∧ (∀ k b, s.boot.activate = some (k, b) → s.boot.handover = none →
      (b < s.time.boundaries → s.time.tick = 0 → s.handoverIdle = true →
        ∃ t, exec .handover s = .next t ∧ t.boot.handover = some (s.slotVersionOf s.boot.running, k)
          ∧ t.boot.handoverBlock = s.handoverWord k 1 ∧ t.boot.running = s.boot.running ∧ t.served = none ∧ still t)
      ∧ (b + 100000 ≤ s.time.boundaries → ∃ t, exec .handoverAbandon s = .next t ∧ t.boot.activate = none ∧ t.boot.nextBoot = some k
        ∧ t.dict = s.dict ∧ still t))
    ∧ (∀ v k m, s.boot.handover = some (v, k) → ∃ t, exec (.handoverEnd m) s = .next t ∧ t.boot.handover = none ∧ t.boot.activate = none
        ∧ t.boot.running = k ∧ fld t.boot.handoverBlock 7 0 = 0 ∧ (m = true → t.dict = s.dict ∧ t.boot.journal = s.boot.journal) ∧ still t)

/-- Presence and the entries it opens (18 R406, 19 R428, R432, R439, R440). -/
def Obligations.OwnerAndPresence : Prop :=
  ∀ (s : State),
    let still (t : State) : Prop := SameBytes s t ∧ t.cores = s.cores ∧ t.ctxs = s.ctxs ∧ t.ports = s.ports
    let done (c : Instr) (P : State → Prop) : Prop := ∃ t, exec c s = .next t ∧ t.resp.abort = 0 ∧ P t ∧ still t
    let refused (c : Instr) : Prop := ∃ t, exec c s = .next t ∧ t.resp.abort = BitVec.ofNat 32 abPresence ∧ t.boot = s.boot
      ∧ t.od 0x2010 5 = s.od 0x2010 5 ∧ still t
    (s.indexServed 0x2010 = true → s.present = true →
      (∀ v : BitVec 8, v.toNat ≤ 1 → done (.ownerLock v) fun t => t.od 0x2010 5 = v.toNat ∧ t.boot = s.boot)
      ∧ (s.quiescent = true → done (.ownerTransfer 0x54524E53) fun t => t.boot = { s.boot with transfer := true })
      ∧ done (.debugUnlock 1) (fun t => t.boot = { s.boot with debug := true }))
    ∧ (s.present = true →
      (∀ v : BitVec 8, s.boot.revoked ≤ v.toNat → v.toNat ≤ 3 → done (.keysRevoked v) fun t => t.boot = { s.boot with revoked := v.toNat })
      ∧ done (.journalReset 1) (fun t => t.boot = { s.boot with
          journal := []
          boot := 0 }))
    ∧ (s.present = false → (∀ v, refused (.keysRevoked v) ∧ refused (.journalReset v))
      ∧ (s.indexServed 0x2010 = true → (∀ v, refused (.ownerLock v) ∧ refused (.debugUnlock v)) ∧ (∀ v, refused (.ownerTransfer v))
        ∧ (s.boot.tamper = false → ∀ v, refused (.tamperClear v))))
    ∧ (s.indexServed 0x2010 = true → (∀ n, s.boot.tamper = true → s.boot.tamperPress = some n → n ≤ 60000 →
        done (.tamperClear 1) fun t => t.boot.tamper = false ∧ t.boot.tamperPress = none ∧ t.power.alerts.contains alTamper = false)
      ∧ (s.boot.tamper = true → s.boot.tamperPress = none → ∀ v, refused (.tamperClear v)))
    ∧ (∀ ms jumper,
      let shown : Bool := decide (1000 ≤ ms ∧ ms ≤ 5000) && jumper && !s.boot.sealOpen
      ∃ t, exec (.presence ms jumper) s = .next t ∧ t.boot.jumper = jumper
        ∧ t.boot.presentAt = (if shown = true ∧ s.boot.tamper = false then some 0 else s.boot.presentAt)
        ∧ t.boot.tamperPress = (if shown = true ∧ s.boot.tamper = true then some 0 else s.boot.tamperPress) ∧ t.dict = s.dict ∧ still t)
    ∧ (∀ ms closed, ∃ t, exec (.tamper ms closed) s = .next t ∧ t.boot.sealOpen = !closed ∧ t.boot.tamperPress = none
        ∧ (10 < ms → t.boot.tamper = true ∧ t.power.alerts.contains alTamper = true) ∧ (ms ≤ 10 → t.boot.tamper = s.boot.tamper)
        ∧ t.dict = s.dict ∧ still t)

/-- Power and the Aperture's trips (19 R441, R442, 21 R459 to R464). -/
def Obligations.PowerAndTrips : Prop :=
  ∀ (s : State),
    let still (t : State) : Prop := SameBytes s t ∧ t.cores = s.cores ∧ t.ctxs = s.ctxs
    let dead (t : State) : Prop := t.power.good = false ∧ t.power.powered = false ∧ t.power.holdup = true ∧ t.stores = [] ∧ t.imem = []
      ∧ t.lr = [] ∧ t.side = [] ∧ t.cores = [] ∧ t.ctxs = [] ∧ t.boot.slotVer = s.boot.slotVer ∧ t.boot.revoked = s.boot.revoked
      ∧ t.dict.stored = s.dict.stored ∧ (∃ l, t.boot.journal = l ++ s.boot.journal)
    (∀ ma us, 1000 * ilimAmps s.power.ilim.toNat < ma → 2000 ≤ us →
      ∃ t, exec (.currentTrip ma us) s = .next t ∧ dead t ∧ t.power.off = true ∧ t.power.tripCause = some 1)
    ∧ (∀ die temp, 11500 ≤ temp → ∃ t, exec (.thermalTrip die temp) s = .next t ∧ dead t ∧ t.power.off = true ∧ t.power.tripCause = some 2)
    ∧ (s.power.good = true → ∃ t, exec .inputLoss s = .next t ∧ dead t ∧ t.power.off = s.power.off ∧ t.power.tripCause = s.power.tripCause)
    ∧ exec .holdupEnd s = .next { s with power := { s.power with holdup := false } }
    ∧ exec .enShortMate s = .next { s with power := { s.power with mated := true } }
    ∧ (∀ (id : BitVec 7) (ilim : BitVec 2) ms, s.power.mated = true → s.power.good = false → (s.power.off = true → 1000 ≤ ms) →
      ∃ t, exec (.pwrGoodAssert id ilim ms) s = .next t ∧ t.power.good = true ∧ t.power.off = false ∧ t.power.tripCause = none
        ∧ t.boot.boot = s.boot.boot + 1 ∧ t.boot.stage = 1 ∧ t.boot.unit = 0 ∧ t.boot.restarts = 0 ∧ t.boot.recovery = false
        ∧ t.stores = [] ∧ t.lr = [] ∧ t.cores = [] ∧ t.ctxs = []
        ∧ (t.power.nodeId, t.power.ilim) = (if 1000 ≤ ms then (id, ilim) else (s.power.nodeId, s.power.ilim))
        ∧ t.boot.journal = (match s.power.tripCause with
            | some c => ⟨s.boot.boot + 1, 0, c, 1, 2, 0, 0⟩ :: s.boot.journal
            | none => s.boot.journal))
    ∧ (∀ mv : BitVec 16, (inBand mv.toNat = true → s.inputOut = false → ∃ t, exec (.voltageExcursion mv) s = .next t ∧ t.inputOut = true
          ∧ t.dict.history.head? = some 0xFF71 ∧ (s.od 0x2100 0xD + 1 < 2 ^ 32 → t.od 0x2100 0xD = s.od 0x2100 0xD + 1) ∧ still t)
        ∧ (inRange mv.toNat = true → s.inputOut = true → ∃ t, exec (.inputRangeReturn mv) s = .next t ∧ t.inputOut = false ∧ still t))
    ∧ (∀ (p : Fin 48), let off (v : Bool) : State := s.setPort p { s.getPort p with laserOff := v }
        (∀ us, ∃ t, exec (.laserInterlock p true us) s = .next t ∧ (∃ x, t = { s with ports := x })
          ∧ ∀ k, t.getPort k = if k / 2 = p.val / 2 then { s.getPort k with laserOff := true } else s.getPort k)
        ∧ (∀ us, exec (.laserInterlock p false us) s = .next (if 100 ≤ us then off true else s))
        ∧ ((s.getPort p).laserOff = true → exec (.laserProbePulse p true) s = .next (off false) ∧ exec (.laserProbePulse p false) s = .next s))

/-- Attestation (19 R436 to R438); the codes and the order of messages are SPDM's own (log 15). -/
def Obligations.AttestationAnswers : Prop :=
  ∀ (s : State),
    let still (t : State) : Prop := SameBytes s t ∧ t.cores = s.cores ∧ t.ctxs = s.ctxs ∧ t.dict = s.dict
    let tells (c : Instr) (code : Byte) (P : State → Prop) : Prop :=
      ∃ t body, exec c s = .next t ∧ t.resp.status = 0 ∧ t.resp.data = [0x13, code] ++ body ∧ P t ∧ still t
    let error (c : Instr) (e : Byte) (P : State → Prop) : Prop :=
      ∃ t, exec c s = .next t ∧ t.resp.data = [0x13, 0x7F, e, 0] ∧ t.boot.spdm = s.boot.spdm ∧ P t ∧ still t
    let ready : Prop := 3 ≤ s.boot.spdm
    tells .getVersion 4 (fun t => t.boot.spdm = 1 ∧ t.boot.session = 0 ∧ t.boot.pair = false ∧ t.boot.large = none)
    ∧ (s.boot.spdm ≠ 0 → tells .getCapabilities 0x61 fun t => t.boot.spdm = 2 ∧ t.boot.pair = false)
    ∧ (∀ l : List Nat, 2 ≤ s.boot.spdm → (∀ a ∈ spdmAlgorithms, a ∈ l) → tells (.negotiateAlgorithms l) 0x63 fun t => t.boot.spdm = 3)
    ∧ (ready → tells .getDigests 1 (fun t => t.boot.spdm = s.boot.spdm)
      ∧ (∀ slot off len, off < Config.spdmLength (0x200 + slot) → ∃ t, exec (.getCertificate slot off len) s = .next t
          ∧ t.resp.data = [0x13, 2] ++ ((List.range (Nat.min len (Config.spdmLength (0x200 + slot) - off))).map fun i => Config.spdmByte (0x200 + slot) (off + i)) ∧ still t)
      ∧ (∀ slot nonce, tells (.challenge slot nonce) 3 fun t => t.boot.pair = true)
      ∧ (∀ signed block nonce d, s.measurements block = some d → ∃ t sig, exec (.getMeasurements signed block nonce) s = .next t
          ∧ t.resp.data = [0x13, 0x60] ++ d ++ sig ∧ t.boot.pair = signed ∧ (signed = false → sig = []) ∧ still t)
      ∧ (∀ x, tells (.keyExchange x) 0x64 fun t => t.boot.session = 1))
    ∧ (s.boot.session = 1 → tells (.finish true) 0x65 (fun t => t.boot.session = 2) ∧ error (.finish false) 6 (fun t => t.boot.session = 0))
    ∧ (s.boot.session = 2 → tells .endSession 0x6C (fun t => t.boot.session = 0))
    ∧ (s.boot.spdm = 0 → error .getCapabilities 4 fun _ => True)
    ∧ (s.boot.spdm < 2 → ∀ l, error (.negotiateAlgorithms l) 4 fun _ => True)
    ∧ (¬ ready → error .getDigests 4 (fun _ => True) ∧ (∀ a b c, error (.getCertificate a b c) 4 fun _ => True) ∧ (∀ a b, error (.challenge a b) 4 fun _ => True)
      ∧ (∀ a b c, error (.getMeasurements a b c) 4 fun _ => True) ∧ (∀ x, error (.keyExchange x) 4 fun _ => True))
    ∧ (∀ seq last data, seq = 0 ∨ seq = s.boot.chunkNo → tells (.chunkSend seq last data) 5 fun t =>
        t.boot.chunks = (if seq = 0 then data else s.boot.chunks ++ data) ∧ t.boot.chunkNo = (if last then 0 else seq + 1))
    ∧ (∀ code n seq size, s.boot.large = some (code, n) → seq * size < n → tells (.chunkGet seq size) 6 fun t =>
        t.boot.large = (if n ≤ (seq + 1) * size then none else some (code, n)))
    ∧ (∀ code : BitVec 8, (code = 1 → s.boot.pair = true → error (.vendorDefinedRequest 3 Config.pciVendor code) 0xF fun t => t.boot.large = some (0x7E, 16224) ∧ t.boot.pair = false)
      ∧ (code ≠ 1 ∨ s.boot.pair = false → error (.vendorDefinedRequest 3 Config.pciVendor code) 1 fun t => t.boot.pair = false ∧ t.boot.large = s.boot.large))

/-- Link keys and resets (20 R446, R457, R458); the TDISP moves and the end of the session are the family's (logs 82, 84). -/
def Obligations.LinkKeysAndResets : Prop :=
  ∀ (s : State),
    let answered (t : State) (h : HostIf) : Prop := ∃ b r n c, t = { s with
      host := h
      boot := b
      resp := r
      time := { s.time with shownCc := c }
      freeCtr := n }
    let refused (c : Instr) : Prop := ∃ t, exec c s = .next t ∧ answered t s.host ∧ t.resp.data = [0x13, 0x7F, 4, 0]
    (s.boot.session = 2 → ∀ (stream : Nat) (fn : Fin 17), stream ≤ 16 → ∃ t, exec (.ideKm stream fn) s = .next t
        ∧ answered t { s.host with ideKeys := (s.host.ideKeys.filter fun k => k.1 != stream) ++ [(stream, fn.val)] }
        ∧ t.resp.data.take 2 = [0x13, 0x7E])
    ∧ (s.boot.session ≠ 2 → ∀ (stream : Nat) (fn : Fin 17), refused (.ideKm stream fn))
    ∧ (∀ (fn : Fin 16),
        let moves (k : TdispKind) (n : Nat) : Prop := s.boot.session = 2 → ∃ t, exec (.tdispRequest fn k) s = .next t
          ∧ answered t { s.host with tdi := tblSet nat0 s.host.tdi fn n } ∧ t.tdi fn = n ∧ t.resp.data.take 2 = [0x13, 0x7E]
        (s.tdi fn = 0 → moves .lock 1) ∧ (s.tdi fn = 1 → moves .start 2) ∧ moves .stop 0
        ∧ (s.tdi fn ≠ 0 ∨ s.boot.session ≠ 2 → refused (.tdispRequest fn .lock))
        ∧ (s.tdi fn ≠ 1 ∨ s.boot.session ≠ 2 → refused (.tdispRequest fn .start))
        ∧ (s.boot.session ≠ 2 → refused (.tdispRequest fn .stop)))
    ∧ (∀ c ∈ [Instr.perstN, .flrPhysicalFunction], ∃ t, exec c s = .next t ∧ t = { s with
          ops := s.ops.filter fun x => x.core != 512
          host := State.reset.host
          boot := { s.boot with
            spdm := 0
            session := 0
            pair := false
            chunks := []
            chunkNo := 0
            large := none
            transcript := [] } }
        ∧ (∀ i, dwValid (tblGet w128z t.host.windows i) = false) ∧ (∀ m, t.allowed m = false)
        ∧ (∀ q, hqEnable (t.getQ q).cfg = false ∧ (t.getQ q).cmds = []))
    ∧ (∀ (fn : Fin 16), ∃ t qs, exec (.flr fn) s = .next t ∧ t = { s with
          ops := s.ops.filter fun x => !(x.core == 512 && (x.laddr / 16 == fn.val && !(s.getQ x.laddr).byPf))
          host := { s.host with queues := qs }
          cuts := s.cuts ++ [⟨s.time.boundaries + 1, BitVec.ofNat 16 (2 ^ fn.val), 1⟩] }
        ∧ (∀ q, q / 16 = fn.val → (s.getQ q).byPf = false → hqEnable (t.getQ q).cfg = false ∧ (t.getQ q).cmds = [] ∧ (t.getQ q).toRead = [])
        ∧ (∀ q, q / 16 ≠ fn.val ∨ (s.getQ q).byPf = true → t.getQ q = s.getQ q))

/-- Registers, BAR0, BAR2 and DMA windows (03 R80, 20 R445 to R450, R457). -/
def Obligations.RegistersAndBars : Prop :=
  ∀ (s : State),
    let only (t : State) (h : HostIf) (st : Nat) : Prop := ∃ r, t = { s with
      host := h
      resp := r } ∧ t.resp.status = BitVec.ofNat 8 st
    let sees (fn : Nat) : HostIf := (s.seen fn).host
    let pf (off : Nat) (v : W64) : Instr := .registerWrite .host true off (leBytes 8 v.toNat) true
    let fault (fn st off : Nat) : HostIf := { sees fn with
      hostFault := tblSet w64z (sees fn).hostFault fn (BitVec.ofNat 64 (fn * 2 ^ 48 + st * 2 ^ 40 + off)) }
    (∀ (o : Origin) (core : Fin 512) (v : W64) (ide : Bool), s.originStatus o = stOk →
      (∃ t, exec (.registerWrite o false (0x08000020 + core * 0x20000) (leBytes 8 v.toNat) ide) s = .next t
        ∧ t.resp.status = 0 ∧ (t.getCore core).startSweep = v
        ∧ (s.staged = [] → ∃ x, t = { s with
          cores := x
          resp := t.resp } ∧ ∀ n : Nat, n ≠ core → t.getCore n = s.getCore n))
      ∧ (v.toNat < 2048 → ∃ t, exec (.registerWrite o false (0x08000028 + core * 0x20000) (leBytes 8 v.toNat) ide) s = .next t
        ∧ t.resp.status = 0 ∧ (t.getCore core).startTick.toNat = v.toNat
        ∧ (s.staged = [] → ∃ x, t = { s with
          cores := x
          resp := t.resp } ∧ ∀ n : Nat, n ≠ core → t.getCore n = s.getCore n)))
    ∧ (∀ (o : Origin) (off : Nat) (d : List Byte) (ide : Bool), s.originStatus o ≠ stOk →
      ∃ t x, exec (.registerWrite o false off d ide) s = .next t ∧ t = { s with
          dict := x
          resp := t.resp } ∧ t.resp.status = BitVec.ofNat 8 (s.originStatus o))
    ∧ (∀ (off : Nat) (d : List Byte), barShape off d.length = false →
      ∃ t, exec (.registerWrite .host true off d true) s = .next t ∧ only t s.host urStatus)
    ∧ (∀ (off : Nat) (v : W64), s.pfListed off = false → ∃ t, exec (pf off v) s = .next t ∧ only t s.host urStatus)
    ∧ (∀ v : W64, ∃ t, exec (pf 0x10 v) s = .next t ∧
        (v.toNat % s.bar2Size 0 = 0 → only t { s.host with bar2Base := tblSet w64z s.host.bar2Base 0 v } stOk)
        ∧ (v.toNat % s.bar2Size 0 ≠ 0 → only t (fault 0 stAccess 0x10) stAccess))
    ∧ (∀ v : W64, ∃ t, exec (pf 0x18 v) s = .next t ∧ (v.toNat ≤ 9 → only t { s.host with ctlWindow := v.toNat } stOk)
        ∧ (9 < v.toNat → only t (fault 0 stAccess 0x18) stAccess))
    ∧ (∀ (i : Nat) (v : W64), i < 768 → ∃ t a, exec (pf (0x2000 + 8 * i) v) s = .next t ∧ only t { s.host with allow := a } stOk
        ∧ (∀ k, k < 64 → t.allowed (64 * i + k) = v.getLsbD k) ∧ (∀ m, m / 64 ≠ i → t.allowed m = s.allowed m))
    ∧ (∀ (c : Nat) (v : W64), c < 16 → ∃ t, exec (pf (0x4000 + 8 * c) v) s = .next t ∧
        (s.frozen c = false → fld v 63 56 = 0xFF → only t { s.host with eventMap := tblSet eventMapD s.host.eventMap c v } stOk)
        ∧ (s.frozen c = false → fld v 63 56 ≠ 0xFF → only t (fault 0 stAccess (0x4000 + 8 * c)) stAccess)
        ∧ (s.frozen c = true → t.host.eventMap = s.host.eventMap ∧ t.tdi c = 3 ∧ t.resp.status = BitVec.ofNat 8 stDenied
          ∧ t.cuts = s.cuts ++ [⟨s.time.boundaries + 1, BitVec.ofNat 16 (2 ^ c), 1⟩]))
    ∧ (∀ (i : Nat) (w : BitVec 128), i < 64 → fld w 39 0 = 0 → dwFn w ≤ 16 → s.windowFrozen w = false
        → s.windowFrozen (tblGet w128z s.host.windows i) = false →
        ∃ t x c n, exec (.registerWrite .host true (windowAt i) (leBytes 16 w.toNat) true) s = .next t ∧ t = { s with
          host := { s.host with
            windows := tblSet w128z s.host.windows i w
            words := x }
          time := { s.time with shownCc := c }
          resp := t.resp
          freeCtr := n } ∧ t.resp.status = 0)
    ∧ (∀ (n : Fin 16) (v : W64), s.fnRefused (n + 1) true = false → s.frozen n = false →
        ∃ t, exec (.registerWrite (.vf n) true 0 (leBytes 8 v.toNat) true) s = .next t ∧
        (v.toNat % (s.seen (n + 1)).bar2Size (n + 1) = 0 →
          only t { sees (n + 1) with bar2Base := tblSet w64z (sees (n + 1)).bar2Base (n + 1) v } stOk)
        ∧ (v.toNat % (s.seen (n + 1)).bar2Size (n + 1) ≠ 0 → only t (fault (n + 1) stAccess 0) stAccess))
    ∧ (∀ (i : Fin 64) (w : BitVec 128), let old := tblGet w128z s.host.windows i
        (∃ t, exec (.dmaWindow 0 i w true) s = .next t
          ∧ (fld w 39 0 = 0 → dwFn w ≤ 16 → s.windowFrozen old = false → s.windowFrozen w = false →
              only t { s.host with windows := tblSet w128z s.host.windows i w } stOk)
          ∧ (fld w 39 0 ≠ 0 ∨ 16 < dwFn w → only t (fault 0 stAccess (windowAt i)) stAccess)
          ∧ (fld w 39 0 = 0 → dwFn w ≤ 16 → s.windowFrozen old = true ∨ s.windowFrozen w = true → t.host.windows = s.host.windows
            ∧ t.resp.status = BitVec.ofNat 8 stDenied ∧ t.tdi ((if s.windowFrozen old then dwFn old else dwFn w) - 1) = 3))
        ∧ (∀ (fn : Fin 17) (ide : Bool), fn.val ≠ 0 → ∃ t, exec (.dmaWindow fn i w ide) s = .next t ∧ only t (sees fn) urStatus))
    ∧ (∀ (fn : Fin 17) (off len : Nat) (d : List Byte) (ide : Bool), let a := s.bar2Base fn + off
        (s.bar2Ok fn ide false off len = false → ∀ hw, ∃ t, exec (.bar2Read fn off ⟨len, hw⟩ ide) s = .next t ∧ only t (sees fn) urStatus)
        ∧ (s.bar2Ok fn ide true off d.length = false → ∃ t, exec (.bar2Write fn off d ide) s = .next t ∧ only t (sees fn) urStatus)
        ∧ (s.bar2Ok fn ide false off len = true → s.heldAt a len = none → ∃ t, exec (.bar2Read fn off ⟨len, .ok⟩ ide) s = .next t
            ∧ (t.resp.status, t.resp.data) = (if s.readPoison a len then (BitVec.ofNat 8 stPoison, (List.range len).map poisonByte)
                else (0, s.rdLong a len)) ∧ SameBytes s t ∧ t.cores = s.cores ∧ t.ctxs = s.ctxs ∧ t.host = sees fn)
        ∧ (s.bar2Ok fn ide true off d.length = true → s.heldAt a d.length = none → ∃ t, exec (.bar2Write fn off d ide) s = .next t
            ∧ t.resp.status = 0 ∧ t.rdLong a d.length = d ∧ (∀ k, k < a ∨ a + d.length ≤ k → rdByte t.lr k = rdByte s.lr k)
            ∧ t.stores = s.stores ∧ t.side = s.side ∧ t.imem = s.imem ∧ t.cores = s.cores ∧ t.ctxs = s.ctxs ∧ t.host = sees fn))

/-- A command of a queue has started, on a window, and is done with a status and a byte count. -/
def cmdShows (t : State) (q : Nat) (c : HostCmd) (w : Option Nat) (st n : Nat) : Prop :=
  { c with started := true, win := w, done := some (st, n) } ∈ (t.getQ q).cmds

/-- The access of a host command's data (20 R453). -/
def hostAccess (q : Nat) (c : HostCmd) (write : Bool) : Access :=
  { remote := none, who := .ctx (q / 16), tc := 0, write := write, addr := (seAddr c.entry).toNat % 2 ^ 48, pos := 0,
    len := seLen c.entry, total := seLen c.entry, side := false, op := none }

/-- An entry that is done with ACCESS_FAULT as it is read: a reserved bit, or an operation that Table 20-6 does not list. -/
def entryBad (e : BitVec 512) : Bool := fld e 311 0 != 0 || !([1, 2, 3].contains (seOp e))

/-- How many entries are read while `n` more commands may run; a wrong one does not run. -/
def readCount : Nat → List (BitVec 512) → Nat
  | _, [] => 0
  | 0, _ :: _ => 0
  | n + 1, e :: r => readCount (if entryBad e then n + 1 else n) r + 1

/-- The operation of a command's data inside the package, with its status so far. -/
def hostPart (q : Nat) (c : HostCmd) (read : Bool) (data : List Byte) (poisoned : Bool) : Xfer :=
  { hostXfer q c (if read then .get else .put) (if read then [] else padTo (seLen c.entry) data) with
    status := if !read && poisoned then stPoison else 0 }

/-- Host queues (20 R451 to R456) and package beats (12 R471). -/
def Obligations.HostQueuesRun : Prop :=
  ∀ (s : State) (q : Fin 256),
    let h := s.getQ q
    let others (t : State) : Prop := ∀ n : Nat, n ≠ q → t.getQ n = s.getQ n
    let host (t : State) (fn : Nat) : Prop := ∃ r x f, t = { s with
        host := { (s.seen fn).host with
          queues := x
          hostFault := f }
        resp := r } ∧ others t
    (∀ (fn : Fin 17) (w : BitVec 256) (ide : Bool), s.fnRefused fn ide = false → (s.seen fn).queueReach fn q = true →
      s.frozen (q / 16) = false → fld w 90 0 = 0 →
      let u := s.seen fn
      (u.enableStatus fn q w = stOk ↔ (1 ≤ hqSqLog w ∧ hqSqLog w ≤ 12 ∧ 1 ≤ hqCqLog w ∧ hqCqLog w ≤ 12 ∧ hqVector w / 128 = q / 16
          ∧ (s.dmaWindow fn (hqSq w) (64 * 2 ^ hqSqLog w) false).isSome = true ∧ (s.dmaWindow fn (hqCq w) (16 * 2 ^ hqCqLog w) true).isSome = true))
      ∧ ∃ t, exec (.queueEnable fn q w ide) s = .next t ∧ host t fn ∧
        (hqEnable w = true → hqEnable h.cfg = false → u.enableStatus fn q w = stOk →
          t.getQ q = { HostQ.init with cfg := w, byPf := decide (fn.val = 0), nread := h.nread } ∧ t.resp.status = 0)
        ∧ (hqEnable w = true → hqEnable h.cfg = false → u.enableStatus fn q w ≠ stOk → t.getQ q = h
          ∧ (tblGet w64z t.host.hostFault fn).toNat / 2 ^ 48 = fn ∧ t.resp.status ≠ 0)
        ∧ (hqEnable w = true → hqEnable h.cfg = true → t.getQ q = h ∧ t.resp.status ≠ 0)
        ∧ (hqEnable w = false → t.getQ q = { h with cfg := w } ∧ t.resp.status = 0))
    ∧ (∀ (fn : Fin 17) (v : BitVec 64) (es : List (BitVec 512)) (ide : Bool), s.fnRefused fn ide = false → (s.seen fn).queueReach fn q = true →
      let l := h.toRead ++ es.take ((v.toNat + h.sqSize - h.sqTail) % h.sqSize)
      (hqEnable h.cfg = false → ∃ t, exec (.sqTailDoorbell fn q v es ide) s = .next t ∧ host t fn ∧ t.getQ q = h)
      ∧ (hqEnable h.cfg = true → h.sqSize ≤ v.toNat → ∃ t, exec (.sqTailDoorbell fn q v es ide) s = .next t ∧ host t fn
          ∧ t.getQ q = { h with cfg := setFlag h.cfg 92 false } ∧ t.resp.status = BitVec.ofNat 8 stAccess)
      ∧ (hqEnable h.cfg = true → v.toNat < h.sqSize → h.full = false →
          (∀ i, i = h.sqHead ∨ i < h.sqSize → (s.dmaWindow (h.fn q) (hqSq h.cfg + 64 * i) 64 false).isSome = true) →
          (∀ e ∈ l, seOp e = 3 ∨ seLen e ≠ 0) →
          ∃ t, exec (.sqTailDoorbell fn q v es ide) s = .next t ∧ host t fn ∧ (t.getQ q).sqTail = v.toNat
            ∧ (t.getQ q).cmds.map (fun c => (c.entry, c.done)) = h.cmds.map (fun c => (c.entry, c.done))
                ++ (l.take (readCount (16 - h.running) l)).map (fun e => (e, if entryBad e then some (stAccess, 0) else none))
            ∧ (t.getQ q).toRead = l.drop (readCount (16 - h.running) l)))
    ∧ (∀ (fn : Fin 17) (v : BitVec 64) (ide : Bool), s.fnRefused fn ide = false → (s.seen fn).queueReach fn q = true → hqEnable h.cfg = true →
      (v.toNat < h.cqSize → ∃ t, exec (.cqHeadDoorbell fn q v ide) s = .next t ∧ (t.getQ q).cqHead = v.toNat ∧ (t.getQ q).cqTail = h.cqTail
          ∧ (t.getQ q).cfg = h.cfg ∧ SameBytes s t)
      ∧ (h.cqSize ≤ v.toNat → ∃ t, exec (.cqHeadDoorbell fn q v ide) s = .next t ∧ host t fn ∧ t.getQ q = { h with cfg := setFlag h.cfg 92 false }))
    ∧ (∀ (fn : Fin 17) (w : BitVec 256) (v : BitVec 64) (es : List (BitVec 512)) (ide : Bool),
      s.fnRefused fn ide = true ∨ (s.seen fn).queueReach fn q = false →
      ∀ c ∈ [Instr.queueEnable fn q w ide, .sqTailDoorbell fn q v es ide, .cqHeadDoorbell fn q v ide],
        exec c s = .next ((s.seen fn).status urStatus))
    ∧ (∀ (data : List Byte) (poisoned : Bool), h.next 1 = none → exec (.toModule q data poisoned) s = .next s)
    ∧ (∀ hw, h.next 2 = none → exec (.toHost ⟨q, hw⟩) s = .next s)
    ∧ (∀ (c : HostCmd) (data : List Byte) (poisoned : Bool) (go : Instr) (k : Bool) (hw : HwEvent),
      (go = .toModule q data poisoned ∧ h.next 1 = some c ∧ k = false) ∨ (go = .toHost ⟨q, hw⟩ ∧ h.next 2 = some c ∧ k = true) →
      c.done = none →
      (s.cmdWindow h q c.entry k = none → ∃ t, exec go s = .next t ∧ cmdShows t q c none stDenied 0 ∧ SameBytes s t ∧ t.ops = s.ops
          ∧ (s.od 0x2110 8 + 1 < 2 ^ 32 → t.od 0x2110 8 = s.od 0x2110 8 + 1))
      ∧ (∀ w, s.cmdWindow h q c.entry k = some w → gaSpace (seAddr c.entry) = 2 → h.byPf = false →
          ∃ t, exec go s = .next t ∧ cmdShows t q c (some w) stDenied 0 ∧ SameBytes s t ∧ t.ops = s.ops)
      ∧ (∀ w, s.cmdWindow h q c.entry k = some w → s.ownEntry c.entry = true → (∀ y ∈ s.ops, y.msg ≠ hostMsg q c.seq) →
          gaSpace (seAddr c.entry) = 1 → ∃ t, exec go s = .next t ∧ SameBytes s t ∧ t.ops = s.ops ++ [hostPart q c k data poisoned]
            ∧ { c with started := true, win := some w } ∈ (t.getQ q).cmds)
      ∧ (∀ w, s.cmdWindow h q c.entry k = some w → s.ownEntry c.entry = true → gaSpace (seAddr c.entry) = 0 → hw = .ok →
          s.accessStatus (hostAccess q c (!k)) = stOk → s.accessHeld (hostAccess q c (!k)) = none →
          (∀ y ∈ s.ops, y.msg ≠ hostMsg q c.seq ∧ (y.kind = .fence → y.queue ≠ 65536)) →
          (∀ e ∈ s.long.unmapWait, e.2.msg ≠ some (hostMsg q c.seq)) →
          let off := (seAddr c.entry).toNat % 2 ^ 44
          let n := seLen c.entry
          (k = true → ∃ t, exec go s = .next t ∧ SameBytes s t ∧
            (if s.readPoison off n then t.host.hostEp = true ∧ t.host.hostOut = (List.range n).map poisonByte ∧ cmdShows t q c (some w) stPoison n
             else t.host.hostOut = s.rdLong off n ∧ t.host.hostEp = false ∧ cmdShows t q c (some w) stOk n))
          ∧ (k = false → seSig c.entry = false → ∃ t, exec go s = .next t ∧ cmdShows t q c (some w) (if poisoned then stPoison else stOk) n ∧
              (∀ (i : Nat) (hi : i < n), headerFree s (off + i) → rdByte t.lr (off + i) = (padTo n data).getD i 0) ∧
              (∀ a, a < off ∨ off + n ≤ a → headerFree s a → rdByte t.lr a = rdByte s.lr a) ∧ t.stores = s.stores
               ∧ t.side = s.side ∧ t.imem = s.imem)))
    ∧ (∀ c, h.next 3 = some c → c.done = none →
      let earlier := h.cmds.takeWhile fun x => x.seq != c.seq
      ((∀ x ∈ earlier, x.done.isSome = true) → ∃ t, exec (.fence q) s = .next t ∧ cmdShows t q c none stOk 0 ∧ others t ∧ t.ops = s.ops ∧ SameBytes s t)
      ∧ ((∃ x ∈ earlier, x.done = none) → exec (.fence q) s = .next s))
    ∧ (∀ c l, h.cmds = c :: l →
      (c.done = none → exec (.hostCommandComplete q) s = .next s)
      ∧ (∀ st n, c.done = some (st, n) → (h.full = true → exec (.hostCommandComplete q) s = .next s)
        ∧ (h.full = false → (s.dmaWindow (h.fn q) (hqCq h.cfg + 16 * h.cqTail) 16 true).isSome = true →
          let e := completionEntry n (seTag c.entry) h.sqHead h.phase st
          let tail := (h.cqTail + 1) % h.cqSize
          ∃ t, exec (.hostCommandComplete q) s = .next t ∧ (t.getQ q).lastCompletion = some e ∧ (t.getQ q).cqTail = tail
            ∧ (t.getQ q).phase = (if tail = 0 then !h.phase else h.phase) ∧ (t.getQ q).cqHead = h.cqHead ∧ t.host.hostOut = leBytes 16 e.toNat
            ∧ (hqIrq h.cfg = true → hqVector h.cfg ∈ t.host.msixPend) ∧ SameBytes s t
            ∧ (h.toRead = [] → (t.getQ q).cmds = l ∧ others t))))
    ∧ (∀ v : Fin 2048, (v.val ∈ s.host.msixReady → v.val ∉ s.host.msixSent → flag (s.msixEntry v) 96 = false →
        exec (.msixMessage v) s = .next { s with host := { s.host with
          msixReady := s.host.msixReady.filter fun x => x != v.val
          msixSent := s.host.msixSent ++ [v.val] } })
      ∧ (v.val ∉ s.host.msixReady ∨ v.val ∈ s.host.msixSent ∨ flag (s.msixEntry v) 96 = true → exec (.msixMessage v) s = .next s))
    ∧ (∀ addr : BitVec 64, let p := addr.toNat / 4096
      let under := ∃ e ∈ s.host.queues, ∃ c ∈ e.2.cmds, c.started = true ∧ c.done = none ∧ seHost c.entry / 4096 ≤ p ∧ p * 4096 < seHost c.entry + seLen c.entry
      (under → exec (.atsInvalidation addr) s = .next s)
      ∧ (¬ under → ∃ t r, exec (.atsInvalidation addr) s = .next t ∧ p ∉ t.host.atc ∧ t = { s with
          host := { s.host with atc := s.host.atc.filter fun x => x != p }
          resp := r }))
    ∧ (∀ (msg : BitVec 48) (x : Xfer), s.beatOp msg.toNat = some x → s.accessHeld (s.ownAccess x 0 x.ownTotal) = none →
      (∀ e ∈ s.long.unmapWait, e.2.msg ≠ some x.msg) →
      let off := x.ownAddr % 2 ^ 44
      let core := off / 2 ^ 32 % 512
      let at_ := off % 2 ^ 32 + x.ownPos
      let left := x.ownTotal - x.ownPos
      let n := x.beat
      let moves (t : State) : Prop := exec (.packageBeat msg .ok) s = .next t ∧ t.mesh = meshRoute (issuerDie x.core) (s.accessDie x.ownAddr)
      let waits (t : State) : Prop := n < left → { x with
        ownPos := x.ownPos + n
        moved := x.moved + n } ∈ t.ops
      (x.kind = .put → x.sig = false → s.accessStatus (s.ownAccess x x.ownPos left) = stOk →
        (x.ownAddr / 2 ^ 44 = 1 → n = min 256 left ∧ ∃ t, moves t ∧ waits t
          ∧ t.rdLocal core at_ n = (x.data.drop x.ownPos).take n ∧ SameBytesBut s t (storeKey core at_) n)
        ∧ (x.ownAddr / 2 ^ 44 = 0 → x.side = false → x.ownPos = 0 → ∃ t, moves t
          ∧ (∀ (i : Nat) (hi : i < x.data.length), headerFree s (off + i) → rdByte t.lr (off + i) = x.data[i])
          ∧ (∀ a, a < off ∨ off + x.data.length ≤ a → headerFree s a → rdByte t.lr a = rdByte s.lr a) ∧ t.stores = s.stores ∧ t.side = s.side ∧ t.imem = s.imem))
      ∧ (x.kind = .get → x.ownAddr / 2 ^ 44 = 1 → s.accessStatus (s.ownAccess x x.ownPos n) = stOk → n = min 256 left
        ∧ (x.core = 512 → ∃ t, moves t ∧ waits t ∧ SameBytes s t ∧ t.host.hostOut = s.rdLocal core at_ n ∧ t.host.hostEp = false)
        ∧ (x.core < 512 → x.pack = 0 → ∃ t, moves t ∧ waits t ∧ t.rdLocal x.core (x.laddr + x.ownPos) n = s.rdLocal core at_ n
          ∧ SameBytesBut s t (storeKey x.core (x.laddr + x.ownPos)) n)))
    ∧ (∀ (msg : BitVec 48), s.beatOp msg.toNat = none → exec (.packageBeat msg .ok) s = .next s)

/-- A step runs the front command; an empty queue idles (log 6). -/
def Obligations.StepRunsTheFrontCommand : Prop :=
  ∀ s : State, (∀ (c : Instr) (q : List Instr), s.pending = c :: q → step s = exec c (s.rest q))
    ∧ (s.pending = [] → step s = .next s)

/-- What reset leaves (11 Table 11-5, 12 Table 12-3, 14 Tables 14-2 and 14-3, 20 Tables 20-4 and 20-5; log 4). -/
def Obligations.ResetIsSafe : Prop :=
  let s := State.reset
  s.Safe ∧ s.pending = [] ∧ s.time.held = false ∧ s.time.source = .unlocked
    ∧ (∀ n, fld (s.getCtx n).desc 343 342 = 0 ∧ flag (s.getCtx n).desc 341 = false ∧ (s.getCtx n).curSlot = none)
    ∧ (∀ n v, slotState ((s.getCtx n).getSlot v) = 0 ∧ slotRefs ((s.getCtx n).getSlot v) = 0)
    ∧ (∀ n, (s.getCore n).run = .idle)
    ∧ (∀ n, fld (s.barrier n) 245 243 = 0 ∧ fld (s.barrier n) 335 320 = 0xC000)
    ∧ (∀ n, fld (s.binding n) 107 106 = 2 ∧ flag (s.binding n) 101 = true ∧ fld (s.binding n) 100 89 = 16)
    ∧ (∀ fn a n w, s.dmaWindow fn a n w = none)
    ∧ (∀ id, s.allowed id = false)
    ∧ (∀ n, flag (s.getQ n).cfg 92 = false)

/-- The invariant that every step keeps. -/
def Obligations.StepKeepsSafe : Prop := ∀ s t : State, s.Safe → step s = .next t → t.Safe

/-- The 128-bit instruction words of Table 03-5, and their bytes in instruction memory (03 R66). -/
def Obligations.InstructionWordsRoundTrip : Prop :=
  (∀ i : Insn, decodeInsn (encodeInsn i) = i)
    ∧ (∀ w : W128, encodeInsn (decodeInsn w) = w)
    ∧ (∀ (i : Insn) (s : State) (core k : Nat),
      rdImem s.imem (core * 65536 + k * 16) 16 = leBytes 16 (encodeInsn i).toNat → s.insnAt core k = i)

/-- RELEASE (14 R317), after a switch whose point has passed (14 R320). -/
def Obligations.ReleaseCountsDown : Prop :=
  ∀ (o : Origin) (ctx : Fin 16) (w : BitVec 64) (s : State), s.originStatus o = stOk →
    let n := fld w 1 0
    let s1 := s.switchSeen ctx
    let x := (s1.getCtx ctx).getSlot n
    let state := fld x 51 50
    let refs := fld x 95 64
    (refs = 0 ∨ state = 0 ∨ state = 1 → exec (.release o ctx w) s = .next (s.status stAccess))
    ∧ (refs ≠ 0 → (state = 2 ∨ state = 3) → fld w 63 2 = 0 → Accepted (.release o ctx w) s fun t =>
        fld ((t.getCtx ctx).getSlot n) 95 64 = refs - 1
        ∧ (state = 2 ∨ 1 < refs → (t.getCtx ctx).getSlot n = setFld x 95 64 (refs - 1))
        ∧ (∀ u, u ≠ n → (t.getCtx ctx).getSlot u = (s1.getCtx ctx).getSlot u) ∧ OnlyCtx s1 t ctx)

/-- The alignment delays (02 R57). -/
def Obligations.AlignmentDelaysAreBounded : Prop :=
  ∀ (s : State) (r : DictReq) (k : Nat), (k = 5 ∨ k = 6) → s.served = some r → s.notServed r = false →
    r.op = 2 → r.rsv = 0 → r.index.toNat = 0x2200 → r.sub.toNat = k → r.length.toNat = 2 → 2 ≤ r.data.length →
    s.indexServed 0x2200 = true → s.quiescent = true →
    let v := leNat (r.data.take 2)
    ∃ t, exec .dictionaryWrite s = .next t ∧ t.dict.queue = s.dict.queue.tail ∧ SameBytes s t ∧ t.cores = s.cores ∧ t.ctxs = s.ctxs
      ∧ (4095 < v → t.resp.abort = 0x06090031 ∧ t.od 0x2200 5 = s.od 0x2200 5 ∧ t.od 0x2200 6 = s.od 0x2200 6)
      ∧ (v ≤ 4095 → t.resp.abort = 0 ∧ t.od 0x2200 k = v ∧ ∀ j, j ≠ k → j < 256 → t.od 0x2200 j = s.od 0x2200 j)
end

