-- ==== Sys2Proof/Laws/Field.lean ====
section
/-!
SUPPORT. The laws of the fields of a word: what a field reads as after one is written.
-/

namespace Sys2Proof.Machine

/-- The parts of a number at a field: what lies above it, the field, what lies below it. -/
theorem nat_parts (x lo len : Nat) :
    x = 2 ^ lo * (2 ^ len * (x >>> (lo + len)) + (x >>> lo) % 2 ^ len) + x % 2 ^ lo := by
  have h1 : 2 ^ lo * (x / 2 ^ lo) + x % 2 ^ lo = x := Nat.div_add_mod x (2 ^ lo)
  have h2 : 2 ^ len * (x / 2 ^ lo / 2 ^ len) + x / 2 ^ lo % 2 ^ len = x / 2 ^ lo := Nat.div_add_mod (x / 2 ^ lo) (2 ^ len)
  rw [Nat.shiftRight_eq_div_pow, Nat.shiftRight_eq_div_pow, Nat.pow_add, ← Nat.div_div_eq_div_mul, h2]
  exact h1.symm

/-- The number that `setFld` writes, in parts. -/
theorem setFld_parts (x lo len v : Nat) :
    x - (x >>> lo) % 2 ^ len * 2 ^ lo + v % 2 ^ len * 2 ^ lo
      = 2 ^ lo * (2 ^ len * (x >>> (lo + len)) + v % 2 ^ len) + x % 2 ^ lo := by
  have h := nat_parts x lo len
  generalize x >>> (lo + len) = q at h ⊢
  generalize (x >>> lo) % 2 ^ len = f at h ⊢
  generalize x % 2 ^ lo = r at h ⊢
  generalize v % 2 ^ len = u
  subst h
  rw [Nat.mul_add, Nat.mul_add, Nat.mul_comm f, Nat.mul_comm u]
  omega

/-- A bit of the number that `setFld` writes. -/
theorem setFld_testBit (x lo len v i : Nat) :
    (x - (x >>> lo) % 2 ^ len * 2 ^ lo + v % 2 ^ len * 2 ^ lo).testBit i
      = if i < lo then x.testBit i else if i < lo + len then v.testBit (i - lo) else x.testBit i := by
  rw [setFld_parts, Nat.testBit_two_pow_mul_add _ (Nat.mod_lt _ (Nat.two_pow_pos lo))]
  by_cases h1 : i < lo
  · rw [if_pos h1, if_pos h1, Nat.testBit_mod_two_pow, decide_eq_true h1, Bool.true_and]
  · rw [if_neg h1, if_neg h1, Nat.testBit_two_pow_mul_add _ (Nat.mod_lt _ (Nat.two_pow_pos len))]
    by_cases h2 : i < lo + len
    · rw [if_pos (by omega), if_pos h2, Nat.testBit_mod_two_pow, decide_eq_true (by omega), Bool.true_and]
    · rw [if_neg (by omega), if_neg h2, Nat.testBit_shiftRight]
      congr 1
      omega

/-- A bit of a word with a field written. -/
theorem getLsbD_setFld {n : Nat} (w : BitVec n) (hi lo v i : Nat) :
    (setFld w hi lo v).getLsbD i
      = (decide (i < n) && if i < lo then w.getLsbD i else if i < lo + (hi + 1 - lo) then v.testBit (i - lo) else w.getLsbD i) := by
  unfold setFld fldN
  rw [BitVec.getLsbD_ofNat, setFld_testBit]
  rfl

/-- A bit of a field. -/
theorem fld_testBit {n : Nat} (w : BitVec n) (hi lo i : Nat) :
    (fld w hi lo).testBit i = (decide (i < hi + 1 - lo) && w.getLsbD (lo + i)) := by
  unfold fld fldN
  rw [Nat.testBit_mod_two_pow, Nat.testBit_shiftRight]
  rfl

/-- A field that was written reads as what was written into it. -/
theorem fld_setFld_same {n : Nat} (w : BitVec n) {hi lo : Nat} (v : Nat) (h : hi < n) :
    fld (setFld w hi lo v) hi lo = v % 2 ^ (hi + 1 - lo) := by
  apply Nat.eq_of_testBit_eq
  intro i
  rw [fld_testBit, getLsbD_setFld, Nat.testBit_mod_two_pow]
  by_cases hi' : i < hi + 1 - lo
  · rw [decide_eq_true hi', decide_eq_true (by omega), if_neg (by omega), if_pos (by omega), Nat.add_sub_cancel_left]
    rfl
  · rw [decide_eq_false hi']; rfl

/-- A field apart from the one that was written reads as before. -/
theorem fld_setFld_apart {n : Nat} (w : BitVec n) {hi lo a b : Nat} (v : Nat) (h : a < lo ∨ hi < b) :
    fld (setFld w hi lo v) a b = fld w a b := by
  apply Nat.eq_of_testBit_eq
  intro i
  rw [fld_testBit, fld_testBit, getLsbD_setFld]
  by_cases hi' : i < a + 1 - b
  · by_cases hn : b + i < n
    · rw [decide_eq_true hn, Bool.true_and]
      by_cases h1 : b + i < lo
      · rw [if_pos h1]
      · rw [if_neg h1, if_neg (by omega)]
    · rw [decide_eq_false hn, Bool.false_and, BitVec.getLsbD_of_ge _ _ (by omega)]
  · rw [decide_eq_false hi']; rfl

/-- A bit apart from the field that was written. -/
theorem flag_setFld_apart {n : Nat} (w : BitVec n) {hi lo b : Nat} (v : Nat) (h : b < lo ∨ hi < b) :
    flag (setFld w hi lo v) b = flag w b := by
  unfold flag
  rw [getLsbD_setFld]
  by_cases hn : b < n
  · rw [decide_eq_true hn, Bool.true_and]
    by_cases h1 : b < lo
    · rw [if_pos h1]
    · rw [if_neg h1, if_neg (by omega)]
  · rw [decide_eq_false hn, Bool.false_and, BitVec.getLsbD_of_ge _ _ (by omega)]

/-- A bit inside the field that was written. -/
theorem flag_setFld_in {n : Nat} (w : BitVec n) {hi lo b : Nat} (v : Nat) (h : b < n) (hl : lo ≤ b) (hh : b ≤ hi) :
    flag (setFld w hi lo v) b = v.testBit (b - lo) := by
  unfold flag
  rw [getLsbD_setFld, decide_eq_true h, if_neg (by omega), if_pos (by omega), Bool.true_and]

end Sys2Proof.Machine
end

