-- ==== Sys2Proof/Laws/Table.lean ====
section
/-!
SUPPORT. Laws of the sparse tables and of the memories built on them: a read after a write of the same key gives the
value written, a write leaves every other key alone, and every operation keeps the canonical form.
-/

namespace Sys2Proof.Machine

variable {α : Type}

theorem tblGet_del_same (d : Nat → α) (t : Tbl α) (k : Nat) : tblGet d (tblDel t k) k = d k := by
  induction t with
  | nil => rfl
  | cons e r ih =>
    obtain ⟨k', v'⟩ := e
    by_cases h : k' = k
    · simpa [tblDel, h] using ih
    · have h' : ¬ k = k' := fun e => h e.symm
      simpa [tblDel, h, h', tblGet] using ih

theorem tblGet_del_other (d : Nat → α) (t : Tbl α) {k j : Nat} (hj : j ≠ k) : tblGet d (tblDel t k) j = tblGet d t j := by
  induction t with
  | nil => rfl
  | cons e r ih =>
    obtain ⟨k', v'⟩ := e
    by_cases h : k' = k
    · have h' : ¬ j = k' := by omega
      simpa [tblDel, h, h', tblGet, hj] using ih
    · have ih' : tblGet d (List.filter (fun e => e.1 != k) r) j = tblGet d r j := ih
      by_cases hjk : j = k' <;> simp [tblDel, h, tblGet, hjk]
      simpa [hjk] using ih'

variable [DecidableEq α]

/-- A read of the key just written gives the value written. -/
@[simp] theorem tblGet_set_same (d : Nat → α) (t : Tbl α) (k : Nat) (v : α) : tblGet d (tblSet d t k v) k = v := by
  induction t with
  | nil => by_cases h : v = d k <;> simp [tblSet, tblGet, h]
  | cons e r ih =>
    obtain ⟨k', v'⟩ := e
    by_cases h : k' < k
    · have h' : ¬ k = k' := by omega
      simp [tblSet, h, tblGet, h', ih]
    · by_cases hv : v = d k
      · simp [tblSet, h, hv, tblGet_del_same]
      · simp [tblSet, h, hv, tblGet]

/-- A write leaves every other key alone. -/
theorem tblGet_set_other (d : Nat → α) (t : Tbl α) {k j : Nat} (v : α) (hj : j ≠ k) :
    tblGet d (tblSet d t k v) j = tblGet d t j := by
  induction t with
  | nil => by_cases h : v = d k <;> simp [tblSet, tblGet, h, hj]
  | cons e r ih =>
    obtain ⟨k', v'⟩ := e
    by_cases h : k' < k
    · by_cases hjk : j = k' <;> simp [tblSet, h, tblGet, hjk]
      simpa [hjk] using ih
    · by_cases hv : v = d k
      · simp [tblSet, h, hv, tblGet_del_other d _ hj]
      · simp only [tblSet, h, hv, if_false, tblGet, hj]
        exact tblGet_del_other d _ hj

theorem tblGet_set (d : Nat → α) (t : Tbl α) (k j : Nat) (v : α) :
    tblGet d (tblSet d t k v) j = if j = k then v else tblGet d t j := by
  by_cases h : j = k
  · subst h; simp
  · simp [h, tblGet_set_other d t v h]

theorem tblGet_upd (d : Nat → α) (t : Tbl α) (k j : Nat) (f : α → α) :
    tblGet d (tblUpd d t k f) j = if j = k then f (tblGet d t k) else tblGet d t j := tblGet_set d t k j _

/-! The canonical form -/

theorem tblWfFrom_mono (d : Nat → α) {lo hi : Nat} {t : Tbl α} (h : lo ≤ hi) (hw : tblWfFrom d hi t = true) :
    tblWfFrom d lo t = true := by
  cases t with
  | nil => rfl
  | cons e r =>
    obtain ⟨k, v⟩ := e
    simp only [tblWfFrom, Bool.and_eq_true, decide_eq_true_eq] at hw ⊢
    exact ⟨⟨by omega, hw.1.2⟩, hw.2⟩

/-- A selection of a canonical table is canonical. -/
theorem tblWfFrom_filter (d : Nat → α) (p : Nat × α → Bool) {lo : Nat} {t : Tbl α} (hw : tblWfFrom d lo t = true) :
    tblWfFrom d lo (t.filter p) = true := by
  induction t generalizing lo with
  | nil => rfl
  | cons e r ih =>
    obtain ⟨k, v⟩ := e
    simp only [tblWfFrom, Bool.and_eq_true, decide_eq_true_eq] at hw
    by_cases hp : p (k, v)
    · simp only [List.filter, hp, tblWfFrom, Bool.and_eq_true, decide_eq_true_eq]
      exact ⟨hw.1, ih hw.2⟩
    · simp only [List.filter, hp]
      exact tblWfFrom_mono d (by omega) (ih hw.2)

theorem tblWfFrom_del (d : Nat → α) {lo k : Nat} {t : Tbl α} (hk : lo ≤ k) (hw : tblWfFrom d k t = true) :
    tblWfFrom d (k + 1) (tblDel t k) = true := by
  cases t with
  | nil => rfl
  | cons e r =>
    obtain ⟨k', v'⟩ := e
    simp only [tblWfFrom, Bool.and_eq_true, decide_eq_true_eq] at hw
    by_cases h : k' = k
    · subst h
      have : tblDel ((k', v') :: r) k' = r.filter fun e => e.1 != k' := by simp [tblDel]
      rw [this]
      exact tblWfFrom_filter d _ hw.2
    · refine tblWfFrom_filter d _ ?_
      simp only [tblWfFrom, Bool.and_eq_true, decide_eq_true_eq]
      exact ⟨⟨by omega, hw.1.2⟩, hw.2⟩

theorem tblWfFrom_set (d : Nat → α) {lo k : Nat} {t : Tbl α} (v : α) (hk : lo ≤ k) (hw : tblWfFrom d lo t = true) :
    tblWfFrom d lo (tblSet d t k v) = true := by
  induction t generalizing lo with
  | nil => by_cases h : v = d k <;> simp [tblSet, tblWfFrom, h, hk]
  | cons e r ih =>
    obtain ⟨k', v'⟩ := e
    have hw' := hw
    simp only [tblWfFrom, Bool.and_eq_true, decide_eq_true_eq] at hw
    by_cases h : k' < k
    · simp only [tblSet, h, if_true, tblWfFrom, Bool.and_eq_true, decide_eq_true_eq]
      exact ⟨hw.1, ih (by omega) hw.2⟩
    · by_cases hv : v = d k
      · simp only [tblSet, h, hv, if_true, if_false]
        exact tblWfFrom_filter d _ hw'
      · simp only [tblSet, h, hv, if_false, tblWfFrom, Bool.and_eq_true, decide_eq_true_eq]
        refine ⟨⟨hk, hv⟩, tblWfFrom_del d hk ?_⟩
        simp only [tblWfFrom, Bool.and_eq_true, decide_eq_true_eq]
        exact ⟨⟨by omega, hw.1.2⟩, hw.2⟩

/-- A write keeps the canonical form. -/
theorem tblWf_set (d : Nat → α) {t : Tbl α} (k : Nat) (v : α) (hw : tblWf d t = true) : tblWf d (tblSet d t k v) = true :=
  tblWfFrom_set d v (Nat.zero_le k) hw

/-- A selection keeps the canonical form. -/
theorem tblWf_filter (d : Nat → α) (p : Nat × α → Bool) {t : Tbl α} (hw : tblWf d t = true) :
    tblWf d (t.filter p) = true := tblWfFrom_filter d p hw

/-! Memories of bytes -/

@[simp] theorem rdByte_wrByte_same (m : Tbl Byte) (a : Nat) (v : Byte) : rdByte (wrByte m a v) a = v :=
  tblGet_set_same byte0 m a v

theorem rdByte_wrByte_other (m : Tbl Byte) {a b : Nat} (v : Byte) (h : b ≠ a) : rdByte (wrByte m a v) b = rdByte m b :=
  tblGet_set_other byte0 m v h

/-- A write of consecutive bytes leaves every byte outside them alone. -/
theorem rdByte_wrBytes_outside (m : Tbl Byte) (a : Nat) (d : List Byte) {b : Nat} (h : b < a ∨ a + d.length ≤ b) :
    rdByte (wrBytes m a d) b = rdByte m b := by
  induction d generalizing m a with
  | nil => rfl
  | cons v r ih =>
    simp only [List.length_cons] at h
    rw [wrBytes, ih _ _ (by omega), rdByte_wrByte_other m v (by omega)]

theorem rdByte_wrBytes_inside (m : Tbl Byte) (a : Nat) (d : List Byte) {i : Nat} (h : i < d.length) :
    rdByte (wrBytes m a d) (a + i) = d[i] := by
  induction d generalizing m a i with
  | nil => simp at h
  | cons v r ih =>
    cases i with
    | zero =>
      show rdByte (wrBytes (wrByte m a v) (a + 1) r) a = v
      rw [rdByte_wrBytes_outside _ _ _ (by omega), rdByte_wrByte_same]
    | succ n =>
      have hn : n < r.length := by simpa using h
      have := ih (wrByte m a v) (a + 1) (i := n) hn
      simpa [wrBytes, Nat.add_assoc, Nat.add_comm 1 n] using this

/-- A write of bytes, read back. -/
@[simp] theorem rdBytes_wrBytes_same (m : Tbl Byte) (a : Nat) (d : List Byte) : rdBytes (wrBytes m a d) a d.length = d := by
  induction d generalizing m a with
  | nil => rfl
  | cons v r ih =>
    simp only [List.length_cons, rdBytes, wrBytes, ih]
    rw [rdByte_wrBytes_outside _ _ _ (by omega), rdByte_wrByte_same]

theorem wrBytes_wf {m : Tbl Byte} (a : Nat) (d : List Byte) (h : tblWf byte0 m = true) : tblWf byte0 (wrBytes m a d) = true := by
  induction d generalizing m a with
  | nil => exact h
  | cons v r ih => exact ih (a + 1) (tblWf_set byte0 a v h)

/-! Instruction memories -/

/-- A write of consecutive bytes of an instruction memory leaves every byte outside them alone. -/
theorem rdImemByte_wrImem_outside (m : Tbl Byte) (a : Nat) (d : List Byte) {b : Nat} (h : b < a ∨ a + d.length ≤ b) :
    rdImemByte (wrImem m a d) b = rdImemByte m b := by
  induction d generalizing m a with
  | nil => rfl
  | cons v r ih =>
    simp only [List.length_cons] at h
    rw [wrImem, ih _ _ (by omega)]
    exact tblGet_set_other imem0 m v (by omega)

theorem rdImemByte_wrImem_inside (m : Tbl Byte) (a : Nat) (d : List Byte) {i : Nat} (h : i < d.length) :
    rdImemByte (wrImem m a d) (a + i) = d[i] := by
  induction d generalizing m a i with
  | nil => simp at h
  | cons v r ih =>
    cases i with
    | zero =>
      show rdImemByte (wrImem (tblSet imem0 m a v) (a + 1) r) a = v
      rw [rdImemByte_wrImem_outside _ _ _ (by omega)]
      exact tblGet_set_same imem0 m a v
    | succ n =>
      have hn : n < r.length := by simpa using h
      have := ih (tblSet imem0 m a v) (a + 1) (i := n) hn
      simpa [wrImem, Nat.add_assoc, Nat.add_comm 1 n] using this

theorem wrImem_wf {m : Tbl Byte} (a : Nat) (d : List Byte) (h : tblWf imem0 m = true) : tblWf imem0 (wrImem m a d) = true := by
  induction d generalizing m a with
  | nil => exact h
  | cons v r ih => exact ih (a + 1) (tblWf_set imem0 a v h)

@[simp] theorem leBytes_length (n v : Nat) : (leBytes n v).length = n := by
  induction n generalizing v with
  | zero => rfl
  | succ k ih => simp [leBytes, ih]

@[simp] theorem rdBytes_length (m : Tbl Byte) (a n : Nat) : (rdBytes m a n).length = n := by
  induction n generalizing a with
  | zero => rfl
  | succ k ih => simp [rdBytes, ih]

/-- The little-endian value of a value's bytes. -/
theorem leNat_leBytes (n v : Nat) : leNat (leBytes n v) = v % 2 ^ (8 * n) := by
  induction n generalizing v with
  | zero => simp [leBytes, leNat, Nat.mod_one]
  | succ k ih =>
    have h : 2 ^ (8 * (k + 1)) = 256 * 2 ^ (8 * k) := by rw [Nat.mul_add, Nat.pow_add]; omega
    rw [leBytes, leNat, ih, h, Nat.mod_mul]
    simp

end Sys2Proof.Machine
end

