-- ==== Sys2Proof/Laws/State.lean ====
section
/-!
SUPPORT. The small laws of the state: for each update, every field it leaves alone; for each kind of unit, what it reads as
after a write.
-/

namespace Sys2Proof.Machine

/-! ## Fields that an update leaves alone -/

@[simp] theorem State.setCore_frame (s : State) (n : Nat) (c : Core) :
    (s.setCore n c).pending = s.pending ∧ (s.setCore n c).time = s.time ∧ (s.setCore n c).clusters = s.clusters
      ∧ (s.setCore n c).dies = s.dies ∧ (s.setCore n c).ctxs = s.ctxs ∧ (s.setCore n c).stores = s.stores
      ∧ (s.setCore n c).imem = s.imem ∧ (s.setCore n c).lr = s.lr ∧ (s.setCore n c).side = s.side
      ∧ (s.setCore n c).long = s.long ∧ (s.setCore n c).ops = s.ops ∧ (s.setCore n c).txq = s.txq
      ∧ (s.setCore n c).relays = s.relays ∧ (s.setCore n c).bindings = s.bindings
      ∧ (s.setCore n c).qstatus = s.qstatus ∧ (s.setCore n c).qflight = s.qflight ∧ (s.setCore n c).routes = s.routes
      ∧ (s.setCore n c).groups = s.groups ∧ (s.setCore n c).ports = s.ports ∧ (s.setCore n c).staged = s.staged
      ∧ (s.setCore n c).addWait = s.addWait ∧ (s.setCore n c).mesh = s.mesh ∧ (s.setCore n c).barriers = s.barriers
      ∧ (s.setCore n c).barCol = s.barCol ∧ (s.setCore n c).orderCount = s.orderCount
      ∧ (s.setCore n c).ranks = s.ranks ∧ (s.setCore n c).shutter = s.shutter ∧ (s.setCore n c).cuts = s.cuts
      ∧ (s.setCore n c).armedCut = s.armedCut ∧ (s.setCore n c).drains = s.drains ∧ (s.setCore n c).repair = s.repair
      ∧ (s.setCore n c).obs = s.obs ∧ (s.setCore n c).dict = s.dict ∧ (s.setCore n c).boot = s.boot
      ∧ (s.setCore n c).host = s.host ∧ (s.setCore n c).power = s.power ∧ (s.setCore n c).resp = s.resp
      ∧ (s.setCore n c).freeCtr = s.freeCtr := by
  refine ⟨rfl, rfl, rfl, rfl, rfl, rfl, rfl, rfl, rfl, rfl, rfl, rfl, rfl, rfl, rfl, rfl, rfl, rfl, rfl, rfl, rfl, rfl, rfl, rfl, rfl, rfl, rfl, rfl, rfl, rfl, rfl, rfl, rfl, rfl, rfl, rfl, rfl, rfl⟩

@[simp] theorem State.setCluster_frame (s : State) (n : Nat) (c : Cluster) :
    (s.setCluster n c).pending = s.pending ∧ (s.setCluster n c).time = s.time ∧ (s.setCluster n c).cores = s.cores
      ∧ (s.setCluster n c).dies = s.dies ∧ (s.setCluster n c).ctxs = s.ctxs ∧ (s.setCluster n c).stores = s.stores
      ∧ (s.setCluster n c).imem = s.imem ∧ (s.setCluster n c).lr = s.lr ∧ (s.setCluster n c).side = s.side
      ∧ (s.setCluster n c).long = s.long ∧ (s.setCluster n c).ops = s.ops ∧ (s.setCluster n c).txq = s.txq
      ∧ (s.setCluster n c).relays = s.relays ∧ (s.setCluster n c).bindings = s.bindings
      ∧ (s.setCluster n c).qstatus = s.qstatus ∧ (s.setCluster n c).qflight = s.qflight
      ∧ (s.setCluster n c).routes = s.routes ∧ (s.setCluster n c).groups = s.groups
      ∧ (s.setCluster n c).ports = s.ports ∧ (s.setCluster n c).staged = s.staged
      ∧ (s.setCluster n c).addWait = s.addWait ∧ (s.setCluster n c).mesh = s.mesh
      ∧ (s.setCluster n c).barriers = s.barriers ∧ (s.setCluster n c).barCol = s.barCol
      ∧ (s.setCluster n c).orderCount = s.orderCount ∧ (s.setCluster n c).ranks = s.ranks
      ∧ (s.setCluster n c).shutter = s.shutter ∧ (s.setCluster n c).cuts = s.cuts
      ∧ (s.setCluster n c).armedCut = s.armedCut ∧ (s.setCluster n c).drains = s.drains
      ∧ (s.setCluster n c).repair = s.repair ∧ (s.setCluster n c).obs = s.obs ∧ (s.setCluster n c).dict = s.dict
      ∧ (s.setCluster n c).boot = s.boot ∧ (s.setCluster n c).host = s.host ∧ (s.setCluster n c).power = s.power
      ∧ (s.setCluster n c).resp = s.resp ∧ (s.setCluster n c).freeCtr = s.freeCtr := by
  refine ⟨rfl, rfl, rfl, rfl, rfl, rfl, rfl, rfl, rfl, rfl, rfl, rfl, rfl, rfl, rfl, rfl, rfl, rfl, rfl, rfl, rfl, rfl, rfl, rfl, rfl, rfl, rfl, rfl, rfl, rfl, rfl, rfl, rfl, rfl, rfl, rfl, rfl, rfl⟩

@[simp] theorem State.setDie_frame (s : State) (n : Nat) (d : Die) :
    (s.setDie n d).pending = s.pending ∧ (s.setDie n d).time = s.time ∧ (s.setDie n d).cores = s.cores
      ∧ (s.setDie n d).clusters = s.clusters ∧ (s.setDie n d).ctxs = s.ctxs ∧ (s.setDie n d).stores = s.stores
      ∧ (s.setDie n d).imem = s.imem ∧ (s.setDie n d).lr = s.lr ∧ (s.setDie n d).side = s.side
      ∧ (s.setDie n d).long = s.long ∧ (s.setDie n d).ops = s.ops ∧ (s.setDie n d).txq = s.txq
      ∧ (s.setDie n d).relays = s.relays ∧ (s.setDie n d).bindings = s.bindings ∧ (s.setDie n d).qstatus = s.qstatus
      ∧ (s.setDie n d).qflight = s.qflight ∧ (s.setDie n d).routes = s.routes ∧ (s.setDie n d).groups = s.groups
      ∧ (s.setDie n d).ports = s.ports ∧ (s.setDie n d).staged = s.staged ∧ (s.setDie n d).addWait = s.addWait
      ∧ (s.setDie n d).mesh = s.mesh ∧ (s.setDie n d).barriers = s.barriers ∧ (s.setDie n d).barCol = s.barCol
      ∧ (s.setDie n d).orderCount = s.orderCount ∧ (s.setDie n d).ranks = s.ranks ∧ (s.setDie n d).shutter = s.shutter
      ∧ (s.setDie n d).cuts = s.cuts ∧ (s.setDie n d).armedCut = s.armedCut ∧ (s.setDie n d).drains = s.drains
      ∧ (s.setDie n d).repair = s.repair ∧ (s.setDie n d).obs = s.obs ∧ (s.setDie n d).dict = s.dict
      ∧ (s.setDie n d).boot = s.boot ∧ (s.setDie n d).host = s.host ∧ (s.setDie n d).power = s.power
      ∧ (s.setDie n d).resp = s.resp ∧ (s.setDie n d).freeCtr = s.freeCtr := by
  refine ⟨rfl, rfl, rfl, rfl, rfl, rfl, rfl, rfl, rfl, rfl, rfl, rfl, rfl, rfl, rfl, rfl, rfl, rfl, rfl, rfl, rfl, rfl, rfl, rfl, rfl, rfl, rfl, rfl, rfl, rfl, rfl, rfl, rfl, rfl, rfl, rfl, rfl, rfl⟩

@[simp] theorem State.setCtx_frame (s : State) (n : Nat) (c : Ctx) :
    (s.setCtx n c).pending = s.pending ∧ (s.setCtx n c).time = s.time ∧ (s.setCtx n c).cores = s.cores
      ∧ (s.setCtx n c).clusters = s.clusters ∧ (s.setCtx n c).dies = s.dies ∧ (s.setCtx n c).stores = s.stores
      ∧ (s.setCtx n c).imem = s.imem ∧ (s.setCtx n c).lr = s.lr ∧ (s.setCtx n c).side = s.side
      ∧ (s.setCtx n c).long = s.long ∧ (s.setCtx n c).ops = s.ops ∧ (s.setCtx n c).txq = s.txq
      ∧ (s.setCtx n c).relays = s.relays ∧ (s.setCtx n c).bindings = s.bindings ∧ (s.setCtx n c).qstatus = s.qstatus
      ∧ (s.setCtx n c).qflight = s.qflight ∧ (s.setCtx n c).routes = s.routes ∧ (s.setCtx n c).groups = s.groups
      ∧ (s.setCtx n c).ports = s.ports ∧ (s.setCtx n c).staged = s.staged ∧ (s.setCtx n c).addWait = s.addWait
      ∧ (s.setCtx n c).mesh = s.mesh ∧ (s.setCtx n c).barriers = s.barriers ∧ (s.setCtx n c).barCol = s.barCol
      ∧ (s.setCtx n c).orderCount = s.orderCount ∧ (s.setCtx n c).ranks = s.ranks ∧ (s.setCtx n c).shutter = s.shutter
      ∧ (s.setCtx n c).cuts = s.cuts ∧ (s.setCtx n c).armedCut = s.armedCut ∧ (s.setCtx n c).drains = s.drains
      ∧ (s.setCtx n c).repair = s.repair ∧ (s.setCtx n c).obs = s.obs ∧ (s.setCtx n c).dict = s.dict
      ∧ (s.setCtx n c).boot = s.boot ∧ (s.setCtx n c).host = s.host ∧ (s.setCtx n c).power = s.power
      ∧ (s.setCtx n c).resp = s.resp ∧ (s.setCtx n c).freeCtr = s.freeCtr := by
  refine ⟨rfl, rfl, rfl, rfl, rfl, rfl, rfl, rfl, rfl, rfl, rfl, rfl, rfl, rfl, rfl, rfl, rfl, rfl, rfl, rfl, rfl, rfl, rfl, rfl, rfl, rfl, rfl, rfl, rfl, rfl, rfl, rfl, rfl, rfl, rfl, rfl, rfl, rfl⟩

@[simp] theorem State.setPort_frame (s : State) (n : Nat) (p : Port) :
    (s.setPort n p).pending = s.pending ∧ (s.setPort n p).time = s.time ∧ (s.setPort n p).cores = s.cores
      ∧ (s.setPort n p).clusters = s.clusters ∧ (s.setPort n p).dies = s.dies ∧ (s.setPort n p).ctxs = s.ctxs
      ∧ (s.setPort n p).stores = s.stores ∧ (s.setPort n p).imem = s.imem ∧ (s.setPort n p).lr = s.lr
      ∧ (s.setPort n p).side = s.side ∧ (s.setPort n p).long = s.long ∧ (s.setPort n p).ops = s.ops
      ∧ (s.setPort n p).txq = s.txq ∧ (s.setPort n p).relays = s.relays ∧ (s.setPort n p).bindings = s.bindings
      ∧ (s.setPort n p).qstatus = s.qstatus ∧ (s.setPort n p).qflight = s.qflight ∧ (s.setPort n p).routes = s.routes
      ∧ (s.setPort n p).groups = s.groups ∧ (s.setPort n p).staged = s.staged ∧ (s.setPort n p).addWait = s.addWait
      ∧ (s.setPort n p).mesh = s.mesh ∧ (s.setPort n p).barriers = s.barriers ∧ (s.setPort n p).barCol = s.barCol
      ∧ (s.setPort n p).orderCount = s.orderCount ∧ (s.setPort n p).ranks = s.ranks
      ∧ (s.setPort n p).shutter = s.shutter ∧ (s.setPort n p).cuts = s.cuts ∧ (s.setPort n p).armedCut = s.armedCut
      ∧ (s.setPort n p).drains = s.drains ∧ (s.setPort n p).repair = s.repair ∧ (s.setPort n p).obs = s.obs
      ∧ (s.setPort n p).dict = s.dict ∧ (s.setPort n p).boot = s.boot ∧ (s.setPort n p).host = s.host
      ∧ (s.setPort n p).power = s.power ∧ (s.setPort n p).resp = s.resp ∧ (s.setPort n p).freeCtr = s.freeCtr := by
  refine ⟨rfl, rfl, rfl, rfl, rfl, rfl, rfl, rfl, rfl, rfl, rfl, rfl, rfl, rfl, rfl, rfl, rfl, rfl, rfl, rfl, rfl, rfl, rfl, rfl, rfl, rfl, rfl, rfl, rfl, rfl, rfl, rfl, rfl, rfl, rfl, rfl, rfl, rfl⟩

@[simp] theorem State.setPage_frame (s : State) (n : Nat) (p : PageInfo) :
    (s.setPage n p).pending = s.pending ∧ (s.setPage n p).time = s.time ∧ (s.setPage n p).cores = s.cores
      ∧ (s.setPage n p).clusters = s.clusters ∧ (s.setPage n p).dies = s.dies ∧ (s.setPage n p).ctxs = s.ctxs
      ∧ (s.setPage n p).stores = s.stores ∧ (s.setPage n p).imem = s.imem ∧ (s.setPage n p).lr = s.lr
      ∧ (s.setPage n p).side = s.side ∧ (s.setPage n p).ops = s.ops ∧ (s.setPage n p).txq = s.txq
      ∧ (s.setPage n p).relays = s.relays ∧ (s.setPage n p).bindings = s.bindings
      ∧ (s.setPage n p).qstatus = s.qstatus ∧ (s.setPage n p).qflight = s.qflight ∧ (s.setPage n p).routes = s.routes
      ∧ (s.setPage n p).groups = s.groups ∧ (s.setPage n p).ports = s.ports ∧ (s.setPage n p).staged = s.staged
      ∧ (s.setPage n p).addWait = s.addWait ∧ (s.setPage n p).mesh = s.mesh ∧ (s.setPage n p).barriers = s.barriers
      ∧ (s.setPage n p).barCol = s.barCol ∧ (s.setPage n p).orderCount = s.orderCount
      ∧ (s.setPage n p).ranks = s.ranks ∧ (s.setPage n p).shutter = s.shutter ∧ (s.setPage n p).cuts = s.cuts
      ∧ (s.setPage n p).armedCut = s.armedCut ∧ (s.setPage n p).drains = s.drains ∧ (s.setPage n p).repair = s.repair
      ∧ (s.setPage n p).obs = s.obs ∧ (s.setPage n p).dict = s.dict ∧ (s.setPage n p).boot = s.boot
      ∧ (s.setPage n p).host = s.host ∧ (s.setPage n p).power = s.power ∧ (s.setPage n p).resp = s.resp
      ∧ (s.setPage n p).freeCtr = s.freeCtr := by
  refine ⟨rfl, rfl, rfl, rfl, rfl, rfl, rfl, rfl, rfl, rfl, rfl, rfl, rfl, rfl, rfl, rfl, rfl, rfl, rfl, rfl, rfl, rfl, rfl, rfl, rfl, rfl, rfl, rfl, rfl, rfl, rfl, rfl, rfl, rfl, rfl, rfl, rfl, rfl⟩

@[simp] theorem State.setChan_frame (s : State) (n : Nat) (c : Channel) :
    (s.setChan n c).pending = s.pending ∧ (s.setChan n c).time = s.time ∧ (s.setChan n c).cores = s.cores
      ∧ (s.setChan n c).clusters = s.clusters ∧ (s.setChan n c).dies = s.dies ∧ (s.setChan n c).ctxs = s.ctxs
      ∧ (s.setChan n c).stores = s.stores ∧ (s.setChan n c).imem = s.imem ∧ (s.setChan n c).lr = s.lr
      ∧ (s.setChan n c).side = s.side ∧ (s.setChan n c).long = s.long ∧ (s.setChan n c).ops = s.ops
      ∧ (s.setChan n c).txq = s.txq ∧ (s.setChan n c).relays = s.relays ∧ (s.setChan n c).bindings = s.bindings
      ∧ (s.setChan n c).qstatus = s.qstatus ∧ (s.setChan n c).qflight = s.qflight ∧ (s.setChan n c).routes = s.routes
      ∧ (s.setChan n c).groups = s.groups ∧ (s.setChan n c).ports = s.ports ∧ (s.setChan n c).staged = s.staged
      ∧ (s.setChan n c).addWait = s.addWait ∧ (s.setChan n c).mesh = s.mesh ∧ (s.setChan n c).barriers = s.barriers
      ∧ (s.setChan n c).barCol = s.barCol ∧ (s.setChan n c).orderCount = s.orderCount
      ∧ (s.setChan n c).ranks = s.ranks ∧ (s.setChan n c).shutter = s.shutter ∧ (s.setChan n c).cuts = s.cuts
      ∧ (s.setChan n c).armedCut = s.armedCut ∧ (s.setChan n c).drains = s.drains ∧ (s.setChan n c).repair = s.repair
      ∧ (s.setChan n c).dict = s.dict ∧ (s.setChan n c).boot = s.boot ∧ (s.setChan n c).host = s.host
      ∧ (s.setChan n c).power = s.power ∧ (s.setChan n c).resp = s.resp ∧ (s.setChan n c).freeCtr = s.freeCtr := by
  refine ⟨rfl, rfl, rfl, rfl, rfl, rfl, rfl, rfl, rfl, rfl, rfl, rfl, rfl, rfl, rfl, rfl, rfl, rfl, rfl, rfl, rfl, rfl, rfl, rfl, rfl, rfl, rfl, rfl, rfl, rfl, rfl, rfl, rfl, rfl, rfl, rfl, rfl, rfl⟩

@[simp] theorem State.setQ_frame (s : State) (n : Nat) (q : HostQ) :
    (s.setQ n q).pending = s.pending ∧ (s.setQ n q).time = s.time ∧ (s.setQ n q).cores = s.cores
      ∧ (s.setQ n q).clusters = s.clusters ∧ (s.setQ n q).dies = s.dies ∧ (s.setQ n q).ctxs = s.ctxs
      ∧ (s.setQ n q).stores = s.stores ∧ (s.setQ n q).imem = s.imem ∧ (s.setQ n q).lr = s.lr
      ∧ (s.setQ n q).side = s.side ∧ (s.setQ n q).long = s.long ∧ (s.setQ n q).ops = s.ops ∧ (s.setQ n q).txq = s.txq
      ∧ (s.setQ n q).relays = s.relays ∧ (s.setQ n q).bindings = s.bindings ∧ (s.setQ n q).qstatus = s.qstatus
      ∧ (s.setQ n q).qflight = s.qflight ∧ (s.setQ n q).routes = s.routes ∧ (s.setQ n q).groups = s.groups
      ∧ (s.setQ n q).ports = s.ports ∧ (s.setQ n q).staged = s.staged ∧ (s.setQ n q).addWait = s.addWait
      ∧ (s.setQ n q).mesh = s.mesh ∧ (s.setQ n q).barriers = s.barriers ∧ (s.setQ n q).barCol = s.barCol
      ∧ (s.setQ n q).orderCount = s.orderCount ∧ (s.setQ n q).ranks = s.ranks ∧ (s.setQ n q).shutter = s.shutter
      ∧ (s.setQ n q).cuts = s.cuts ∧ (s.setQ n q).armedCut = s.armedCut ∧ (s.setQ n q).drains = s.drains
      ∧ (s.setQ n q).repair = s.repair ∧ (s.setQ n q).obs = s.obs ∧ (s.setQ n q).dict = s.dict
      ∧ (s.setQ n q).boot = s.boot ∧ (s.setQ n q).power = s.power ∧ (s.setQ n q).resp = s.resp
      ∧ (s.setQ n q).freeCtr = s.freeCtr := by
  refine ⟨rfl, rfl, rfl, rfl, rfl, rfl, rfl, rfl, rfl, rfl, rfl, rfl, rfl, rfl, rfl, rfl, rfl, rfl, rfl, rfl, rfl, rfl, rfl, rfl, rfl, rfl, rfl, rfl, rfl, rfl, rfl, rfl, rfl, rfl, rfl, rfl, rfl, rfl⟩

@[simp] theorem State.setBarrier_frame (s : State) (b : Nat) (w : BitVec 512) :
    (s.setBarrier b w).pending = s.pending ∧ (s.setBarrier b w).time = s.time ∧ (s.setBarrier b w).cores = s.cores
      ∧ (s.setBarrier b w).clusters = s.clusters ∧ (s.setBarrier b w).dies = s.dies ∧ (s.setBarrier b w).ctxs = s.ctxs
      ∧ (s.setBarrier b w).stores = s.stores ∧ (s.setBarrier b w).imem = s.imem ∧ (s.setBarrier b w).lr = s.lr
      ∧ (s.setBarrier b w).side = s.side ∧ (s.setBarrier b w).long = s.long ∧ (s.setBarrier b w).ops = s.ops
      ∧ (s.setBarrier b w).txq = s.txq ∧ (s.setBarrier b w).relays = s.relays
      ∧ (s.setBarrier b w).bindings = s.bindings ∧ (s.setBarrier b w).qstatus = s.qstatus
      ∧ (s.setBarrier b w).qflight = s.qflight ∧ (s.setBarrier b w).routes = s.routes
      ∧ (s.setBarrier b w).groups = s.groups ∧ (s.setBarrier b w).ports = s.ports
      ∧ (s.setBarrier b w).staged = s.staged ∧ (s.setBarrier b w).addWait = s.addWait
      ∧ (s.setBarrier b w).mesh = s.mesh ∧ (s.setBarrier b w).barCol = s.barCol
      ∧ (s.setBarrier b w).orderCount = s.orderCount ∧ (s.setBarrier b w).ranks = s.ranks
      ∧ (s.setBarrier b w).shutter = s.shutter ∧ (s.setBarrier b w).cuts = s.cuts
      ∧ (s.setBarrier b w).armedCut = s.armedCut ∧ (s.setBarrier b w).drains = s.drains
      ∧ (s.setBarrier b w).repair = s.repair ∧ (s.setBarrier b w).obs = s.obs ∧ (s.setBarrier b w).dict = s.dict
      ∧ (s.setBarrier b w).boot = s.boot ∧ (s.setBarrier b w).host = s.host ∧ (s.setBarrier b w).power = s.power
      ∧ (s.setBarrier b w).resp = s.resp ∧ (s.setBarrier b w).freeCtr = s.freeCtr := by
  refine ⟨rfl, rfl, rfl, rfl, rfl, rfl, rfl, rfl, rfl, rfl, rfl, rfl, rfl, rfl, rfl, rfl, rfl, rfl, rfl, rfl, rfl, rfl, rfl, rfl, rfl, rfl, rfl, rfl, rfl, rfl, rfl, rfl, rfl, rfl, rfl, rfl, rfl, rfl⟩

@[simp] theorem State.setBarCollect_frame (s : State) (b : Nat) (c : BarrierCol) :
    (s.setBarCollect b c).pending = s.pending ∧ (s.setBarCollect b c).time = s.time
      ∧ (s.setBarCollect b c).cores = s.cores ∧ (s.setBarCollect b c).clusters = s.clusters
      ∧ (s.setBarCollect b c).dies = s.dies ∧ (s.setBarCollect b c).ctxs = s.ctxs
      ∧ (s.setBarCollect b c).stores = s.stores ∧ (s.setBarCollect b c).imem = s.imem
      ∧ (s.setBarCollect b c).lr = s.lr ∧ (s.setBarCollect b c).side = s.side ∧ (s.setBarCollect b c).long = s.long
      ∧ (s.setBarCollect b c).ops = s.ops ∧ (s.setBarCollect b c).txq = s.txq
      ∧ (s.setBarCollect b c).relays = s.relays ∧ (s.setBarCollect b c).bindings = s.bindings
      ∧ (s.setBarCollect b c).qstatus = s.qstatus ∧ (s.setBarCollect b c).qflight = s.qflight
      ∧ (s.setBarCollect b c).routes = s.routes ∧ (s.setBarCollect b c).groups = s.groups
      ∧ (s.setBarCollect b c).ports = s.ports ∧ (s.setBarCollect b c).staged = s.staged
      ∧ (s.setBarCollect b c).addWait = s.addWait ∧ (s.setBarCollect b c).mesh = s.mesh
      ∧ (s.setBarCollect b c).barriers = s.barriers ∧ (s.setBarCollect b c).orderCount = s.orderCount
      ∧ (s.setBarCollect b c).ranks = s.ranks ∧ (s.setBarCollect b c).shutter = s.shutter
      ∧ (s.setBarCollect b c).cuts = s.cuts ∧ (s.setBarCollect b c).armedCut = s.armedCut
      ∧ (s.setBarCollect b c).drains = s.drains ∧ (s.setBarCollect b c).repair = s.repair
      ∧ (s.setBarCollect b c).obs = s.obs ∧ (s.setBarCollect b c).dict = s.dict ∧ (s.setBarCollect b c).boot = s.boot
      ∧ (s.setBarCollect b c).host = s.host ∧ (s.setBarCollect b c).power = s.power
      ∧ (s.setBarCollect b c).resp = s.resp ∧ (s.setBarCollect b c).freeCtr = s.freeCtr := by
  refine ⟨rfl, rfl, rfl, rfl, rfl, rfl, rfl, rfl, rfl, rfl, rfl, rfl, rfl, rfl, rfl, rfl, rfl, rfl, rfl, rfl, rfl, rfl, rfl, rfl, rfl, rfl, rfl, rfl, rfl, rfl, rfl, rfl, rfl, rfl, rfl, rfl, rfl, rfl⟩

@[simp] theorem State.setWatch_frame (s : State) (n : Nat) (w : BitVec 512) :
    (s.setWatch n w).pending = s.pending ∧ (s.setWatch n w).time = s.time ∧ (s.setWatch n w).cores = s.cores
      ∧ (s.setWatch n w).clusters = s.clusters ∧ (s.setWatch n w).dies = s.dies ∧ (s.setWatch n w).ctxs = s.ctxs
      ∧ (s.setWatch n w).stores = s.stores ∧ (s.setWatch n w).imem = s.imem ∧ (s.setWatch n w).lr = s.lr
      ∧ (s.setWatch n w).side = s.side ∧ (s.setWatch n w).long = s.long ∧ (s.setWatch n w).ops = s.ops
      ∧ (s.setWatch n w).txq = s.txq ∧ (s.setWatch n w).relays = s.relays ∧ (s.setWatch n w).bindings = s.bindings
      ∧ (s.setWatch n w).qstatus = s.qstatus ∧ (s.setWatch n w).qflight = s.qflight
      ∧ (s.setWatch n w).routes = s.routes ∧ (s.setWatch n w).groups = s.groups ∧ (s.setWatch n w).ports = s.ports
      ∧ (s.setWatch n w).staged = s.staged ∧ (s.setWatch n w).addWait = s.addWait ∧ (s.setWatch n w).mesh = s.mesh
      ∧ (s.setWatch n w).barriers = s.barriers ∧ (s.setWatch n w).barCol = s.barCol
      ∧ (s.setWatch n w).orderCount = s.orderCount ∧ (s.setWatch n w).ranks = s.ranks
      ∧ (s.setWatch n w).shutter = s.shutter ∧ (s.setWatch n w).cuts = s.cuts ∧ (s.setWatch n w).armedCut = s.armedCut
      ∧ (s.setWatch n w).drains = s.drains ∧ (s.setWatch n w).repair = s.repair ∧ (s.setWatch n w).dict = s.dict
      ∧ (s.setWatch n w).boot = s.boot ∧ (s.setWatch n w).host = s.host ∧ (s.setWatch n w).power = s.power
      ∧ (s.setWatch n w).resp = s.resp ∧ (s.setWatch n w).freeCtr = s.freeCtr := by
  refine ⟨rfl, rfl, rfl, rfl, rfl, rfl, rfl, rfl, rfl, rfl, rfl, rfl, rfl, rfl, rfl, rfl, rfl, rfl, rfl, rfl, rfl, rfl, rfl, rfl, rfl, rfl, rfl, rfl, rfl, rfl, rfl, rfl, rfl, rfl, rfl, rfl, rfl, rfl⟩

@[simp] theorem State.status_frame (s : State) (st : Nat) :
    (s.status st).pending = s.pending ∧ (s.status st).time = s.time ∧ (s.status st).cores = s.cores
      ∧ (s.status st).clusters = s.clusters ∧ (s.status st).dies = s.dies ∧ (s.status st).ctxs = s.ctxs
      ∧ (s.status st).stores = s.stores ∧ (s.status st).imem = s.imem ∧ (s.status st).lr = s.lr
      ∧ (s.status st).side = s.side ∧ (s.status st).long = s.long ∧ (s.status st).ops = s.ops
      ∧ (s.status st).txq = s.txq ∧ (s.status st).relays = s.relays ∧ (s.status st).bindings = s.bindings
      ∧ (s.status st).qstatus = s.qstatus ∧ (s.status st).qflight = s.qflight ∧ (s.status st).routes = s.routes
      ∧ (s.status st).groups = s.groups ∧ (s.status st).ports = s.ports ∧ (s.status st).staged = s.staged
      ∧ (s.status st).addWait = s.addWait ∧ (s.status st).mesh = s.mesh ∧ (s.status st).barriers = s.barriers
      ∧ (s.status st).barCol = s.barCol ∧ (s.status st).orderCount = s.orderCount ∧ (s.status st).ranks = s.ranks
      ∧ (s.status st).shutter = s.shutter ∧ (s.status st).cuts = s.cuts ∧ (s.status st).armedCut = s.armedCut
      ∧ (s.status st).drains = s.drains ∧ (s.status st).repair = s.repair ∧ (s.status st).obs = s.obs
      ∧ (s.status st).dict = s.dict ∧ (s.status st).boot = s.boot ∧ (s.status st).host = s.host
      ∧ (s.status st).power = s.power ∧ (s.status st).freeCtr = s.freeCtr := by
  refine ⟨rfl, rfl, rfl, rfl, rfl, rfl, rfl, rfl, rfl, rfl, rfl, rfl, rfl, rfl, rfl, rfl, rfl, rfl, rfl, rfl, rfl, rfl, rfl, rfl, rfl, rfl, rfl, rfl, rfl, rfl, rfl, rfl, rfl, rfl, rfl, rfl, rfl, rfl⟩

@[simp] theorem State.answer_frame (s : State) (st : Nat) (d : List Byte) :
    (s.answer st d).pending = s.pending ∧ (s.answer st d).time = s.time ∧ (s.answer st d).cores = s.cores
      ∧ (s.answer st d).clusters = s.clusters ∧ (s.answer st d).dies = s.dies ∧ (s.answer st d).ctxs = s.ctxs
      ∧ (s.answer st d).stores = s.stores ∧ (s.answer st d).imem = s.imem ∧ (s.answer st d).lr = s.lr
      ∧ (s.answer st d).side = s.side ∧ (s.answer st d).long = s.long ∧ (s.answer st d).ops = s.ops
      ∧ (s.answer st d).txq = s.txq ∧ (s.answer st d).relays = s.relays ∧ (s.answer st d).bindings = s.bindings
      ∧ (s.answer st d).qstatus = s.qstatus ∧ (s.answer st d).qflight = s.qflight ∧ (s.answer st d).routes = s.routes
      ∧ (s.answer st d).groups = s.groups ∧ (s.answer st d).ports = s.ports ∧ (s.answer st d).staged = s.staged
      ∧ (s.answer st d).addWait = s.addWait ∧ (s.answer st d).mesh = s.mesh ∧ (s.answer st d).barriers = s.barriers
      ∧ (s.answer st d).barCol = s.barCol ∧ (s.answer st d).orderCount = s.orderCount
      ∧ (s.answer st d).ranks = s.ranks ∧ (s.answer st d).shutter = s.shutter ∧ (s.answer st d).cuts = s.cuts
      ∧ (s.answer st d).armedCut = s.armedCut ∧ (s.answer st d).drains = s.drains ∧ (s.answer st d).repair = s.repair
      ∧ (s.answer st d).obs = s.obs ∧ (s.answer st d).dict = s.dict ∧ (s.answer st d).boot = s.boot
      ∧ (s.answer st d).host = s.host ∧ (s.answer st d).power = s.power ∧ (s.answer st d).freeCtr = s.freeCtr := by
  refine ⟨rfl, rfl, rfl, rfl, rfl, rfl, rfl, rfl, rfl, rfl, rfl, rfl, rfl, rfl, rfl, rfl, rfl, rfl, rfl, rfl, rfl, rfl, rfl, rfl, rfl, rfl, rfl, rfl, rfl, rfl, rfl, rfl, rfl, rfl, rfl, rfl, rfl, rfl⟩

@[simp] theorem State.setOd_frame (s : State) (i k v : Nat) :
    (s.setOd i k v).pending = s.pending ∧ (s.setOd i k v).time = s.time ∧ (s.setOd i k v).cores = s.cores
      ∧ (s.setOd i k v).clusters = s.clusters ∧ (s.setOd i k v).dies = s.dies ∧ (s.setOd i k v).ctxs = s.ctxs
      ∧ (s.setOd i k v).stores = s.stores ∧ (s.setOd i k v).imem = s.imem ∧ (s.setOd i k v).lr = s.lr
      ∧ (s.setOd i k v).side = s.side ∧ (s.setOd i k v).long = s.long ∧ (s.setOd i k v).ops = s.ops
      ∧ (s.setOd i k v).txq = s.txq ∧ (s.setOd i k v).relays = s.relays ∧ (s.setOd i k v).bindings = s.bindings
      ∧ (s.setOd i k v).qstatus = s.qstatus ∧ (s.setOd i k v).qflight = s.qflight ∧ (s.setOd i k v).routes = s.routes
      ∧ (s.setOd i k v).groups = s.groups ∧ (s.setOd i k v).ports = s.ports ∧ (s.setOd i k v).staged = s.staged
      ∧ (s.setOd i k v).addWait = s.addWait ∧ (s.setOd i k v).mesh = s.mesh ∧ (s.setOd i k v).barriers = s.barriers
      ∧ (s.setOd i k v).barCol = s.barCol ∧ (s.setOd i k v).orderCount = s.orderCount
      ∧ (s.setOd i k v).ranks = s.ranks ∧ (s.setOd i k v).shutter = s.shutter ∧ (s.setOd i k v).cuts = s.cuts
      ∧ (s.setOd i k v).armedCut = s.armedCut ∧ (s.setOd i k v).drains = s.drains ∧ (s.setOd i k v).repair = s.repair
      ∧ (s.setOd i k v).obs = s.obs ∧ (s.setOd i k v).boot = s.boot ∧ (s.setOd i k v).host = s.host
      ∧ (s.setOd i k v).power = s.power ∧ (s.setOd i k v).resp = s.resp ∧ (s.setOd i k v).freeCtr = s.freeCtr := by
  refine ⟨rfl, rfl, rfl, rfl, rfl, rfl, rfl, rfl, rfl, rfl, rfl, rfl, rfl, rfl, rfl, rfl, rfl, rfl, rfl, rfl, rfl, rfl, rfl, rfl, rfl, rfl, rfl, rfl, rfl, rfl, rfl, rfl, rfl, rfl, rfl, rfl, rfl, rfl⟩

@[simp] theorem State.draw_frame (s : State) :
    s.draw.pending = s.pending ∧ s.draw.cores = s.cores ∧ s.draw.clusters = s.clusters ∧ s.draw.dies = s.dies
      ∧ s.draw.ctxs = s.ctxs ∧ s.draw.stores = s.stores ∧ s.draw.imem = s.imem ∧ s.draw.lr = s.lr
      ∧ s.draw.side = s.side ∧ s.draw.long = s.long ∧ s.draw.ops = s.ops ∧ s.draw.txq = s.txq
      ∧ s.draw.relays = s.relays ∧ s.draw.bindings = s.bindings ∧ s.draw.qstatus = s.qstatus
      ∧ s.draw.qflight = s.qflight ∧ s.draw.routes = s.routes ∧ s.draw.groups = s.groups ∧ s.draw.ports = s.ports
      ∧ s.draw.staged = s.staged ∧ s.draw.addWait = s.addWait ∧ s.draw.mesh = s.mesh ∧ s.draw.barriers = s.barriers
      ∧ s.draw.barCol = s.barCol ∧ s.draw.orderCount = s.orderCount ∧ s.draw.ranks = s.ranks
      ∧ s.draw.shutter = s.shutter ∧ s.draw.cuts = s.cuts ∧ s.draw.armedCut = s.armedCut ∧ s.draw.drains = s.drains
      ∧ s.draw.repair = s.repair ∧ s.draw.obs = s.obs ∧ s.draw.dict = s.dict ∧ s.draw.boot = s.boot
      ∧ s.draw.host = s.host ∧ s.draw.power = s.power ∧ s.draw.resp = s.resp := by
  refine ⟨rfl, rfl, rfl, rfl, rfl, rfl, rfl, rfl, rfl, rfl, rfl, rfl, rfl, rfl, rfl, rfl, rfl, rfl, rfl, rfl, rfl, rfl, rfl, rfl, rfl, rfl, rfl, rfl, rfl, rfl, rfl, rfl, rfl, rfl, rfl, rfl, rfl⟩

@[simp] theorem State.setTime_frame (s : State) (f : TimeBase → TimeBase) :
    (s.setTime f).pending = s.pending ∧ (s.setTime f).cores = s.cores ∧ (s.setTime f).clusters = s.clusters
      ∧ (s.setTime f).dies = s.dies ∧ (s.setTime f).ctxs = s.ctxs ∧ (s.setTime f).stores = s.stores
      ∧ (s.setTime f).imem = s.imem ∧ (s.setTime f).lr = s.lr ∧ (s.setTime f).side = s.side
      ∧ (s.setTime f).long = s.long ∧ (s.setTime f).ops = s.ops ∧ (s.setTime f).txq = s.txq
      ∧ (s.setTime f).relays = s.relays ∧ (s.setTime f).bindings = s.bindings ∧ (s.setTime f).qstatus = s.qstatus
      ∧ (s.setTime f).qflight = s.qflight ∧ (s.setTime f).routes = s.routes ∧ (s.setTime f).groups = s.groups
      ∧ (s.setTime f).ports = s.ports ∧ (s.setTime f).staged = s.staged ∧ (s.setTime f).addWait = s.addWait
      ∧ (s.setTime f).mesh = s.mesh ∧ (s.setTime f).barriers = s.barriers ∧ (s.setTime f).barCol = s.barCol
      ∧ (s.setTime f).orderCount = s.orderCount ∧ (s.setTime f).ranks = s.ranks ∧ (s.setTime f).shutter = s.shutter
      ∧ (s.setTime f).cuts = s.cuts ∧ (s.setTime f).armedCut = s.armedCut ∧ (s.setTime f).drains = s.drains
      ∧ (s.setTime f).repair = s.repair ∧ (s.setTime f).obs = s.obs ∧ (s.setTime f).dict = s.dict
      ∧ (s.setTime f).boot = s.boot ∧ (s.setTime f).host = s.host ∧ (s.setTime f).power = s.power
      ∧ (s.setTime f).resp = s.resp ∧ (s.setTime f).freeCtr = s.freeCtr := by
  refine ⟨rfl, rfl, rfl, rfl, rfl, rfl, rfl, rfl, rfl, rfl, rfl, rfl, rfl, rfl, rfl, rfl, rfl, rfl, rfl, rfl, rfl, rfl, rfl, rfl, rfl, rfl, rfl, rfl, rfl, rfl, rfl, rfl, rfl, rfl, rfl, rfl, rfl, rfl⟩

@[simp] theorem State.setPower_frame (s : State) (f : Power → Power) :
    (s.setPower f).pending = s.pending ∧ (s.setPower f).time = s.time ∧ (s.setPower f).cores = s.cores
      ∧ (s.setPower f).clusters = s.clusters ∧ (s.setPower f).dies = s.dies ∧ (s.setPower f).ctxs = s.ctxs
      ∧ (s.setPower f).stores = s.stores ∧ (s.setPower f).imem = s.imem ∧ (s.setPower f).lr = s.lr
      ∧ (s.setPower f).side = s.side ∧ (s.setPower f).long = s.long ∧ (s.setPower f).ops = s.ops
      ∧ (s.setPower f).txq = s.txq ∧ (s.setPower f).relays = s.relays ∧ (s.setPower f).bindings = s.bindings
      ∧ (s.setPower f).qstatus = s.qstatus ∧ (s.setPower f).qflight = s.qflight ∧ (s.setPower f).routes = s.routes
      ∧ (s.setPower f).groups = s.groups ∧ (s.setPower f).ports = s.ports ∧ (s.setPower f).staged = s.staged
      ∧ (s.setPower f).addWait = s.addWait ∧ (s.setPower f).mesh = s.mesh ∧ (s.setPower f).barriers = s.barriers
      ∧ (s.setPower f).barCol = s.barCol ∧ (s.setPower f).orderCount = s.orderCount ∧ (s.setPower f).ranks = s.ranks
      ∧ (s.setPower f).shutter = s.shutter ∧ (s.setPower f).cuts = s.cuts ∧ (s.setPower f).armedCut = s.armedCut
      ∧ (s.setPower f).drains = s.drains ∧ (s.setPower f).repair = s.repair ∧ (s.setPower f).obs = s.obs
      ∧ (s.setPower f).dict = s.dict ∧ (s.setPower f).boot = s.boot ∧ (s.setPower f).host = s.host
      ∧ (s.setPower f).resp = s.resp ∧ (s.setPower f).freeCtr = s.freeCtr := by
  refine ⟨rfl, rfl, rfl, rfl, rfl, rfl, rfl, rfl, rfl, rfl, rfl, rfl, rfl, rfl, rfl, rfl, rfl, rfl, rfl, rfl, rfl, rfl, rfl, rfl, rfl, rfl, rfl, rfl, rfl, rfl, rfl, rfl, rfl, rfl, rfl, rfl, rfl, rfl⟩

@[simp] theorem State.setHost_frame (s : State) (f : HostIf → HostIf) :
    (s.setHost f).pending = s.pending ∧ (s.setHost f).time = s.time ∧ (s.setHost f).cores = s.cores
      ∧ (s.setHost f).clusters = s.clusters ∧ (s.setHost f).dies = s.dies ∧ (s.setHost f).ctxs = s.ctxs
      ∧ (s.setHost f).stores = s.stores ∧ (s.setHost f).imem = s.imem ∧ (s.setHost f).lr = s.lr
      ∧ (s.setHost f).side = s.side ∧ (s.setHost f).long = s.long ∧ (s.setHost f).ops = s.ops
      ∧ (s.setHost f).txq = s.txq ∧ (s.setHost f).relays = s.relays ∧ (s.setHost f).bindings = s.bindings
      ∧ (s.setHost f).qstatus = s.qstatus ∧ (s.setHost f).qflight = s.qflight ∧ (s.setHost f).routes = s.routes
      ∧ (s.setHost f).groups = s.groups ∧ (s.setHost f).ports = s.ports ∧ (s.setHost f).staged = s.staged
      ∧ (s.setHost f).addWait = s.addWait ∧ (s.setHost f).mesh = s.mesh ∧ (s.setHost f).barriers = s.barriers
      ∧ (s.setHost f).barCol = s.barCol ∧ (s.setHost f).orderCount = s.orderCount ∧ (s.setHost f).ranks = s.ranks
      ∧ (s.setHost f).shutter = s.shutter ∧ (s.setHost f).cuts = s.cuts ∧ (s.setHost f).armedCut = s.armedCut
      ∧ (s.setHost f).drains = s.drains ∧ (s.setHost f).repair = s.repair ∧ (s.setHost f).obs = s.obs
      ∧ (s.setHost f).dict = s.dict ∧ (s.setHost f).boot = s.boot ∧ (s.setHost f).power = s.power
      ∧ (s.setHost f).resp = s.resp ∧ (s.setHost f).freeCtr = s.freeCtr := by
  refine ⟨rfl, rfl, rfl, rfl, rfl, rfl, rfl, rfl, rfl, rfl, rfl, rfl, rfl, rfl, rfl, rfl, rfl, rfl, rfl, rfl, rfl, rfl, rfl, rfl, rfl, rfl, rfl, rfl, rfl, rfl, rfl, rfl, rfl, rfl, rfl, rfl, rfl, rfl⟩

@[simp] theorem State.wrLocal_frame (s : State) (n a : Nat) (d : List Byte) :
    (s.wrLocal n a d).pending = s.pending ∧ (s.wrLocal n a d).time = s.time ∧ (s.wrLocal n a d).cores = s.cores
      ∧ (s.wrLocal n a d).clusters = s.clusters ∧ (s.wrLocal n a d).dies = s.dies ∧ (s.wrLocal n a d).ctxs = s.ctxs
      ∧ (s.wrLocal n a d).imem = s.imem ∧ (s.wrLocal n a d).lr = s.lr ∧ (s.wrLocal n a d).side = s.side
      ∧ (s.wrLocal n a d).long = s.long ∧ (s.wrLocal n a d).ops = s.ops ∧ (s.wrLocal n a d).txq = s.txq
      ∧ (s.wrLocal n a d).relays = s.relays ∧ (s.wrLocal n a d).bindings = s.bindings
      ∧ (s.wrLocal n a d).qstatus = s.qstatus ∧ (s.wrLocal n a d).qflight = s.qflight
      ∧ (s.wrLocal n a d).routes = s.routes ∧ (s.wrLocal n a d).groups = s.groups ∧ (s.wrLocal n a d).ports = s.ports
      ∧ (s.wrLocal n a d).staged = s.staged ∧ (s.wrLocal n a d).addWait = s.addWait ∧ (s.wrLocal n a d).mesh = s.mesh
      ∧ (s.wrLocal n a d).barriers = s.barriers ∧ (s.wrLocal n a d).barCol = s.barCol
      ∧ (s.wrLocal n a d).orderCount = s.orderCount ∧ (s.wrLocal n a d).ranks = s.ranks
      ∧ (s.wrLocal n a d).shutter = s.shutter ∧ (s.wrLocal n a d).cuts = s.cuts
      ∧ (s.wrLocal n a d).armedCut = s.armedCut ∧ (s.wrLocal n a d).drains = s.drains
      ∧ (s.wrLocal n a d).repair = s.repair ∧ (s.wrLocal n a d).obs = s.obs ∧ (s.wrLocal n a d).dict = s.dict
      ∧ (s.wrLocal n a d).boot = s.boot ∧ (s.wrLocal n a d).host = s.host ∧ (s.wrLocal n a d).power = s.power
      ∧ (s.wrLocal n a d).resp = s.resp ∧ (s.wrLocal n a d).freeCtr = s.freeCtr := by
  refine ⟨rfl, rfl, rfl, rfl, rfl, rfl, rfl, rfl, rfl, rfl, rfl, rfl, rfl, rfl, rfl, rfl, rfl, rfl, rfl, rfl, rfl, rfl, rfl, rfl, rfl, rfl, rfl, rfl, rfl, rfl, rfl, rfl, rfl, rfl, rfl, rfl, rfl, rfl⟩

@[simp] theorem State.wrLong_frame (s : State) (a : Nat) (d : List Byte) :
    (s.wrLong a d).pending = s.pending ∧ (s.wrLong a d).time = s.time ∧ (s.wrLong a d).cores = s.cores
      ∧ (s.wrLong a d).clusters = s.clusters ∧ (s.wrLong a d).dies = s.dies ∧ (s.wrLong a d).ctxs = s.ctxs
      ∧ (s.wrLong a d).stores = s.stores ∧ (s.wrLong a d).imem = s.imem ∧ (s.wrLong a d).side = s.side
      ∧ (s.wrLong a d).long = s.long ∧ (s.wrLong a d).ops = s.ops ∧ (s.wrLong a d).txq = s.txq
      ∧ (s.wrLong a d).relays = s.relays ∧ (s.wrLong a d).bindings = s.bindings ∧ (s.wrLong a d).qstatus = s.qstatus
      ∧ (s.wrLong a d).qflight = s.qflight ∧ (s.wrLong a d).routes = s.routes ∧ (s.wrLong a d).groups = s.groups
      ∧ (s.wrLong a d).ports = s.ports ∧ (s.wrLong a d).staged = s.staged ∧ (s.wrLong a d).addWait = s.addWait
      ∧ (s.wrLong a d).mesh = s.mesh ∧ (s.wrLong a d).barriers = s.barriers ∧ (s.wrLong a d).barCol = s.barCol
      ∧ (s.wrLong a d).orderCount = s.orderCount ∧ (s.wrLong a d).ranks = s.ranks ∧ (s.wrLong a d).shutter = s.shutter
      ∧ (s.wrLong a d).cuts = s.cuts ∧ (s.wrLong a d).armedCut = s.armedCut ∧ (s.wrLong a d).drains = s.drains
      ∧ (s.wrLong a d).repair = s.repair ∧ (s.wrLong a d).obs = s.obs ∧ (s.wrLong a d).dict = s.dict
      ∧ (s.wrLong a d).boot = s.boot ∧ (s.wrLong a d).host = s.host ∧ (s.wrLong a d).power = s.power
      ∧ (s.wrLong a d).resp = s.resp ∧ (s.wrLong a d).freeCtr = s.freeCtr := by
  refine ⟨rfl, rfl, rfl, rfl, rfl, rfl, rfl, rfl, rfl, rfl, rfl, rfl, rfl, rfl, rfl, rfl, rfl, rfl, rfl, rfl, rfl, rfl, rfl, rfl, rfl, rfl, rfl, rfl, rfl, rfl, rfl, rfl, rfl, rfl, rfl, rfl, rfl, rfl⟩

@[simp] theorem State.wrSide_frame (s : State) (a : Nat) (d : List Byte) :
    (s.wrSide a d).pending = s.pending ∧ (s.wrSide a d).time = s.time ∧ (s.wrSide a d).cores = s.cores
      ∧ (s.wrSide a d).clusters = s.clusters ∧ (s.wrSide a d).dies = s.dies ∧ (s.wrSide a d).ctxs = s.ctxs
      ∧ (s.wrSide a d).stores = s.stores ∧ (s.wrSide a d).imem = s.imem ∧ (s.wrSide a d).lr = s.lr
      ∧ (s.wrSide a d).long = s.long ∧ (s.wrSide a d).ops = s.ops ∧ (s.wrSide a d).txq = s.txq
      ∧ (s.wrSide a d).relays = s.relays ∧ (s.wrSide a d).bindings = s.bindings ∧ (s.wrSide a d).qstatus = s.qstatus
      ∧ (s.wrSide a d).qflight = s.qflight ∧ (s.wrSide a d).routes = s.routes ∧ (s.wrSide a d).groups = s.groups
      ∧ (s.wrSide a d).ports = s.ports ∧ (s.wrSide a d).staged = s.staged ∧ (s.wrSide a d).addWait = s.addWait
      ∧ (s.wrSide a d).mesh = s.mesh ∧ (s.wrSide a d).barriers = s.barriers ∧ (s.wrSide a d).barCol = s.barCol
      ∧ (s.wrSide a d).orderCount = s.orderCount ∧ (s.wrSide a d).ranks = s.ranks ∧ (s.wrSide a d).shutter = s.shutter
      ∧ (s.wrSide a d).cuts = s.cuts ∧ (s.wrSide a d).armedCut = s.armedCut ∧ (s.wrSide a d).drains = s.drains
      ∧ (s.wrSide a d).repair = s.repair ∧ (s.wrSide a d).obs = s.obs ∧ (s.wrSide a d).dict = s.dict
      ∧ (s.wrSide a d).boot = s.boot ∧ (s.wrSide a d).host = s.host ∧ (s.wrSide a d).power = s.power
      ∧ (s.wrSide a d).resp = s.resp ∧ (s.wrSide a d).freeCtr = s.freeCtr := by
  refine ⟨rfl, rfl, rfl, rfl, rfl, rfl, rfl, rfl, rfl, rfl, rfl, rfl, rfl, rfl, rfl, rfl, rfl, rfl, rfl, rfl, rfl, rfl, rfl, rfl, rfl, rfl, rfl, rfl, rfl, rfl, rfl, rfl, rfl, rfl, rfl, rfl, rfl, rfl⟩

@[simp] theorem State.sendVia_frame (s : State) (f : Frame) (q h : Nat) (d : Option Nat) :
    (s.sendVia f q h d).pending = s.pending ∧ (s.sendVia f q h d).time = s.time ∧ (s.sendVia f q h d).cores = s.cores
      ∧ (s.sendVia f q h d).clusters = s.clusters ∧ (s.sendVia f q h d).dies = s.dies
      ∧ (s.sendVia f q h d).ctxs = s.ctxs ∧ (s.sendVia f q h d).stores = s.stores ∧ (s.sendVia f q h d).imem = s.imem
      ∧ (s.sendVia f q h d).lr = s.lr ∧ (s.sendVia f q h d).side = s.side ∧ (s.sendVia f q h d).long = s.long
      ∧ (s.sendVia f q h d).ops = s.ops ∧ (s.sendVia f q h d).relays = s.relays
      ∧ (s.sendVia f q h d).bindings = s.bindings ∧ (s.sendVia f q h d).qstatus = s.qstatus
      ∧ (s.sendVia f q h d).qflight = s.qflight ∧ (s.sendVia f q h d).routes = s.routes
      ∧ (s.sendVia f q h d).groups = s.groups ∧ (s.sendVia f q h d).ports = s.ports
      ∧ (s.sendVia f q h d).staged = s.staged ∧ (s.sendVia f q h d).addWait = s.addWait
      ∧ (s.sendVia f q h d).mesh = s.mesh ∧ (s.sendVia f q h d).barriers = s.barriers
      ∧ (s.sendVia f q h d).barCol = s.barCol ∧ (s.sendVia f q h d).orderCount = s.orderCount
      ∧ (s.sendVia f q h d).ranks = s.ranks ∧ (s.sendVia f q h d).shutter = s.shutter
      ∧ (s.sendVia f q h d).cuts = s.cuts ∧ (s.sendVia f q h d).armedCut = s.armedCut
      ∧ (s.sendVia f q h d).drains = s.drains ∧ (s.sendVia f q h d).repair = s.repair
      ∧ (s.sendVia f q h d).obs = s.obs ∧ (s.sendVia f q h d).dict = s.dict ∧ (s.sendVia f q h d).boot = s.boot
      ∧ (s.sendVia f q h d).host = s.host ∧ (s.sendVia f q h d).power = s.power ∧ (s.sendVia f q h d).resp = s.resp
      ∧ (s.sendVia f q h d).freeCtr = s.freeCtr := by
  refine ⟨rfl, rfl, rfl, rfl, rfl, rfl, rfl, rfl, rfl, rfl, rfl, rfl, rfl, rfl, rfl, rfl, rfl, rfl, rfl, rfl, rfl, rfl, rfl, rfl, rfl, rfl, rfl, rfl, rfl, rfl, rfl, rfl, rfl, rfl, rfl, rfl, rfl, rfl⟩

@[simp] theorem State.takeRequest_frame (s : State) :
    s.takeRequest.pending = s.pending ∧ s.takeRequest.time = s.time ∧ s.takeRequest.cores = s.cores
      ∧ s.takeRequest.clusters = s.clusters ∧ s.takeRequest.dies = s.dies ∧ s.takeRequest.ctxs = s.ctxs
      ∧ s.takeRequest.stores = s.stores ∧ s.takeRequest.imem = s.imem ∧ s.takeRequest.lr = s.lr
      ∧ s.takeRequest.side = s.side ∧ s.takeRequest.long = s.long ∧ s.takeRequest.ops = s.ops
      ∧ s.takeRequest.txq = s.txq ∧ s.takeRequest.relays = s.relays ∧ s.takeRequest.bindings = s.bindings
      ∧ s.takeRequest.qstatus = s.qstatus ∧ s.takeRequest.qflight = s.qflight ∧ s.takeRequest.routes = s.routes
      ∧ s.takeRequest.groups = s.groups ∧ s.takeRequest.ports = s.ports ∧ s.takeRequest.staged = s.staged
      ∧ s.takeRequest.addWait = s.addWait ∧ s.takeRequest.mesh = s.mesh ∧ s.takeRequest.barriers = s.barriers
      ∧ s.takeRequest.barCol = s.barCol ∧ s.takeRequest.orderCount = s.orderCount ∧ s.takeRequest.ranks = s.ranks
      ∧ s.takeRequest.shutter = s.shutter ∧ s.takeRequest.cuts = s.cuts ∧ s.takeRequest.armedCut = s.armedCut
      ∧ s.takeRequest.drains = s.drains ∧ s.takeRequest.repair = s.repair ∧ s.takeRequest.obs = s.obs
      ∧ s.takeRequest.boot = s.boot ∧ s.takeRequest.host = s.host ∧ s.takeRequest.power = s.power
      ∧ s.takeRequest.resp = s.resp ∧ s.takeRequest.freeCtr = s.freeCtr := by
  refine ⟨rfl, rfl, rfl, rfl, rfl, rfl, rfl, rfl, rfl, rfl, rfl, rfl, rfl, rfl, rfl, rfl, rfl, rfl, rfl, rfl, rfl, rfl, rfl, rfl, rfl, rfl, rfl, rfl, rfl, rfl, rfl, rfl, rfl, rfl, rfl, rfl, rfl, rfl⟩

@[simp] theorem State.rest_frame (s : State) (q : List Instr) :
    (s.rest q).time = s.time ∧ (s.rest q).cores = s.cores ∧ (s.rest q).clusters = s.clusters
      ∧ (s.rest q).dies = s.dies ∧ (s.rest q).ctxs = s.ctxs ∧ (s.rest q).stores = s.stores ∧ (s.rest q).imem = s.imem
      ∧ (s.rest q).lr = s.lr ∧ (s.rest q).side = s.side ∧ (s.rest q).long = s.long ∧ (s.rest q).ops = s.ops
      ∧ (s.rest q).txq = s.txq ∧ (s.rest q).relays = s.relays ∧ (s.rest q).bindings = s.bindings
      ∧ (s.rest q).qstatus = s.qstatus ∧ (s.rest q).qflight = s.qflight ∧ (s.rest q).routes = s.routes
      ∧ (s.rest q).groups = s.groups ∧ (s.rest q).ports = s.ports ∧ (s.rest q).staged = s.staged
      ∧ (s.rest q).addWait = s.addWait ∧ (s.rest q).mesh = s.mesh ∧ (s.rest q).barriers = s.barriers
      ∧ (s.rest q).barCol = s.barCol ∧ (s.rest q).orderCount = s.orderCount ∧ (s.rest q).ranks = s.ranks
      ∧ (s.rest q).shutter = s.shutter ∧ (s.rest q).cuts = s.cuts ∧ (s.rest q).armedCut = s.armedCut
      ∧ (s.rest q).drains = s.drains ∧ (s.rest q).repair = s.repair ∧ (s.rest q).obs = s.obs
      ∧ (s.rest q).dict = s.dict ∧ (s.rest q).boot = s.boot ∧ (s.rest q).host = s.host ∧ (s.rest q).power = s.power
      ∧ (s.rest q).resp = s.resp ∧ (s.rest q).freeCtr = s.freeCtr := by
  refine ⟨rfl, rfl, rfl, rfl, rfl, rfl, rfl, rfl, rfl, rfl, rfl, rfl, rfl, rfl, rfl, rfl, rfl, rfl, rfl, rfl, rfl, rfl, rfl, rfl, rfl, rfl, rfl, rfl, rfl, rfl, rfl, rfl, rfl, rfl, rfl, rfl, rfl, rfl⟩

/-! ## The field that it writes -/

theorem State.getCore_setCore (s : State) (n m : Nat) (x : Core) :
    (s.setCore n x).getCore m = if m = n then x else s.getCore m := tblGet_set coreD _ n m x
@[simp] theorem State.getCore_setCore_same (s : State) (n : Nat) (x : Core) : (s.setCore n x).getCore n = x :=
  tblGet_set_same coreD _ n x
theorem State.getCore_setCore_other (s : State) {n m : Nat} (x : Core) (h : m ≠ n) :
    (s.setCore n x).getCore m = s.getCore m := tblGet_set_other coreD _ x h

theorem State.getCluster_setCluster (s : State) (n m : Nat) (x : Cluster) :
    (s.setCluster n x).getCluster m = if m = n then x else s.getCluster m := tblGet_set clusterD _ n m x
@[simp] theorem State.getCluster_setCluster_same (s : State) (n : Nat) (x : Cluster) : (s.setCluster n x).getCluster n = x :=
  tblGet_set_same clusterD _ n x
theorem State.getCluster_setCluster_other (s : State) {n m : Nat} (x : Cluster) (h : m ≠ n) :
    (s.setCluster n x).getCluster m = s.getCluster m := tblGet_set_other clusterD _ x h

theorem State.getDie_setDie (s : State) (n m : Nat) (x : Die) :
    (s.setDie n x).getDie m = if m = n then x else s.getDie m := tblGet_set dieD _ n m x
@[simp] theorem State.getDie_setDie_same (s : State) (n : Nat) (x : Die) : (s.setDie n x).getDie n = x :=
  tblGet_set_same dieD _ n x
theorem State.getDie_setDie_other (s : State) {n m : Nat} (x : Die) (h : m ≠ n) :
    (s.setDie n x).getDie m = s.getDie m := tblGet_set_other dieD _ x h

theorem State.getCtx_setCtx (s : State) (n m : Nat) (x : Ctx) :
    (s.setCtx n x).getCtx m = if m = n then x else s.getCtx m := tblGet_set ctxD _ n m x
@[simp] theorem State.getCtx_setCtx_same (s : State) (n : Nat) (x : Ctx) : (s.setCtx n x).getCtx n = x :=
  tblGet_set_same ctxD _ n x
theorem State.getCtx_setCtx_other (s : State) {n m : Nat} (x : Ctx) (h : m ≠ n) :
    (s.setCtx n x).getCtx m = s.getCtx m := tblGet_set_other ctxD _ x h

theorem State.getPort_setPort (s : State) (n m : Nat) (x : Port) :
    (s.setPort n x).getPort m = if m = n then x else s.getPort m := tblGet_set portD _ n m x
@[simp] theorem State.getPort_setPort_same (s : State) (n : Nat) (x : Port) : (s.setPort n x).getPort n = x :=
  tblGet_set_same portD _ n x
theorem State.getPort_setPort_other (s : State) {n m : Nat} (x : Port) (h : m ≠ n) :
    (s.setPort n x).getPort m = s.getPort m := tblGet_set_other portD _ x h

theorem State.getPage_setPage (s : State) (n m : Nat) (x : PageInfo) :
    (s.setPage n x).getPage m = if m = n then x else s.getPage m := tblGet_set pageD _ n m x
@[simp] theorem State.getPage_setPage_same (s : State) (n : Nat) (x : PageInfo) : (s.setPage n x).getPage n = x :=
  tblGet_set_same pageD _ n x
theorem State.getPage_setPage_other (s : State) {n m : Nat} (x : PageInfo) (h : m ≠ n) :
    (s.setPage n x).getPage m = s.getPage m := tblGet_set_other pageD _ x h

theorem State.getChan_setChan (s : State) (n m : Nat) (x : Channel) :
    (s.setChan n x).getChan m = if m = n then x else s.getChan m := tblGet_set chanD _ n m x
@[simp] theorem State.getChan_setChan_same (s : State) (n : Nat) (x : Channel) : (s.setChan n x).getChan n = x :=
  tblGet_set_same chanD _ n x
theorem State.getChan_setChan_other (s : State) {n m : Nat} (x : Channel) (h : m ≠ n) :
    (s.setChan n x).getChan m = s.getChan m := tblGet_set_other chanD _ x h

theorem State.getQ_setQ (s : State) (n m : Nat) (x : HostQ) :
    (s.setQ n x).getQ m = if m = n then x else s.getQ m := tblGet_set hostQD _ n m x
@[simp] theorem State.getQ_setQ_same (s : State) (n : Nat) (x : HostQ) : (s.setQ n x).getQ n = x :=
  tblGet_set_same hostQD _ n x
theorem State.getQ_setQ_other (s : State) {n m : Nat} (x : HostQ) (h : m ≠ n) :
    (s.setQ n x).getQ m = s.getQ m := tblGet_set_other hostQD _ x h

theorem State.barrier_setBarrier (s : State) (n m : Nat) (x : BitVec 512) :
    (s.setBarrier n x).barrier m = if m = n then x else s.barrier m := tblGet_set barrierD _ n m x
@[simp] theorem State.barrier_setBarrier_same (s : State) (n : Nat) (x : BitVec 512) : (s.setBarrier n x).barrier n = x :=
  tblGet_set_same barrierD _ n x

theorem State.barCollect_setBarCollect (s : State) (n m : Nat) (x : BarrierCol) :
    (s.setBarCollect n x).barCollect m = if m = n then x else s.barCollect m := tblGet_set barColD _ n m x
@[simp] theorem State.barCollect_setBarCollect_same (s : State) (n : Nat) (x : BarrierCol) : (s.setBarCollect n x).barCollect n = x :=
  tblGet_set_same barColD _ n x

theorem State.watch_setWatch (s : State) (n m : Nat) (x : BitVec 512) :
    (s.setWatch n x).watch m = if m = n then x else s.watch m := tblGet_set w512z _ n m x
@[simp] theorem State.watch_setWatch_same (s : State) (n : Nat) (x : BitVec 512) : (s.setWatch n x).watch n = x :=
  tblGet_set_same w512z _ n x

theorem odKey_inj {i j k l : Nat} (hk : k < 256) (hl : l < 256) (h : odKey i k = odKey j l) : i = j ∧ k = l := by
  unfold odKey at h; omega

/-- An entry just written reads as the value, modulo 2^64. -/
@[simp] theorem State.od_setOd_same (s : State) (i k v : Nat) : (s.setOd i k v).od i k = v % 2 ^ 64 := by
  simp [State.od, State.setOd]

/-- Every other entry reads as before. -/
theorem State.od_setOd_other (s : State) {i k j l : Nat} (v : Nat) (h : odKey j l ≠ odKey i k) :
    (s.setOd i k v).od j l = s.od j l := by
  simp [State.od, State.setOd, tblGet_set_other odReset _ _ h]

@[simp] theorem State.status_resp (s : State) (st : Nat) :
    (s.status st).resp = { status := BitVec.ofNat 8 st, abort := 0, data := [] } := rfl
@[simp] theorem State.answer_resp (s : State) (st : Nat) (d : List Byte) :
    (s.answer st d).resp = { status := BitVec.ofNat 8 st, abort := 0, data := d } := rfl
@[simp] theorem State.setTime_time (s : State) (f : TimeBase → TimeBase) : (s.setTime f).time = f s.time := rfl
@[simp] theorem State.setPower_power (s : State) (f : Power → Power) : (s.setPower f).power = f s.power := rfl
@[simp] theorem State.setHost_host (s : State) (f : HostIf → HostIf) : (s.setHost f).host = f s.host := rfl
@[simp] theorem State.rest_pending (s : State) (q : List Instr) : (s.rest q).pending = q := rfl

/-- A draw shows a later cycle of the running tick; the point in time and every setting of the time base stay. -/
@[simp] theorem State.draw_now (s : State) : s.draw.now = s.now := rfl
@[simp] theorem State.draw_time (s : State) : ∃ c, s.draw.time = { s.time with shownCc := c } := ⟨_, rfl⟩

/-- A unit read through a state that differs in other fields only. -/
theorem State.getCore_of_cores {s t : State} (h : t.cores = s.cores) (n : Nat) : t.getCore n = s.getCore n := by
  simp [State.getCore, h]
theorem State.getCtx_of_ctxs {s t : State} (h : t.ctxs = s.ctxs) (n : Nat) : t.getCtx n = s.getCtx n := by
  simp [State.getCtx, h]
theorem State.getCluster_of_clusters {s t : State} (h : t.clusters = s.clusters) (n : Nat) :
    t.getCluster n = s.getCluster n := by simp [State.getCluster, h]
theorem State.getPort_of_ports {s t : State} (h : t.ports = s.ports) (n : Nat) : t.getPort n = s.getPort n := by
  simp [State.getPort, h]

end Sys2Proof.Machine
end

