-- ==== Sys2Proof/Laws/Ops.lean ====
section
/-!
SUPPORT. What the shared operations can do, said once each: which parts of the state an operation writes, every other part
being left as it was (`f_only`), and the two ends of a structure write.
-/

namespace Sys2Proof.Machine

/-! ## Dictionary, pins, events -/

theorem State.setOd_only (s : State) (i k v : Nat) : ∃ d, s.setOd i k v = { s with dict := d } := ⟨_, rfl⟩

theorem State.addOd_only (s : State) (i k n : Nat) : ∃ d, s.addOd i k n = { s with dict := d } := by
  unfold State.addOd; dsimp only; split <;> exact ⟨_, rfl⟩

theorem State.setBus_only (s : State) (b : Nat) (v : Bus) : ∃ d, s.setBus b v = { s with dict := d } := by
  unfold State.setBus; split <;> exact ⟨_, rfl⟩

theorem State.msixEvent_only (s : State) (c k : Nat) : ∃ h, s.msixEvent c k = { s with host := h } := by
  unfold State.msixEvent; dsimp only; split <;> exact ⟨_, rfl⟩

theorem State.canQueue_only (s : State) (b : Nat) (m : CanMsg) : ∃ d, s.canQueue b m = { s with dict := d } := by
  have h : ∃ d, (if (s.bus b).bucket = 0 then s.addOd 0x2110 8 1 else s) = { s with dict := d } := by
    split
    · exact s.addOd_only _ _ _
    · exact ⟨_, rfl⟩
  unfold State.canQueue
  obtain ⟨d, e⟩ := h
  dsimp only
  split
  · exact ⟨_, rfl⟩
  · split
    · split
      · exact s.addOd_only _ _ _
      · exact ⟨_, rfl⟩
    · rw [e]
      obtain ⟨d', e'⟩ := ({ s with dict := d } : State).setBus_only b
        { ({ s with dict := d } : State).bus b with queue := (({ s with dict := d } : State).bus b).queue ++ [m] }
      exact ⟨d', e'⟩

theorem State.msixFold_only (l : Tbl W64) (k : Nat) (s : State) :
    ∃ h, l.foldl (fun s (e : Nat × W64) => s.msixEvent e.1 k) s = { s with host := h } := by
  induction l generalizing s with
  | nil => exact ⟨_, rfl⟩
  | cons e r ih =>
    obtain ⟨h, eh⟩ := s.msixEvent_only e.1 k
    obtain ⟨h', eh'⟩ := ih { s with host := h }
    exact ⟨h', by rw [List.foldl_cons, eh]; exact eh'⟩

/-- An EMCY message writes the dictionary's part (its history and the bus queues) and the vectors that wait, nothing else. -/
theorem State.emcy_only (s : State) (code detail : Nat) :
    ∃ d h, s.emcy code detail = { s with dict := d, host := h } := by
  unfold State.emcy
  dsimp only
  generalize hm : CanMsg.mk 1 _ _ = m
  obtain ⟨d1, e1⟩ := ({ s with dict := { s.dict with history := (BitVec.ofNat 16 code :: s.dict.history).take 16 } } : State).canQueue_only 0 m
  rw [e1]
  obtain ⟨d2, e2⟩ := ({ s with dict := d1 } : State).canQueue_only 1 m
  have e2' : State.canQueue { s with dict := d1 } 1 m = { s with dict := d2 } := e2
  simp only [e2']
  obtain ⟨h, eh⟩ := State.msixFold_only s.host.eventMap 6 { s with dict := d2 }
  exact ⟨d2, h, eh⟩

theorem State.errOn_only (s : State) (b : Nat) : ∃ d, s.errOn b = { s with dict := d } := ⟨_, rfl⟩

theorem State.errOff_only (s : State) (b : Nat) : ∃ d h, s.errOff b = { s with dict := d, host := h } := by
  unfold State.errOff
  dsimp only
  split
  · exact ⟨_, _, rfl⟩
  · obtain ⟨d, h, e⟩ := ({ s with dict := { s.dict with errReg := errWith s.dict.errReg b false } } : State).emcy_only 0 0
    exact ⟨d, h, e⟩

theorem State.alertOn_only (s : State) (c : Nat) : ∃ p, s.alertOn c = { s with power := p } := by
  unfold State.alertOn; split <;> exact ⟨_, rfl⟩
theorem State.alertOff_only (s : State) (c : Nat) : ∃ p, s.alertOff c = { s with power := p } := ⟨_, rfl⟩

/-- The end of a dictionary access writes the answer and the count of aborts. -/
theorem State.endAccess_only (s : State) (ab : Nat) (d : List Byte) :
    ∃ x, s.endAccess ab d = { s with dict := x, resp := { status := 0, abort := BitVec.ofNat 32 ab, data := d } } := by
  unfold State.endAccess
  dsimp only
  split
  · exact ⟨_, rfl⟩
  · obtain ⟨x, e⟩ := ({ s with resp := { status := 0, abort := BitVec.ofNat 32 ab, data := d } } : State).addOd_only 0x2001 0xD 1
    exact ⟨x, e⟩

theorem State.abort_only (s : State) (ab : Nat) :
    ∃ x, s.abort ab = { s with dict := x, resp := { status := 0, abort := BitVec.ofNat 32 ab, data := [] } } := by
  obtain ⟨x, e⟩ := s.endAccess_only ab []
  unfold State.abort
  simp only [e]
  split <;> exact ⟨_, rfl⟩

/-! ## Trace -/

/-- A lost record is counted in its cluster's bank and in 2900h. -/
theorem State.traceLose_only (s : State) (n : Nat) : ∃ c d, s.traceLose n = { s with clusters := c, dict := d } := by
  obtain ⟨d, e⟩ := State.addOd_only (s.modCluster n fun c =>
    { c with traceBank := setFld c.traceBank 319 288 (fld c.traceBank 319 288 + 1) }) 0x2900 2 1
  exact ⟨_, d, e⟩

theorem State.lossRecord_only (s : State) (n : Nat) : ∃ c, s.lossRecord n = { s with clusters := c } := ⟨_, rfl⟩

/-- A record writes its cluster's buffer and, where it is lost, the counts of that. -/
theorem State.tracePush_only (s : State) (n : Nat) (r : W128) :
    ∃ c d, s.tracePush n r = { s with clusters := c, dict := d } := by
  obtain ⟨c0, e0⟩ := s.lossRecord_only n
  have lose : ∀ t : State, (∃ c, t = { s with clusters := c }) → ∃ c d, t.traceLose n = { s with clusters := c, dict := d } := by
    rintro t ⟨c, rfl⟩
    obtain ⟨c', d, e⟩ := State.traceLose_only { s with clusters := c } n
    exact ⟨c', d, e⟩
  unfold State.tracePush
  simp only [e0]
  split
  · exact ⟨_, _, rfl⟩
  · split
    · split
      · exact ⟨_, _, rfl⟩
      · exact lose _ ⟨_, rfl⟩
    · split
      · exact lose _ ⟨_, rfl⟩
      · exact ⟨_, _, rfl⟩

theorem State.trace_only (s : State) (a b c d : Nat) : ∃ k x, s.trace a b c d = { s with clusters := k, dict := x } :=
  s.tracePush_only _ _

theorem State.traceFold_only (l : List Nat) (a b c : Nat) (s : State) :
    ∃ k d, l.foldl (fun s n => s.trace n a b c) s = { s with clusters := k, dict := d } := by
  induction l generalizing s with
  | nil => exact ⟨_, _, rfl⟩
  | cons n r ih =>
    obtain ⟨k, d, e⟩ := s.trace_only n a b c
    obtain ⟨k', d', e'⟩ := ih { s with clusters := k, dict := d }
    exact ⟨k', d', by rw [List.foldl_cons, e]; exact e'⟩

theorem State.fold3_only {α : Type} {f : State → α → State}
    (hf : ∀ s a, ∃ k d h, f s a = { s with clusters := k, dict := d, host := h }) (l : List α) (s : State) :
    ∃ k d h, l.foldl f s = { s with clusters := k, dict := d, host := h } := by
  induction l generalizing s with
  | nil => exact ⟨_, _, _, rfl⟩
  | cons n r ih =>
    obtain ⟨k, d, h, e⟩ := hf s n
    obtain ⟨k', d', h', e'⟩ := ih { s with clusters := k, dict := d, host := h }
    exact ⟨k', d', h', by rw [List.foldl_cons, e]; exact e'⟩

theorem State.fired_only (s : State) (n ctx : Nat) (c : Cluster) :
    ∃ k d h, ((s.setCluster n c).addOd 0x2900 3 1).msixEvent ctx 3 = { s with clusters := k, dict := d, host := h } := by
  obtain ⟨d, e⟩ := State.addOd_only (s.setCluster n c) 0x2900 3 1
  rw [e]
  obtain ⟨h, eh⟩ := State.msixEvent_only { s.setCluster n c with dict := d } ctx 3
  exact ⟨_, d, h, eh⟩

/-- A trigger writes trace buffers, the trace counters of the dictionary and waiting vectors. -/
theorem State.fireIn_only (l : List Nat) (ctx src : Nat) (p : BitVec 512 → Bool) (s : State) :
    ∃ k d h, s.fireIn l ctx src p = { s with clusters := k, dict := d, host := h } := by
  unfold State.fireIn
  refine State.fold3_only (fun s n => ?_) l s
  dsimp only
  split
  · split
    · exact State.fired_only _ _ _ _
    · split
      · obtain ⟨d, e⟩ := s.addOd_only 0x2900 4 1
        exact ⟨_, d, _, e⟩
      · exact ⟨_, _, _, rfl⟩
  · exact ⟨_, _, _, rfl⟩

theorem State.fireTrigger_only (s : State) (ctx src : Nat) :
    ∃ k d h, s.fireTrigger ctx src = { s with clusters := k, dict := d, host := h } := State.fireIn_only _ _ _ _ s

theorem State.repairRecord_only (s : State) (c k l u : Nat) :
    ∃ x d h, s.repairRecord c k l u = { s with clusters := x, dict := d, host := h } := by
  unfold State.repairRecord
  obtain ⟨x, d, e⟩ := s.trace_only c 10 6 (repairWord k l u s.time.sweep * 2 ^ 16)
  simp only [e]
  split
  · obtain ⟨x', d', h', e'⟩ := State.fireTrigger_only { s with clusters := x, dict := d } ‹Nat› 2
    exact ⟨x', d', h', e'⟩
  · exact ⟨x, d, _, rfl⟩

/-! ## Contexts, cuts, frames, the journal -/

theorem State.cutNext_only (s : State) (mask reason : Nat) : ∃ c, s.cutNext mask reason = { s with cuts := c } := by
  unfold State.cutNext; split <;> exact ⟨_, rfl⟩

theorem State.cutCtx_only (s : State) (c : Option Nat) (reason : Nat) : ∃ x, s.cutCtx c reason = { s with cuts := x } := by
  cases c
  · exact ⟨_, rfl⟩
  · exact s.cutNext_only _ reason

theorem State.countSync_only (s : State) (c : Option Nat) (k : Nat) : ∃ x, s.countSync c k = { s with ctxs := x } := by
  cases c <;> exact ⟨_, rfl⟩

theorem State.dumpAfter_only (s : State) (c : Option Nat) (r k n : Nat) : ∃ x, s.dumpAfter c r k n = { s with ctxs := x } := by
  cases c <;> exact ⟨_, rfl⟩

theorem State.markReplay_only (s : State) (c : Option Nat) : ∃ x, s.markReplay c = { s with ctxs := x } := by
  cases c <;> exact ⟨_, rfl⟩

/-- A flash write draws from the governor or is held; the dictionary counts it, and a page that it evicts leaves the HBM (10 R223). -/
theorem State.flashWrite_only (s : State) (n : Nat) (p : Option Nat) :
    ∃ l d, s.flashWrite n p = { s with long := l, dict := d } := by
  unfold State.flashWrite
  dsimp only
  split
  · obtain ⟨d, e⟩ := State.addOd_only { s with long := { s.long with governor := s.long.governor - 4096 * n } } 0x2400 6 (4096 * n)
    rw [e]
    split <;> exact ⟨_, _, rfl⟩
  · obtain ⟨d, e⟩ := State.addOd_only { s with long := { s.long with heldWrites := s.long.heldWrites ++ [(n, p)] } } 0x2400 8 1
    exact ⟨_, d, e⟩

/-- A journal record is the newest one at once, whatever the governor does with its sector. -/
theorem State.journal_only (s : State) (a b c d e f : Nat) :
    ∃ l x, s.journal a b c d e f
      = { s with boot := { s.boot with journal := ⟨s.boot.boot, f, e, a, c, d, b⟩ :: s.boot.journal }, long := l, dict := x } := by
  obtain ⟨l, x, h⟩ := State.flashWrite_only { s with boot := { s.boot with
    journal := ⟨s.boot.boot, f, e, a, c, d, b⟩ :: s.boot.journal } } 1 none
  exact ⟨l, x, h⟩
theorem State.discard_only (s : State) : ∃ d, s.discard = { s with dict := d } := s.addOd_only _ _ _
theorem State.denial_only (s : State) : ∃ d, s.denial = { s with dict := d } := s.addOd_only _ _ _

theorem State.outsideWindow_only (s : State) (f : Frame) : ∃ d x, s.outsideWindow f = { s with dict := d, txq := x } := by
  obtain ⟨d, e⟩ := (s.reply f 6 stWindow).addOd_only 0x2200 8 1
  exact ⟨d, _, e⟩

/-! ## Counters of a core -/

/-- An increment writes one core and, at saturation, its context's count (12 R284). -/
theorem State.ctrRaise_only (s : State) (core k n : Nat) : ∃ c x, s.ctrRaise core k n = { s with cores := c, ctxs := x } := by
  unfold State.ctrRaise
  dsimp only
  split
  · exact ⟨_, _, rfl⟩
  · obtain ⟨x, e⟩ := State.countSync_only (s.setCore core
      { (s.getCore core).setCtr k (2 ^ 32 - 1) with sat := (s.getCore core).sat ||| BitVec.ofNat 48 (2 ^ k) })
      (s.ctxOfCore core) 3
    exact ⟨_, x, e⟩

theorem State.ctrAdd_only (s : State) (core k n : Nat) : ∃ c x, s.ctrAdd core k n = { s with cores := c, ctxs := x } := by
  obtain ⟨c, x, e⟩ := s.ctrRaise_only core k n
  unfold State.ctrAdd
  rw [e]
  exact ⟨_, x, rfl⟩

/-! ## Structure writes (00 R7) -/

/-- A structure write that every check accepts takes its effect and answers OK. -/
theorem State.structWrite_ok (s : State) {o : Origin} {check : Nat} (f : State → State) (ho : s.originStatus o = stOk)
    (hc : check = stOk) : s.structWrite o check f = (f s).status stOk := by
  simp [State.structWrite, ho, hc]

/-- A structure write that its structure refuses changes nothing but the answer. -/
theorem State.structWrite_refused (s : State) {o : Origin} {check : Nat} (f : State → State) (ho : s.originStatus o = stOk)
    (hc : check ≠ stOk) : s.structWrite o check f = s.status check := by
  simp [State.structWrite, ho, hc]

/-- The cycle that is shown lies within the running tick, and not before one that was shown already. -/
theorem State.tickCycle_bounds (s : State) :
    s.tickCycle < s.tickLength ∧ (s.time.shownCc < s.tickLength → s.time.shownCc ≤ s.tickCycle) := by
  have h : 0 < s.tickLength := by unfold State.tickLength; split <;> omega
  unfold State.tickCycle
  dsimp only
  generalize hm : min s.time.shownCc (s.tickLength - 1) = c
  have hl := Nat.mod_lt (Config.freeWord s.freeCtr).toNat (show 0 < s.tickLength - c by omega)
  omega

/-! ## Headers in memory -/

/-- A byte that no known header covers reads as the write left it. -/
theorem State.keepHeaders_free (old new : State) (k : Nat) (h : headerFree new k) : rdByte (old.keepHeaders new).lr k = rdByte new.lr k := by
  unfold State.keepHeaders
  have g : ∀ (l : List (Nat × W64 × Nat)) (t : State), (∀ x ∈ l, k < gaOffset x.2.1 ∨ gaOffset x.2.1 + headerBytes x.1 ≤ k) →
      rdByte (l.foldl (fun s h =>
        let off := gaOffset h.2.1
        let n := headerBytes h.1
        let a := leNat (old.rdLong off n)
        let b := leNat (s.rdLong off n)
        if gaModule h.2.1 ≠ s.moduleId ∨ gaSpace h.2.1 ≠ 0 ∨ a = b then s
        else s.wrLong off (leBytes n ((a &&& headerRo h.1) ||| (b - (b &&& headerRo h.1))))) t).lr k = rdByte t.lr k := by
    intro l
    induction l with
    | nil => intro t _; rfl
    | cons x r ih =>
      intro t hx
      rw [List.foldl_cons, ih _ (fun y hy => hx y (List.mem_cons_of_mem _ hy))]
      dsimp only
      split
      · rfl
      · refine rdByte_wrBytes_outside _ _ _ ?_
        rw [leBytes_length]
        exact hx x (List.mem_cons_self ..)
  refine g _ _ fun x hx => ?_
  obtain ⟨y, hy, hz⟩ := List.mem_flatMap.1 hx
  exact h y hy x hz

/-- What is put back depends on the long range, the module's number and the known headers. -/
theorem State.keepHeaders_lr (o1 o2 : State) (ho : o1.lr = o2.lr) (n1 n2 : State) (hl : n1.lr = n2.lr) (hm : n1.moduleId = n2.moduleId) (hc : n1.ctxs = n2.ctxs) :
    (o1.keepHeaders n1).lr = (o2.keepHeaders n2).lr := by
  unfold State.keepHeaders
  rw [hc]
  generalize (n2.ctxs.flatMap fun x => x.2.headers) = l
  clear hc
  induction l generalizing n1 n2 with
  | nil => exact hl
  | cons x r ih =>
    rw [List.foldl_cons, List.foldl_cons]
    dsimp only [State.rdLong]
    by_cases hp : gaModule x.2.1 ≠ n1.moduleId ∨ gaSpace x.2.1 ≠ 0 ∨ leNat (rdBytes o1.lr (gaOffset x.2.1) (headerBytes x.1)) = leNat (rdBytes n1.lr (gaOffset x.2.1) (headerBytes x.1))
    · have hq := hp
      rw [ho, hl, hm] at hq
      rw [if_pos hp, if_pos hq]
      exact ih _ _ hl hm
    · have hq := hp
      rw [ho, hl, hm] at hq
      rw [if_neg hp, if_neg hq]
      refine ih _ _ ?_ hm
      show wrBytes _ _ _ = wrBytes _ _ _
      rw [ho, hl]

/-- Putting back header bits writes the long range alone. -/
theorem State.keepHeaders_only (old new : State) : ∃ r, old.keepHeaders new = { new with lr := r } := by
  unfold State.keepHeaders
  generalize (new.ctxs.flatMap fun x => x.2.headers) = l
  have g : ∀ (l : List (Nat × W64 × Nat)) (t : State), ∃ r, (l.foldl (fun s h =>
        let off := gaOffset h.2.1
        let n := headerBytes h.1
        let a := leNat (old.rdLong off n)
        let b := leNat (s.rdLong off n)
        if gaModule h.2.1 ≠ s.moduleId ∨ gaSpace h.2.1 ≠ 0 ∨ a = b then s
        else s.wrLong off (leBytes n ((a &&& headerRo h.1) ||| (b - (b &&& headerRo h.1))))) t) = { t with lr := r } := by
    intro l
    induction l with
    | nil => intro t; exact ⟨_, rfl⟩
    | cons x r ih =>
      intro t
      rw [List.foldl_cons]
      obtain ⟨q, e⟩ := ih (let off := gaOffset x.2.1
        let n := headerBytes x.1
        let a := leNat (old.rdLong off n)
        let b := leNat (t.rdLong off n)
        if gaModule x.2.1 ≠ t.moduleId ∨ gaSpace x.2.1 ≠ 0 ∨ a = b then t
        else t.wrLong off (leBytes n ((a &&& headerRo x.1) ||| (b - (b &&& headerRo x.1)))))
      rw [e]
      dsimp only
      split
      · exact ⟨_, rfl⟩
      · exact ⟨_, rfl⟩
  exact g l new

end Sys2Proof.Machine
end

