-- ==== Sys2Proof/Laws/Group.lean ====
section
/-!
SUPPORT. The accesses of one group (03 R60), said once: what undoing and redoing its writes gives at each byte, and what an
instruction's effect within its group comes to, for an instruction that stores nothing and for one that stores.
-/

namespace Sys2Proof.Machine

/-! ## Folds of writes -/

/-- The additions of a DRAIN are no longer than its addends. -/
theorem accumSums_length (old new : List Byte) : 4 * (accumSums old new).length ≤ new.length := by
  have h : ∀ l : List Byte, 4 * (unpack32 l).length ≤ l.length := by
    intro l
    induction l using unpack32.induct with
    | case1 a b c d r ih => simp only [unpack32, List.length_cons]; omega
    | case2 l h =>
      unfold unpack32
      split
      · rename_i a b c d r; exact absurd rfl (h a b c d r)
      · simp
  have := h new
  have h2 : (accumSums old new).length ≤ (unpack32 new).length := by
    unfold accumSums; rw [List.length_zipWith]; exact Nat.min_le_right _ _
  omega

theorem flatMap_le4_length (l : List W32) : (l.flatMap fun x => leBytes 4 x.toNat).length = 4 * l.length := by
  induction l with
  | nil => rfl
  | cons a r ih => rw [List.flatMap_cons, List.length_append, ih, leBytes_length, List.length_cons]; omega

/-- One write leaves the bytes that it does not touch. -/
theorem GroupWrite.run_other (w : GroupWrite) (m : Tbl Byte) {x : Nat} (h : ¬ w.Touches x) :
    rdByte (w.run m) x = rdByte m x := by
  unfold GroupWrite.Touches at h
  unfold GroupWrite.run
  have hl : w.data.length ≤ max w.old.length w.data.length := Nat.le_max_right _ _
  split
  · refine rdByte_wrBytes_outside _ _ _ ?_
    have := accumSums_length (rdBytes m w.key w.data.length) w.data
    rw [flatMap_le4_length]; omega
  · exact rdByte_wrBytes_outside _ _ _ (by omega)

/-- A plain write puts its data at the bytes that it covers. -/
theorem GroupWrite.run_plain (w : GroupWrite) (m : Tbl Byte) {x : Nat} (ha : w.add = false) (h1 : w.key ≤ x)
    (h2 : x - w.key < w.data.length) : rdByte (w.run m) x = w.data[x - w.key] := by
  unfold GroupWrite.run
  rw [ha]
  have := rdByte_wrBytes_inside m w.key w.data h2
  rw [show w.key + (x - w.key) = x from by omega] at this
  simpa using this

/-- Writes that do not touch a byte leave it. -/
theorem foldRun_other (l : List GroupWrite) (m : Tbl Byte) {x : Nat} (h : ∀ w ∈ l, ¬ w.Touches x) :
    rdByte (l.foldl (fun m w => w.run m) m) x = rdByte m x := by
  induction l generalizing m with
  | nil => rfl
  | cons w r ih =>
    rw [List.foldl_cons, ih _ fun v hv => h v (List.mem_cons_of_mem _ hv)]
    exact w.run_other m (h w (List.mem_cons_self ..))

/-- Plain writes that agree on a byte leave it at what they agree on. -/
theorem foldRun_agree (l : List GroupWrite) (m : Tbl Byte) {x : Nat} {v : Byte}
    (h : ∀ w ∈ l, w.Touches x → w.add = false ∧ ∃ h2 : x - w.key < w.data.length, w.data[x - w.key] = v)
    (hm : rdByte m x = v ∨ ∃ w ∈ l, w.Touches x) :
    rdByte (l.foldl (fun m w => w.run m) m) x = v := by
  induction l generalizing m with
  | nil => rcases hm with h1 | ⟨w, hw, _⟩; exact h1; exact absurd hw (by simp)
  | cons w r ih =>
    rw [List.foldl_cons]
    refine ih _ (fun u hu => h u (List.mem_cons_of_mem _ hu)) ?_
    by_cases ht : w.Touches x
    · obtain ⟨ha, h2, hv⟩ := h w (List.mem_cons_self ..) ht
      exact .inl ((w.run_plain m ha ht.1 h2).trans hv)
    · rcases hm with h1 | ⟨u, hu, htu⟩
      · exact .inl ((w.run_other m ht).trans h1)
      · rcases List.mem_cons.1 hu with rfl | hr
        · exact absurd htu ht
        · exact .inr ⟨u, hr, htu⟩

/-- Undoing writes leaves the bytes that none of them touches. -/
theorem undoWrites_other (l : List GroupWrite) (m : Tbl Byte) {x : Nat} (h : ∀ w ∈ l, ¬ w.Touches x) :
    rdByte (undoWrites l m) x = rdByte m x := by
  unfold undoWrites
  induction l generalizing m with
  | nil => rfl
  | cons w r ih =>
    rw [List.foldl_cons, ih _ fun v hv => h v (List.mem_cons_of_mem _ hv)]
    have hw := h w (List.mem_cons_self ..)
    unfold GroupWrite.Touches at hw
    have hl : w.old.length ≤ max w.old.length w.data.length := Nat.le_max_left _ _
    exact rdByte_wrBytes_outside _ _ _ (by omega)

/-- The writes of a group in the order in which they take effect. -/
def writeOrder (l : List GroupWrite) : List GroupWrite := (List.range 4).flatMap fun r => l.filter fun w => w.rank == r

theorem redoWrites_eq (l : List GroupWrite) (m : Tbl Byte) : redoWrites l m = (writeOrder l).foldl (fun m w => w.run m) m := rfl

theorem mem_writeOrder {l : List GroupWrite} {w : GroupWrite} : w ∈ writeOrder l ↔ w ∈ l ∧ w.rank < 4 := by
  unfold writeOrder
  simp only [List.mem_flatMap, List.mem_range, List.mem_filter, beq_iff_eq]
  constructor
  · rintro ⟨r, hr, hw, rfl⟩; exact ⟨hw, hr⟩
  · rintro ⟨hw, hr⟩; exact ⟨_, hr, hw, rfl⟩

/-- The order is what ranks below `r` write, then rank `r`, then what lies above it. -/
theorem writeOrder_split (l : List GroupWrite) {r : Nat} (hr : r < 4) :
    ∃ a b, writeOrder l = a ++ (l.filter fun w => w.rank == r) ++ b ∧ (∀ w ∈ a, w ∈ l ∧ w.rank < r) ∧ ∀ w ∈ b, w ∈ l ∧ r < w.rank := by
  refine ⟨(List.range r).flatMap fun q => l.filter fun w => w.rank == q,
    ((List.range (4 - r - 1)).map (· + (r + 1))).flatMap fun q => l.filter fun w => w.rank == q, ?_, ?_, ?_⟩
  · have : List.range 4 = List.range r ++ [r] ++ (List.range (4 - r - 1)).map (· + (r + 1)) := by
      rcases (by omega : r = 0 ∨ r = 1 ∨ r = 2 ∨ r = 3) with rfl | rfl | rfl | rfl <;> decide
    unfold writeOrder
    rw [this, List.flatMap_append, List.flatMap_append]
    simp
  · intro w hw
    simp only [List.mem_flatMap, List.mem_range, List.mem_filter, beq_iff_eq] at hw
    obtain ⟨q, hq, hw, e⟩ := hw
    exact ⟨hw, by omega⟩
  · intro w hw
    simp only [List.mem_flatMap, List.mem_map, List.mem_range, List.mem_filter, beq_iff_eq] at hw
    obtain ⟨q, ⟨k, _, e⟩, hw, e'⟩ := hw
    exact ⟨hw, by omega⟩

/-- A byte that only later writers of a rank have written last reads as what they agree on. -/
theorem redoWrites_last (log new : List GroupWrite) (m : Tbl Byte) {x r : Nat} {v : Byte} (hr : r < 4)
    (hn : ∀ w ∈ new, w.rank = r) (hlog : ∀ w ∈ log, w.Touches x → w.rank ≤ r)
    (hv : ∀ w ∈ new, w.Touches x → w.add = false ∧ ∃ h2 : x - w.key < w.data.length, w.data[x - w.key] = v)
    (hx : ∃ w ∈ new, w.Touches x) : rdByte (redoWrites (log ++ new) m) x = v := by
  obtain ⟨a, b, e, ha, hb⟩ := writeOrder_split (log ++ new) hr
  have hf : ((log ++ new).filter fun w => w.rank == r) = (log.filter fun w => w.rank == r) ++ new := by
    rw [List.filter_append]
    congr 1
    exact List.filter_eq_self.2 fun w hw => by simp [hn w hw]
  rw [redoWrites_eq, e, hf, List.foldl_append, List.foldl_append, List.foldl_append, foldRun_other b]
  · exact foldRun_agree new _ hv (.inr hx)
  · intro w hw ht
    obtain ⟨hm, hlt⟩ := hb w hw
    rcases List.mem_append.1 hm with h | h
    · exact absurd (hlog w h ht) (by omega)
    · exact absurd (hn w h) (by omega)

/-- A byte that a writer of a higher rank has written keeps that writer's value. -/
theorem redoWrites_higher (log new : List GroupWrite) (m : Tbl Byte) {x r : Nat} {w : GroupWrite} (hw : w ∈ log)
    (hn : ∀ u ∈ new, u.rank = r) (hr : r < w.rank) (h4 : w.rank < 4) (ha : w.add = false) (hk : w.key ≤ x)
    (hx : x - w.key < w.data.length) (hlog : ∀ u ∈ log, u.Touches x → u.rank < w.rank ∨ u = w) :
    rdByte (redoWrites (log ++ new) m) x = w.data[x - w.key] := by
  obtain ⟨a, b, e, _, hb⟩ := writeOrder_split (log ++ new) h4
  have hwt : w.Touches x := ⟨hk, by have := Nat.le_max_right w.old.length w.data.length; omega⟩
  rw [redoWrites_eq, e, List.foldl_append, List.foldl_append, foldRun_other b]
  · refine foldRun_agree _ _ (fun u hu ht => ?_) (.inr ⟨w, ?_, hwt⟩)
    · obtain ⟨hu, e⟩ := List.mem_filter.1 hu
      rcases List.mem_append.1 hu with h | h
      · rcases hlog u h ht with h1 | rfl
        · exact absurd (beq_iff_eq.1 e) (by omega)
        · exact ⟨ha, hx, rfl⟩
      · exact absurd (hn u h) (by have := beq_iff_eq.1 e; omega)
    · exact List.mem_filter.2 ⟨List.mem_append.2 (.inl hw), by simp⟩
  · intro u hu ht
    obtain ⟨hm, hlt⟩ := hb u hu
    rcases List.mem_append.1 hm with h | h
    · rcases hlog u h ht with h1 | rfl <;> omega
    · exact absurd (hn u h) (by omega)

/-- Without a write of the group at a byte, the byte is what it was. -/
theorem redoWrites_other (l : List GroupWrite) (m : Tbl Byte) {x : Nat} (h : ∀ w ∈ l, ¬ w.Touches x) :
    rdByte (redoWrites l m) x = rdByte m x := by
  rw [redoWrites_eq]
  exact foldRun_other _ _ fun w hw => h w (mem_writeOrder.1 hw).1

/-! ## Copies of ranges -/

theorem copyRanges_other (l : List (Nat × Nat)) (b m : Tbl Byte) {x : Nat} (h : ∀ p ∈ l, ¬ (p.1 ≤ x ∧ x < p.1 + p.2)) :
    rdByte (l.foldl (fun b p => wrBytes b p.1 (rdBytes m p.1 p.2)) b) x = rdByte b x := by
  induction l generalizing b with
  | nil => rfl
  | cons p r ih =>
    rw [List.foldl_cons, ih _ fun q hq => h q (List.mem_cons_of_mem _ hq)]
    have := h p (List.mem_cons_self ..)
    exact rdByte_wrBytes_outside _ _ _ (by rw [rdBytes_length]; omega)

theorem rdBytes_get (m : Tbl Byte) (a n : Nat) {k : Nat} (h : k < (rdBytes m a n).length) :
    (rdBytes m a n)[k] = rdByte m (a + k) := by
  induction n generalizing a k with
  | zero => simp [rdBytes] at h
  | succ n ih =>
    cases k with
    | zero => rfl
    | succ k =>
      have h' : k < (rdBytes m (a + 1) n).length := by simpa [rdBytes] using h
      have := ih (a + 1) h'
      simp only [rdBytes, List.getElem_cons_succ, this]
      congr 1; omega

theorem copyRanges_in (l : List (Nat × Nat)) (b m : Tbl Byte) {x : Nat}
    (h : rdByte b x = rdByte m x ∨ ∃ p ∈ l, p.1 ≤ x ∧ x < p.1 + p.2) :
    rdByte (l.foldl (fun b p => wrBytes b p.1 (rdBytes m p.1 p.2)) b) x = rdByte m x := by
  induction l generalizing b with
  | nil => rcases h with h | ⟨p, hp, _⟩; exact h; exact absurd hp (by simp)
  | cons p r ih =>
    rw [List.foldl_cons]
    apply ih
    by_cases hx : p.1 ≤ x ∧ x < p.1 + p.2
    · left
      have hk : x - p.1 < (rdBytes m p.1 p.2).length := by rw [rdBytes_length]; omega
      have := rdByte_wrBytes_inside b p.1 (rdBytes m p.1 p.2) hk
      rw [rdBytes_get, show p.1 + (x - p.1) = x from by omega] at this
      exact this
    · rcases h with h | ⟨q, hq, hqx⟩
      · left
        rw [rdByte_wrBytes_outside _ _ _ (by rw [rdBytes_length]; omega), h]
      · rcases List.mem_cons.1 hq with rfl | hr
        · exact absurd hqx hx
        · exact .inr ⟨q, hr, hqx⟩

theorem copyRanges_wf (l : List (Nat × Nat)) (b m : Tbl Byte) (h : tblWf byte0 b = true) :
    tblWf byte0 (l.foldl (fun b p => wrBytes b p.1 (rdBytes m p.1 p.2)) b) = true := by
  induction l generalizing b with
  | nil => exact h
  | cons p r ih => rw [List.foldl_cons]; exact ih _ (wrBytes_wf _ _ h)

/-! ## An instruction's effect within its group -/

theorem State.undone_nil {s : State} {core : Nat} (h : (s.getCore core).groupLog = []) : s.undone core = s := by
  unfold State.undone; rw [h]; rfl

/-- An instruction that stores nothing: it reads the stores as they stood before its group, and leaves them as they are. -/
theorem State.inGroup_keeps {s : State} {core : Nat} {i : Insn} {add : State → List Byte} {body : State → State}
    (hw : (s.getCore core).writes core i = []) (hb : ∀ v, (body v).stores = v.stores) :
    s.inGroup core i add body = { body (s.undone core) with stores := s.stores } := by
  unfold State.inGroup
  dsimp only
  rw [hw]
  by_cases hl : (s.getCore core).groupLog = []
  · rw [if_pos ⟨hl, .inr rfl⟩, State.undone_nil hl, ← hb s]
  · rw [if_neg (fun h => hl h.1), if_pos rfl]; rfl

/-- One that neither reads nor writes the stores takes its effect as it stands. -/
theorem State.inGroup_blind {s : State} {core : Nat} {i : Insn} {add : State → List Byte} {body : State → State}
    (hw : (s.getCore core).writes core i = []) (hb : ∀ (v : State) m, body { v with stores := m } = { body v with stores := m }) :
    s.inGroup core i add body = body s := by
  have hk : ∀ v : State, (body v).stores = v.stores := fun v => by
    have h : body v = { body v with stores := v.stores } := hb v v.stores
    rw [h]
  rw [State.inGroup_keeps hw hk, State.undone, hb, ← hk s]

/-- What an instruction that stores comes to. Its other effects are those of its body on the state before the group; a byte outside
its ranges stays; a byte of its ranges that no write of the group so far touches is what its body writes; a byte that only writers of no
higher rank have written too is the body's unless it adds; and a byte that a writer of a higher rank has written keeps that writer's
value (03 R60). -/
structure Stored (s : State) (core : Nat) (i : Insn) (t u : State) (ws rs : List (Nat × Nat)) : Prop where
  fields : ∃ st co, u = { t with stores := st, cores := co }
  other : ∀ n, n ≠ core → u.getCore n = t.getCore n
  core_ : ∃ L, u.getCore core = { t.getCore core with groupLog := L }
  outside : ∀ x, (∀ p ∈ ws ++ rs, ¬ (p.1 ≤ x ∧ x < p.1 + p.2)) → rdByte u.stores x = rdByte s.stores x
  clear : ∀ x, (∀ w ∈ (s.getCore core).groupLog, ¬ w.Touches x) →
    ((i.clsN == 1 && i.flagB 0) = true → ∀ p ∈ ws, ∀ y, p.1 ≤ y ∧ y < p.1 + p.2 → ∀ w ∈ (s.getCore core).groupLog, ¬ w.Touches y) →
    rdByte u.stores x = rdByte t.stores x
  ranked : ∀ x, (i.clsN == 1 && i.flagB 0) = false → (∃ p ∈ ws, p.1 ≤ x ∧ x < p.1 + p.2) →
    (∀ w ∈ (s.getCore core).groupLog, w.Touches x → w.rank ≤ i.rank) → rdByte u.stores x = rdByte t.stores x
  higher : ∀ x, (∃ p ∈ ws, p.1 ≤ x ∧ x < p.1 + p.2) → ∀ w ∈ (s.getCore core).groupLog, i.rank < w.rank → w.rank < 4 →
    w.add = false → w.key ≤ x → (hx : x - w.key < w.data.length) →
    (∀ v ∈ (s.getCore core).groupLog, v.Touches x → v.rank < w.rank ∨ v = w) → rdByte u.stores x = w.data[x - w.key]

/-- The four places in the order of writers (03 R60). -/
theorem rank_lt (i : Insn) : i.rank < 4 := by
  have h := i.dst.isLt
  have he : i.engine < 2 := by unfold Insn.engine; omega
  unfold Insn.rank
  have hl : i.lane < 2 ∨ i.lane = 2 ∨ i.lane = 3 := by
    unfold Insn.lane
    split
    · split
      · exact .inr (.inr rfl)
      · exact .inl he
    · split
      · exact .inr (.inl rfl)
      · exact .inr (.inr rfl)
  rcases hl with h | h | h
  · rw [if_neg (by omega), if_neg (by omega)]; omega
  · rw [h]; decide
  · rw [h]; decide

/-- An instruction that stores, within its group. -/
theorem State.inGroup_stored {s : State} {core : Nat} {i : Insn} {add : State → List Byte} {body : State → State}
    (hne : (s.getCore core).writes core i ≠ [])
    (hf : ∀ x, (∀ p ∈ (s.getCore core).writes core i ++ (s.getCore core).recWrites core i, ¬ (p.1 ≤ x ∧ x < p.1 + p.2)) →
      rdByte (body (s.undone core)).stores x = rdByte (s.undone core).stores x)
    (ha : (i.clsN == 1 && i.flagB 0) = true → ∃ key n, (s.getCore core).writes core i = [(key, n)]
      ∧ (add (s.undone core)).length = n
      ∧ rdBytes (body (s.undone core)).stores key n
        = (accumSums (rdBytes (s.undone core).stores key n) (add (s.undone core))).flatMap fun x => leBytes 4 x.toNat) :
    Stored s core i (body (s.undone core)) (s.inGroup core i add body) ((s.getCore core).writes core i)
      ((s.getCore core).recWrites core i) := by
  generalize hws : (s.getCore core).writes core i = ws at *
  generalize hrs : (s.getCore core).recWrites core i = rs at *
  by_cases hl : (s.getCore core).groupLog = []
  · -- nothing has been written yet: the stores are the body's
    have hu := State.undone_nil hl
    rw [hu] at hf ha ⊢
    have key : ∃ st co, s.inGroup core i add body = { body s with stores := st, cores := co }
        ∧ (∀ n, n ≠ core → (s.inGroup core i add body).getCore n = (body s).getCore n)
        ∧ (∃ L, (s.inGroup core i add body).getCore core = { (body s).getCore core with groupLog := L })
        ∧ ∀ x, rdByte (s.inGroup core i add body).stores x = rdByte (body s).stores x := by
      unfold State.inGroup
      dsimp only
      rw [hws, hrs, hl]
      by_cases hi : i.last = true
      · rw [if_pos ⟨rfl, .inl hi⟩]
        exact ⟨(body s).stores, (body s).cores, rfl, fun _ _ => rfl, ⟨((body s).getCore core).groupLog, rfl⟩, fun _ => rfl⟩
      · rw [if_neg (fun h => h.2.elim hi hne), if_neg hne]
        simp only [if_true]
        refine ⟨_, _, rfl, fun n hn => ?_, Exists.intro ?_ ?_, fun x => ?_⟩
        · exact State.getCore_setCore_other _ _ hn
        rotate_left
        · rw [State.modCore, State.getCore_setCore, if_pos rfl]; rfl
        · exact copyRanges_in _ _ _ (.inl rfl)
    obtain ⟨st, co, k1, k2, k3, k4⟩ := key
    refine ⟨⟨st, co, k1⟩, k2, k3, fun x h => (k4 x).trans (hf x h), fun x _ _ => k4 x, fun x _ _ _ => k4 x, ?_⟩
    intro x _ w hw
    rw [hl] at hw; exact absurd hw (by simp)
  · generalize hlog : (s.getCore core).groupLog = log at *
    generalize hv : s.undone core = v at *
    have hve : v = { s with stores := undoWrites log s.stores } := by rw [← hv, State.undone, hlog]
    generalize hacc : (i.clsN == 1 && i.flagB 0) = acc at *
    generalize hnew : ws.map (fun p => (⟨i.rank, p.1, rdBytes v.stores p.1 p.2,
      if acc then add v else rdBytes (body v).stores p.1 p.2, acc⟩ : GroupWrite)) = new
    generalize hm : redoWrites (log ++ new) (undoWrites (log ++ new) (body v).stores) = m
    have e : s.inGroup core i add body = ({ body v with
        stores := (ws ++ rs).foldl (fun b p => wrBytes b p.1 (rdBytes m p.1 p.2)) s.stores } : State).modCore core
          fun c => { c with groupLog := log ++ new } := by
      unfold State.inGroup
      dsimp only
      rw [hws, hrs, hlog, if_neg (fun h => hl h.1), if_neg hne, if_neg hl, if_neg hl, hacc]
      subst hve
      rw [hnew, hm]
    have est : (s.inGroup core i add body).stores = (ws ++ rs).foldl (fun b p => wrBytes b p.1 (rdBytes m p.1 p.2)) s.stores := by
      rw [e]; rfl
    have hrank : ∀ w ∈ new, w.rank = i.rank := by
      intro w hw; rw [← hnew] at hw; obtain ⟨p, _, rfl⟩ := List.mem_map.1 hw; rfl
    have hlen : acc = true → ∀ p ∈ ws, (add v).length = p.2 := by
      intro h p hp
      obtain ⟨k, n, h1, h2, _⟩ := ha h
      rw [h1, List.mem_singleton] at hp
      rw [hp]; exact h2
    have htouch : ∀ x, (∃ w ∈ new, w.Touches x) ↔ ∃ p ∈ ws, p.1 ≤ x ∧ x < p.1 + p.2 := by
      intro x
      have hmax : ∀ p ∈ ws, max (rdBytes v.stores p.1 p.2).length (if acc then add v else rdBytes (body v).stores p.1 p.2).length = p.2 := by
        intro p hp
        cases acc with
        | true => rw [if_pos rfl, hlen rfl p hp, rdBytes_length]; omega
        | false => rw [if_neg (by simp), rdBytes_length, rdBytes_length]; omega
      constructor
      · rintro ⟨w, hw, ht⟩
        rw [← hnew] at hw
        obtain ⟨p, hp, rfl⟩ := List.mem_map.1 hw
        refine ⟨p, hp, ht.1, ?_⟩
        have := ht.2; rwa [hmax p hp] at this
      · rintro ⟨p, hp, h1, h2⟩
        refine ⟨_, hnew ▸ List.mem_map.2 ⟨p, hp, rfl⟩, h1, ?_⟩
        show x < p.1 + max _ _
        rwa [hmax p hp]
    have hin : ∀ x, (∃ p ∈ ws ++ rs, p.1 ≤ x ∧ x < p.1 + p.2) → rdByte (s.inGroup core i add body).stores x = rdByte m x := by
      intro x h; rw [est]; exact copyRanges_in _ _ _ (.inr h)
    have hlast : acc = false → ∀ x, (∃ p ∈ ws, p.1 ≤ x ∧ x < p.1 + p.2) → (∀ w ∈ log, w.Touches x → w.rank ≤ i.rank) →
        rdByte m x = rdByte (body v).stores x := by
      intro hfalse x hx hr
      rw [← hm]
      refine redoWrites_last log new _ (rank_lt i) hrank hr (fun w hw ht => ?_) ((htouch x).2 hx)
      rw [← hnew] at hw
      obtain ⟨p, hp, rfl⟩ := List.mem_map.1 hw
      have ht2 := ht.2
      have ht1 := ht.1
      simp only [hfalse, Bool.false_eq_true, if_false, rdBytes_length, Nat.max_self] at ht1 ht2 ⊢
      refine ⟨trivial, by omega, ?_⟩
      rw [rdBytes_get]
      congr 1
      omega
    have hcl : ∀ x, (∀ w ∈ log, ¬ w.Touches x) → (acc = true → ∀ p ∈ ws, ∀ y, p.1 ≤ y ∧ y < p.1 + p.2 → ∀ w ∈ log, ¬ w.Touches y) →
        rdByte m x = rdByte (body v).stores x := by
      intro x hx ho
      by_cases hxn : ∃ w ∈ new, w.Touches x
      · by_cases hfalse : acc = false
        · exact hlast hfalse x ((htouch x).1 hxn) fun w hw ht => absurd ht (hx w hw)
        · have htrue : acc = true := by simpa using hfalse
          obtain ⟨k, n, h1, h2, h3⟩ := ha htrue
          have hn1 : new = [⟨i.rank, k, rdBytes v.stores k n, add v, true⟩] := by rw [← hnew, h1, htrue]; rfl
          have hclr := ho htrue (k, n) (by rw [h1]; simp)
          obtain ⟨p, hp, hx1, hx2⟩ := (htouch x).1 hxn
          rw [h1, List.mem_singleton] at hp
          subst hp
          -- what the adding write finds
          have hbase : ∀ (m0 : Tbl Byte), (∀ y, k ≤ y ∧ y < k + n → rdByte m0 y = rdByte v.stores y) →
              rdBytes m0 k n = rdBytes v.stores k n := by
            intro m0 h0
            have hl0 : (rdBytes m0 k n).length = (rdBytes v.stores k n).length := by rw [rdBytes_length, rdBytes_length]
            refine List.ext_getElem hl0 fun j hj hj' => ?_
            rw [rdBytes_get, rdBytes_get]
            rw [rdBytes_length] at hj
            exact h0 _ ⟨by omega, by omega⟩
          obtain ⟨a, b, ew, hwa, hwb⟩ := writeOrder_split (log ++ new) (rank_lt i)
          have hfil : ((log ++ new).filter fun w => w.rank == i.rank) = (log.filter fun w => w.rank == i.rank) ++ new := by
            rw [List.filter_append]
            congr 1
            exact List.filter_eq_self.2 fun w hw => by simp [hrank w hw]
          have hafter : ∀ w ∈ b, ¬ w.Touches x := by
            intro w hw
            obtain ⟨h4, h5⟩ := hwb w hw
            rcases List.mem_append.1 h4 with h | h
            · exact hclr x ⟨hx1, hx2⟩ w h
            · have := hrank w h; exact absurd h5 (by omega)
          rw [← hm, redoWrites_eq, ew, hfil, List.foldl_append, List.foldl_append, List.foldl_append, foldRun_other b _ hafter]
          generalize hm0 : List.foldl (fun m w => GroupWrite.run w m) (List.foldl (fun m w => GroupWrite.run w m)
            (undoWrites (log ++ new) (body v).stores) a) (log.filter fun w => w.rank == i.rank) = m0
          have h0 : ∀ y, k ≤ y ∧ y < k + n → rdByte m0 y = rdByte v.stores y := by
            intro y hy
            have hny := hclr y hy
            rw [← hm0, foldRun_other _ _ (fun w hw => hny w (List.mem_filter.1 hw).1), foldRun_other _ _ (fun w hw => by
              obtain ⟨h4, h5⟩ := hwa w hw
              rcases List.mem_append.1 h4 with h | h
              · exact hny w h
              · have := hrank w h; exact absurd h5 (by omega))]
            unfold undoWrites
            rw [List.foldl_append, hn1]
            simp only [List.foldl_cons, List.foldl_nil]
            have hj : y - k < (rdBytes v.stores k n).length := by rw [rdBytes_length]; omega
            have := rdByte_wrBytes_inside (List.foldl (fun m w => wrBytes m w.key w.old) (body v).stores log) k (rdBytes v.stores k n) hj
            rw [show k + (y - k) = y from by omega] at this
            rw [this, rdBytes_get]
            congr 1; omega
          have hrun : (⟨i.rank, k, rdBytes v.stores k n, add v, true⟩ : GroupWrite).run m0
              = wrBytes m0 k (rdBytes (body v).stores k n) := by
            unfold GroupWrite.run
            simp only [if_true]
            rw [h2, hbase m0 h0, ← h3]
          rw [hn1]
          simp only [List.foldl_cons, List.foldl_nil]
          rw [hrun]
          simp only at hx1 hx2
          have hj : x - k < (rdBytes (body v).stores k n).length := by rw [rdBytes_length]; omega
          have := rdByte_wrBytes_inside m0 k (rdBytes (body v).stores k n) hj
          rw [show k + (x - k) = x from by omega] at this
          rw [this, rdBytes_get]
          congr 1; omega
      · have hno : ∀ w ∈ log ++ new, ¬ w.Touches x := by
          intro w hw ht
          rcases List.mem_append.1 hw with h | h
          · exact hx w h ht
          · exact hxn ⟨w, h, ht⟩
        rw [← hm, redoWrites_other _ _ hno, undoWrites_other _ _ hno]
    refine ⟨⟨_, _, by rw [e]; rfl⟩, fun n hn => by rw [e]; exact State.getCore_setCore_other _ _ hn,
      ⟨log ++ new, by rw [e, State.modCore, State.getCore_setCore, if_pos rfl]; rfl⟩, ?_, ?_, ?_, ?_⟩
    · intro x hx
      rw [est]; exact copyRanges_other _ _ _ hx
    · intro x hx ho
      by_cases hr : ∃ p ∈ ws ++ rs, p.1 ≤ x ∧ x < p.1 + p.2
      · exact (hin x hr).trans (hcl x (by rwa [hlog] at hx) (by rwa [hacc, hlog] at ho))
      · have hno : ∀ p ∈ ws ++ rs, ¬ (p.1 ≤ x ∧ x < p.1 + p.2) := fun p hp h => hr ⟨p, hp, h⟩
        rw [est, copyRanges_other _ _ _ hno, hf x hno, hve]
        rw [hlog] at hx
        exact (undoWrites_other _ _ hx).symm
    · intro x hfalse hx hr
      obtain ⟨p, hp, hpx⟩ := hx
      rw [hlog] at hr
      exact (hin x ⟨p, List.mem_append.2 (.inl hp), hpx⟩).trans (hlast (by rw [← hacc]; exact hfalse) x ⟨p, hp, hpx⟩ hr)
    · intro x hx w hw hr h4 hadd hk hlt hall
      rw [hlog] at hw hall
      obtain ⟨p, hp, hpx⟩ := hx
      rw [hin x ⟨p, List.mem_append.2 (.inl hp), hpx⟩, ← hm]
      exact redoWrites_higher log new _ hw hrank hr h4 hadd hk hlt hall

end Sys2Proof.Machine
end

