-- ==== Sys2Proof/Laws/Issue.lean ====
section
/-!
SUPPORT. The sequencer, said once: what a fault, the end of a group and the opening of a group write, and what an
instruction that issues leaves as it was.
-/

namespace Sys2Proof.Machine

/-- `d` differs from `c` only in where the sequencer stands and in its fault record. -/
structure SameWork (c d : Core) : Prop where
  sreg : d.sreg = c.sreg
  areg : d.areg = c.areg
  treg : d.treg = c.treg
  acc : d.acc = c.acc
  accScaled : d.accScaled = c.accScaled
  witness : d.witness = c.witness
  witnessN : d.witnessN = c.witnessN
  startSweep : d.startSweep = c.startSweep
  startTick : d.startTick = c.startTick
  msgCount : d.msgCount = c.msgCount
  stepNf : d.stepNf = c.stepNf
  half0 : d.half0 = c.half0
  half1 : d.half1 = c.half1
  tapQ0 : d.tapQ0 = c.tapQ0
  tapQ1 : d.tapQ1 = c.tapQ1
  lent : d.lent = c.lent
  ctr : d.ctr = c.ctr
  sat : d.sat = c.sat
  ctrPend : d.ctrPend = c.ctrPend
  wait : d.wait = c.wait

theorem SameWork.refl (c : Core) : SameWork c c :=
  ⟨rfl, rfl, rfl, rfl, rfl, rfl, rfl, rfl, rfl, rfl, rfl, rfl, rfl, rfl, rfl, rfl, rfl, rfl, rfl, rfl⟩

theorem SameWork.trans {c d e : Core} (h : SameWork c d) (k : SameWork d e) : SameWork c e :=
  ⟨k.sreg.trans h.sreg, k.areg.trans h.areg, k.treg.trans h.treg, k.acc.trans h.acc, k.accScaled.trans h.accScaled,
    k.witness.trans h.witness, k.witnessN.trans h.witnessN, k.startSweep.trans h.startSweep,
    k.startTick.trans h.startTick, k.msgCount.trans h.msgCount, k.stepNf.trans h.stepNf, k.half0.trans h.half0,
    k.half1.trans h.half1, k.tapQ0.trans h.tapQ0, k.tapQ1.trans h.tapQ1, k.lent.trans h.lent, k.ctr.trans h.ctr,
    k.sat.trans h.sat, k.ctrPend.trans h.ctrPend, k.wait.trans h.wait⟩

/-- What the end of a group can do to a state: one core's place and fault record, trace, counters, cuts, contexts. -/
structure Moved (core : Nat) (s t : State) : Prop where
  fields : ∃ co cl di ho cu cx, t = { s with cores := co, clusters := cl, dict := di, host := ho, cuts := cu, ctxs := cx }
  other : ∀ n, n ≠ core → t.getCore n = s.getCore n
  work : SameWork (s.getCore core) (t.getCore core)

theorem Moved.refl (core : Nat) (s : State) : Moved core s s :=
  ⟨⟨_, _, _, _, _, _, rfl⟩, fun _ _ => rfl, SameWork.refl _⟩

theorem Moved.trans {core : Nat} {s t u : State} (h : Moved core s t) (k : Moved core t u) : Moved core s u := by
  refine ⟨?_, fun n hn => (k.other n hn).trans (h.other n hn), h.work.trans k.work⟩
  obtain ⟨a1, a2, a3, a4, a5, a6, e⟩ := h.fields
  obtain ⟨b1, b2, b3, b4, b5, b6, e'⟩ := k.fields
  exact ⟨b1, b2, b3, b4, b5, b6, by rw [e', e]⟩

/-- A change of one core that keeps its work. -/
theorem Moved.modCore (core : Nat) (s : State) {f : Core → Core} (h : SameWork (s.getCore core) (f (s.getCore core))) :
    Moved core s (s.modCore core f) := by
  refine ⟨⟨_, _, _, _, _, _, rfl⟩, fun n hn => State.getCore_setCore_other s _ hn, ?_⟩
  rw [State.modCore, State.getCore_setCore]; simpa using h

/-- A step that leaves every core alone. -/
theorem Moved.reports {core : Nat} {s t : State} (hc : t.cores = s.cores)
    (h : ∃ cl di ho cu cx, t = { s with clusters := cl, dict := di, host := ho, cuts := cu, ctxs := cx }) : Moved core s t := by
  obtain ⟨a, b, c, d, x, e⟩ := h
  refine ⟨⟨s.cores, a, b, c, d, x, e⟩, fun n _ => State.getCore_of_cores hc n, ?_⟩
  rw [State.getCore_of_cores hc]; exact SameWork.refl _

theorem State.trace_moved (core : Nat) (s : State) (a b c d : Nat) : Moved core s (s.trace a b c d) := by
  obtain ⟨k, x, e⟩ := s.trace_only a b c d
  rw [e]; exact Moved.reports rfl ⟨k, x, _, _, _, rfl⟩

theorem State.fireTrigger_moved (core : Nat) (s : State) (c n : Nat) : Moved core s (s.fireTrigger c n) := by
  obtain ⟨k, d, h, e⟩ := s.fireTrigger_only c n
  rw [e]; exact Moved.reports rfl ⟨k, d, h, _, _, rfl⟩

theorem State.cutCtx_moved (core : Nat) (s : State) (c : Option Nat) (r : Nat) : Moved core s (s.cutCtx c r) := by
  obtain ⟨k, e⟩ := s.cutCtx_only c r
  rw [e]; exact Moved.reports rfl ⟨_, _, _, k, _, rfl⟩

theorem State.countSync_moved (core : Nat) (s : State) (c : Option Nat) (k : Nat) : Moved core s (s.countSync c k) := by
  obtain ⟨x, e⟩ := s.countSync_only c k
  rw [e]; exact Moved.reports rfl ⟨_, _, _, _, x, rfl⟩

/-- The second half of a fault: the record and the cut of the first one. -/
theorem State.faultTail_moved {core : Nat} {s s2 : State} (h2 : Moved core s s2) (b : Bool) (w : W64) (c : Option Nat) (cause : Nat) :
    Moved core s (if b then s2 else
      if cause = 8 then
        ((s2.modCore core fun c => { c with faulted := true, faultInfo := w, pos := 0, taken := none, loopNew := none }).cutCtx c
          (if cause = 8 then cutSync else cutFault)).countSync c 0
      else (s2.modCore core fun c => { c with faulted := true, faultInfo := w, pos := 0, taken := none, loopNew := none }).cutCtx c
          (if cause = 8 then cutSync else cutFault)) := by
  have h3 : Moved core s2 (s2.modCore core fun c => { c with
      faulted := true, faultInfo := w, pos := 0, taken := none, loopNew := none }) :=
    Moved.modCore core s2 ⟨rfl, rfl, rfl, rfl, rfl, rfl, rfl, rfl, rfl, rfl, rfl, rfl, rfl, rfl, rfl, rfl, rfl, rfl, rfl, rfl⟩
  have h5 := fun r => (h2.trans h3).trans (State.cutCtx_moved core _ c r)
  split
  · exact h2
  · split
    · exact (h5 _).trans (State.countSync_moved core _ c 0)
    · exact h5 _

/-- A fault writes the core's fault record and place, trace, counters, cuts and sync counts. -/
theorem State.takeFault_moved (s : State) (core pc lane cause : Nat) : Moved core s (s.takeFault core pc lane cause) := by
  unfold State.takeFault
  dsimp only
  have h1 := State.trace_moved core s (core / 8) (core % 8) 7
    (cause * 2 ^ 72 + causeStatus cause * 2 ^ 64 + pc % 4096 * 2 ^ 52 + lane * 2 ^ 50)
  generalize State.trace s (core / 8) (core % 8) 7 _ = s1 at h1 ⊢
  cases s.ctxOfCore core with
  | some c => exact State.faultTail_moved (h1.trans (State.fireTrigger_moved core s1 c 1)) _ _ (some c) cause
  | none => exact State.faultTail_moved h1 _ _ none cause

theorem State.goTo_moved (s : State) (core k : Nat) : Moved core s (s.goTo core k) := by
  unfold State.goTo
  split
  · exact Moved.modCore core s ⟨rfl, rfl, rfl, rfl, rfl, rfl, rfl, rfl, rfl, rfl, rfl, rfl, rfl, rfl, rfl, rfl, rfl, rfl, rfl, rfl⟩
  · exact s.takeFault_moved core _ _ 7

/-- The end of a group moves the sequencer, or faults: registers, memories and counters stay as they were (03 R69, R81). -/
theorem State.endGroup_moved (s : State) (core : Nat) : Moved core s (s.endGroup core) := by
  have w : ∀ (s : State) (f : Core → Core), SameWork (s.getCore core) (f (s.getCore core)) → Moved core s (s.modCore core f) :=
    fun s f h => Moved.modCore core s h
  unfold State.endGroup
  dsimp only
  split
  · exact w s _ ⟨rfl, rfl, rfl, rfl, rfl, rfl, rfl, rfl, rfl, rfl, rfl, rfl, rfl, rfl, rfl, rfl, rfl, rfl, rfl, rfl⟩
  · split
    · split
      · exact s.takeFault_moved core _ _ _
      · split
        · exact s.takeFault_moved core _ _ _
        · exact s.goTo_moved core _
    · split
      · exact s.takeFault_moved core _ _ _
      · split
        · generalize loopBack _ _ = q
          obtain ⟨k, ls⟩ := q
          exact (w s _ ⟨rfl, rfl, rfl, rfl, rfl, rfl, rfl, rfl, rfl, rfl, rfl, rfl, rfl, rfl, rfl, rfl, rfl, rfl, rfl, rfl⟩).trans
            (State.goTo_moved _ core _)
        · exact (w s _ ⟨rfl, rfl, rfl, rfl, rfl, rfl, rfl, rfl, rfl, rfl, rfl, rfl, rfl, rfl, rfl, rfl, rfl, rfl, rfl, rfl⟩).trans
            (State.goTo_moved _ core _)
    · generalize loopBack _ _ = q
      obtain ⟨k, ls⟩ := q
      exact (w s _ ⟨rfl, rfl, rfl, rfl, rfl, rfl, rfl, rfl, rfl, rfl, rfl, rfl, rfl, rfl, rfl, rfl, rfl, rfl, rfl, rfl⟩).trans
        (State.goTo_moved _ core _)

/-- After its effect an instruction moves the sequencer only. -/
theorem State.closed_moved (s : State) (core : Nat) (i : Insn) : Moved core s (s.closed core i) := by
  unfold State.closed
  split
  · exact s.endGroup_moved core
  · exact Moved.modCore core s ⟨rfl, rfl, rfl, rfl, rfl, rfl, rfl, rfl, rfl, rfl, rfl, rfl, rfl, rfl, rfl, rfl, rfl, rfl, rfl, rfl⟩

/-- An instruction that a core issues takes its effect within its group, between the opening and the end of it; here the checks on the
hardware that come first find nothing. -/
theorem issue_next {s : State} {core : Nat} {i : Insn} (h : s.Issues core i) (body ev : State → State) (add : State → List Byte)
    (he : ev (s.opened core) = s.opened core) :
    issue core i body s ev add = .next (((s.opened core).inGroup core i add body).closed core i) := by
  obtain ⟨h1, h2, h3⟩ := h
  unfold issue
  simp only [h1, not_true_eq_false, if_false]
  by_cases hp : (s.getCore core).pos = 0
  · obtain ⟨hf, hr, hw⟩ := h3 hp
    simp only [State.groupView, hp, if_true] at hf hw
    simp only [State.opened, hp, if_true] at he
    simp only [hp, beq_self_eq_true, if_true, hf, hr, hw, Bool.false_eq_true, if_false, Option.isSome_none, and_false,
      State.opened, State.closed, he]
    rw [hp] at h2
    simp only [h2, ne_eq, not_true_eq_false, if_false]
    split <;> rfl
  · have hb : ((s.getCore core).pos == 0) = false := by simpa using hp
    simp only [State.opened, hp, if_false] at he
    simp only [hb, Bool.false_eq_true, if_false, h2, ne_eq, not_true_eq_false, false_and, State.opened, State.closed, hp, he]
    split <;> rfl

/-- What an instruction that neither reads nor writes the stores comes to. -/
def StoreBlind (i : Insn) (body : State → State) : Prop :=
  (∀ core c, Core.writes core c i = []) ∧ ∀ (v : State) m, body { v with stores := m } = { body v with stores := m }

theorem issue_of_issues {s : State} {core : Nat} {i : Insn} (h : s.Issues core i) {body : State → State} (hb : StoreBlind i body) :
    issue core i body s = .next ((body (s.opened core)).closed core i) := by
  rw [issue_next h body _ _ rfl, State.inGroup_blind (hb.1 _ _) hb.2]

theorem issueOp_of_issues {s : State} {core cls op : Nat} {i : Insn} (hi : i.isOp cls op = true) (h : s.Issues core i)
    {body : State → State} (hb : StoreBlind i body) :
    issueOp cls op core i body s = .next ((body (s.opened core)).closed core i) := by
  simp only [issueOp, hi, if_true]; exact issue_of_issues h hb

/-- The class and the operation of an instruction that is one of a row. -/
theorem isOp_eq {i : Insn} {cls op : Nat} (h : i.isOp cls op = true) : i.clsN = cls ∧ i.opN = op := by
  simp only [Insn.isOp, Bool.and_eq_true] at h
  exact ⟨of_decide_eq_true h.1, of_decide_eq_true h.2⟩

/-- The instructions that write no byte of the stores: every one but STS, TST, DRAIN and the vector instructions that have a
destination walk (03 Table 03-6). -/
theorem writes_nil {i : Insn} {cls op : Nat} (hi : i.isOp cls op = true)
    (h : (cls = 0 ∧ op ≠ 0x12 ∧ op ≠ 0x15) ∨ (cls = 1 ∧ op ≠ 8) ∨ (cls = 2 ∧ (op = 7 ∨ op = 8)) ∨ 3 ≤ cls) (core : Nat) (c : Core) :
    Core.writes core c i = [] := by
  have h1 : i.clsN = cls := by simp [Insn.isOp] at hi; exact hi.1
  have h2 : i.opN = op := by simp [Insn.isOp] at hi; exact hi.2
  unfold Core.writes
  dsimp only
  rw [h1, h2]
  rcases h with ⟨rfl, a, b⟩ | ⟨rfl, a⟩ | ⟨rfl, a⟩ | a
  · simp [a, b]
  · simp [a]
  · rcases a with rfl | rfl <;> simp
  · split <;> first | omega | rfl

theorem ctrField_stores (s : State) (core : Nat) (i : Insn) (m : Tbl Byte) :
    ({ s with stores := m } : State).ctrField core i = { s.ctrField core i with stores := m } := by
  unfold State.ctrField; split <;> rfl

@[simp] theorem State.stores_ctrField (s : State) (core : Nat) (i : Insn) : (s.ctrField core i).stores = s.stores := by
  unfold State.ctrField; split <;> rfl

/-- A change of a core that depends on nothing else of the state, and the CTR increment, neither read nor write the stores. -/
theorem storeBlind_core {i : Insn} {cls op : Nat} (hi : i.isOp cls op = true)
    (h : (cls = 0 ∧ op ≠ 0x12 ∧ op ≠ 0x15) ∨ (cls = 1 ∧ op ≠ 8) ∨ (cls = 2 ∧ (op = 7 ∨ op = 8)) ∨ 3 ≤ cls) (core : Nat)
    (g : Core → Core) : StoreBlind i fun s => (s.modCore core g).ctrField core i :=
  ⟨writes_nil hi h, fun v m => ctrField_stores (v.modCore core g) core i m⟩

/-- What an instruction that stores nothing comes to: it reads the stores as they stood before its group (03 R60). -/
theorem issueOp_keeps {s : State} {core cls op : Nat} {i : Insn} (hi : i.isOp cls op = true) (h : s.Issues core i)
    (body ev : State → State) (add : State → List Byte) (he : ev (s.opened core) = s.opened core)
    (hw : ∀ c, Core.writes core c i = []) (hb : ∀ v, (body v).stores = v.stores) :
    issueOp cls op core i body s ev add
      = .next (({ body (s.before core) with stores := s.stores } : State).closed core i) := by
  obtain ⟨co, n, t, eo⟩ : ∃ co n t, s.opened core = { s with cores := co, freeCtr := n, time := t } := by
    unfold State.opened; split <;> exact ⟨_, _, _, rfl⟩
  have hst : (s.opened core).stores = s.stores := by rw [eo]
  simp only [issueOp, hi, if_true]
  rw [issue_next h body ev add he, State.inGroup_keeps (hw _) hb, hst]
  rfl

/-- Putting back the stores after an effect that does not meet them is that effect on the opened group. -/
theorem State.blind_before (s : State) (core : Nat) {b : State → State}
    (hb : ∀ (v : State) m, b { v with stores := m } = { b v with stores := m })
    (hs : ∀ v, (b v).stores = v.stores) :
    ({ b (s.before core) with stores := s.stores } : State) = b (s.opened core) := by
  have hst : (s.opened core).stores = s.stores := by unfold State.opened; split <;> rfl
  have e : s.before core = { s.opened core with stores := undoWrites ((s.opened core).getCore core).groupLog (s.opened core).stores } := rfl
  rw [e, hb]
  have := hs (s.opened core)
  rw [hst] at this
  rw [← this]

/-- What an instruction comes to that writes registers of its core from what it reads before its group. -/
theorem issueOp_loads {s : State} {core cls op : Nat} {i : Insn} (hi : i.isOp cls op = true) (h : s.Issues core i)
    (body ev : State → State) (add : State → List Byte) (he : ev (s.opened core) = s.opened core)
    (hw : ∀ c, Core.writes core c i = []) (hb : ∀ v, (body v).stores = v.stores) (g : Core → Core)
    (hg : body (s.before core) = ((s.before core).modCore core g).ctrField core i) :
    issueOp cls op core i body s ev add = .next ((((s.opened core).modCore core g).ctrField core i).closed core i) := by
  rw [issueOp_keeps hi h body ev add he hw hb, hg]
  exact congrArg (fun u => Host.Outcome.next (State.closed u core i)) (s.blind_before core
    (b := fun v => (v.modCore core g).ctrField core i) (fun v m => ctrField_stores (v.modCore core g) core i m)
    fun v => State.stores_ctrField _ core i)

/-- What an instruction that stores comes to. -/
theorem issueOp_stored {s : State} {core cls op : Nat} {i : Insn} (hi : i.isOp cls op = true) (h : s.Issues core i)
    (body ev : State → State) (add : State → List Byte) (he : ev (s.opened core) = s.opened core) :
    issueOp cls op core i body s ev add = .next (((s.opened core).inGroup core i add body).closed core i) := by
  simp only [issueOp, hi, if_true]
  exact issue_next h body ev add he

/-- Opening a group reads its registers and counts it; nothing else of the state changes but the draw. -/
theorem State.opened_fields (s : State) (core : Nat) :
    ∃ co n k, s.opened core = { s with cores := co, freeCtr := n, time := { s.time with shownCc := k } } := by
  unfold State.opened
  split
  · exact ⟨_, _, _, rfl⟩
  · exact ⟨s.cores, s.freeCtr, s.time.shownCc, rfl⟩

/-- Nothing of the group has been written where it is opened. -/
theorem State.opened_log (s : State) (core : Nat) : ((s.opened core).getCore core).groupLog = s.written core := by
  unfold State.opened State.written
  split
  · rw [State.openGroup, State.modCore, State.getCore_setCore, if_pos rfl]; rfl
  · rfl

/-- The state that an instruction reads differs from `s` in its core, the draw and the stores. -/
theorem State.before_fields (s : State) (core : Nat) : ∃ co n k, s.before core
    = { s with cores := co, freeCtr := n, time := { s.time with shownCc := k }, stores := undoWrites (s.written core) s.stores } := by
  obtain ⟨co, n, k, e⟩ := s.opened_fields core
  refine ⟨co, n, k, ?_⟩
  have := s.opened_log core
  unfold State.before State.undone
  rw [this, e]

theorem State.before_core (s : State) (core n : Nat) : (s.before core).getCore n = (s.opened core).getCore n := rfl

theorem State.before_stores (s : State) (core : Nat) : (s.before core).stores = (s.groupBefore core).stores := by
  obtain ⟨co, n, k, e⟩ := s.before_fields core
  rw [e]
  unfold State.written State.groupBefore
  dsimp only
  split <;> rfl

theorem State.opened_other (s : State) (core : Nat) {n : Nat} (h : n ≠ core) : (s.opened core).getCore n = s.getCore n := by
  unfold State.opened
  split
  · exact State.getCore_setCore_other s.draw _ h
  · rfl

/-- The core as the instructions of its group find it. -/
theorem State.opened_core (s : State) (core : Nat) :
    SameWork (s.getCore core) ((s.opened core).getCore core)
    ∧ ((s.opened core).getCore core).snapS = (s.groupView core).snapS
    ∧ ((s.opened core).getCore core).snapA = (s.groupView core).snapA
    ∧ ((s.opened core).getCore core).snapT = (s.groupView core).snapT
    ∧ ((s.opened core).getCore core).pc = (s.getCore core).pc := by
  by_cases hp : (s.getCore core).pos = 0
  · have e1 : s.opened core = s.openGroup core := if_pos hp
    have e2 : s.groupView core = { s.getCore core with
        snapS := (s.getCore core).sreg, snapA := (s.getCore core).areg, snapT := (s.getCore core).treg } := if_pos hp
    have e3 : (s.openGroup core).getCore core = Core.count { s.getCore core with
        snapS := (s.getCore core).sreg, snapA := (s.getCore core).areg, snapT := (s.getCore core).treg,
        groupLog := [], issued := (s.getCore core).issued + 1 } 0x408 1 := by
      rw [State.openGroup, State.modCore, State.getCore_setCore, if_pos rfl]; rfl
    rw [e1, e2, e3]
    exact ⟨⟨rfl, rfl, rfl, rfl, rfl, rfl, rfl, rfl, rfl, rfl, rfl, rfl, rfl, rfl, rfl, rfl, rfl, rfl, rfl, rfl⟩, rfl, rfl, rfl, rfl⟩
  · have e1 : s.opened core = s := if_neg hp
    have e2 : s.groupView core = s.getCore core := if_neg hp
    rw [e1, e2]
    exact ⟨SameWork.refl _, rfl, rfl, rfl, rfl⟩

/-- An instruction that stores nothing updates no record. -/
theorem recWrites_nil {core : Nat} {c : Core} {i : Insn} (h : Core.writes core c i = []) : Core.recWrites core c i = [] := by
  unfold Core.recWrites
  unfold Core.writes at h
  dsimp only at h ⊢
  split
  · rename_i h1
    rw [h1.1, h1.2] at h
    simp at h
  · split
    · rename_i h2
      rw [h2.1, h2.2] at h
      have h0 : i.count = 0 := by
        rcases Nat.eq_zero_or_pos i.count with h0 | hp
        · exact h0
        · obtain ⟨n, hn⟩ := Nat.exists_eq_succ_of_ne_zero (Nat.ne_of_gt hp)
          rw [hn] at h
          simp [walk] at h
      simp [h0]
    · rfl

/-- The end of an instruction that stores: `u` is what its body makes of the state before its group, `ws` and `rs` are its ranges. -/
structure StoredEnd (s : State) (core : Nat) (i : Insn) (u t : State) (ws rs : List (Nat × Nat)) : Prop where
  mem : t.imem = u.imem ∧ t.lr = u.lr ∧ t.side = u.side
  other : ∀ n, n ≠ core → t.getCore n = u.getCore n
  work : SameWork (u.getCore core) (t.getCore core)
  outside : ∀ x, (∀ p ∈ ws ++ rs, ¬ (p.1 ≤ x ∧ x < p.1 + p.2)) → rdByte t.stores x = rdByte s.stores x
  clear : ∀ x, (∀ w ∈ s.written core, ¬ w.Touches x) →
    ((i.clsN == 1 && i.flagB 0) = true → ∀ p ∈ ws, ∀ y, p.1 ≤ y ∧ y < p.1 + p.2 → ∀ w ∈ s.written core, ¬ w.Touches y) →
    rdByte t.stores x = rdByte u.stores x
  lands : ∀ k n, (k, n) ∈ ws → (i.clsN == 1 && i.flagB 0) = false → Lands s t core i k (rdBytes u.stores k n)

/-- An instruction that stores completes, and what it leaves is what its body makes of the state before its group, but for the bytes
that its group writes (03 R60). -/
theorem issueOp_writes {s : State} {core cls op : Nat} {i : Insn} (hi : i.isOp cls op = true) (h : s.Issues core i)
    (body ev : State → State) (add : State → List Byte) (he : ev (s.opened core) = s.opened core)
    (hf : ∀ x, (∀ p ∈ ((s.opened core).getCore core).writes core i ++ ((s.opened core).getCore core).recWrites core i,
        ¬ (p.1 ≤ x ∧ x < p.1 + p.2)) →
      rdByte (body (s.before core)).stores x = rdByte (s.before core).stores x)
    (ha : (i.clsN == 1 && i.flagB 0) = true → ∃ key n, ((s.opened core).getCore core).writes core i = [(key, n)]
      ∧ (add (s.before core)).length = n
      ∧ rdBytes (body (s.before core)).stores key n
        = (accumSums (rdBytes (s.before core).stores key n) (add (s.before core))).flatMap fun x => leBytes 4 x.toNat) :
    ∃ t, issueOp cls op core i body s ev add = .next t
      ∧ StoredEnd s core i (body (s.before core)) t (((s.opened core).getCore core).writes core i)
          (((s.opened core).getCore core).recWrites core i) := by
  refine ⟨_, issueOp_stored hi h body ev add he, ?_⟩
  have hst : (s.opened core).stores = s.stores := by obtain ⟨co, n, k, eo⟩ := s.opened_fields core; rw [eo]
  have hlog := s.opened_log core
  by_cases hne : ((s.opened core).getCore core).writes core i = []
  · have hrn := recWrites_nil hne
    rw [hne, hrn] at hf ⊢
    have hf' : ∀ x, rdByte (body (s.before core)).stores x = rdByte (s.before core).stores x := fun x => hf x (by simp)
    obtain ⟨m, e, hm0⟩ : ∃ m, (s.opened core).inGroup core i add body = { body (s.before core) with stores := m }
        ∧ ∀ x, rdByte m x = rdByte s.stores x := by
      unfold State.inGroup
      dsimp only
      rw [hne]
      by_cases hl : ((s.opened core).getCore core).groupLog = []
      · rw [if_pos ⟨hl, .inr rfl⟩]
        have hu : s.before core = s.opened core := State.undone_nil hl
        refine ⟨(body (s.before core)).stores, by rw [hu], fun x => ?_⟩
        rw [hf' x, hu, hst]
      · rw [if_neg (fun h => hl h.1), if_pos rfl]
        exact ⟨_, rfl, fun x => by rw [hst]⟩
    rw [e]
    have hm := State.closed_moved ({ body (s.before core) with stores := m } : State) core i
    obtain ⟨_, _, _, _, _, _, ec⟩ := hm.fields
    have hst2 : (State.closed { body (s.before core) with stores := m } core i).stores = m := by rw [ec]
    refine ⟨by rw [ec]; exact ⟨rfl, rfl, rfl⟩, hm.other, hm.work, fun x _ => by rw [hst2]; exact hm0 x, fun x hx _ => ?_, fun k n hp => absurd hp (by simp)⟩
    rw [hst2, hm0 x, hf' x]
    obtain ⟨co, n, k, eb⟩ := s.before_fields core
    rw [eb]
    exact (undoWrites_other _ _ hx).symm
  have S := State.inGroup_stored (s := s.opened core) (core := core) (i := i) (add := add) (body := body) hne hf ha
  change Stored (s.opened core) core i (body (s.before core)) _ _ _ at S
  generalize (s.opened core).inGroup core i add body = g at S
  have hm := State.closed_moved g core i
  have hk : (g.closed core i).stores = g.stores ∧ (g.closed core i).imem = g.imem ∧ (g.closed core i).lr = g.lr
      ∧ (g.closed core i).side = g.side := by
    obtain ⟨_, _, _, _, _, _, e⟩ := hm.fields
    rw [e]; exact ⟨rfl, rfl, rfl, rfl⟩
  obtain ⟨st, co, eg⟩ := S.fields
  obtain ⟨L, eL⟩ := S.core_
  have hw := hm.work
  refine ⟨?_, fun n hn => (hm.other n hn).trans (S.other n hn), ?_, ?_, ?_, ?_⟩
  · rw [hk.2.1, hk.2.2.1, hk.2.2.2, eg]; exact ⟨rfl, rfl, rfl⟩
  · rw [eL] at hw
    exact ⟨hw.sreg, hw.areg, hw.treg, hw.acc, hw.accScaled, hw.witness, hw.witnessN, hw.startSweep, hw.startTick,
      hw.msgCount, hw.stepNf, hw.half0, hw.half1, hw.tapQ0, hw.tapQ1, hw.lent, hw.ctr, hw.sat, hw.ctrPend, hw.wait⟩
  · intro x hx; rw [hk.1, S.outside x hx, hst]
  · intro x hx ho; rw [hk.1]; rw [← hlog] at hx ho; exact S.clear x hx ho
  · intro k n hp hacc j hj
    rw [rdBytes_length] at hj
    have hin : ∃ p ∈ ((s.opened core).getCore core).writes core i, p.1 ≤ k + j ∧ k + j < p.1 + p.2 :=
      ⟨_, hp, by simp only; omega, by simp only; omega⟩
    rw [hk.1, ← hlog]
    refine ⟨fun hr => ?_, fun w hw h4 h5 h6 h7 hx hall => S.higher _ hin w hw h4 h5 h6 h7 hx hall⟩
    rw [S.ranked _ hacc hin hr, rdBytes_get]

end Sys2Proof.Machine
end

