-- ==== Sys2Proof/Laws/Tiles.lean ====
section
/-!
SUPPORT. The lengths of tiles: what conversion and a DRAIN write fills the footprint of the format (04 R85, R87, 05 R112).
-/

namespace Sys2Proof.Machine

theorem length_flatMap_const {α β : Type} (g : α → List β) (k : Nat) (l : List α) (h : ∀ x ∈ l, (g x).length = k) :
    (l.flatMap g).length = l.length * k := by
  induction l with
  | nil => simp
  | cons a r ih =>
    rw [List.flatMap_cons, List.length_append, h a (by simp), ih fun x hx => h x (by simp [hx]), List.length_cons, Nat.succ_mul]
    omega

theorem pack6_length (l : List Nat) : (pack6 l).length ≤ 3 * (l.length / 4) := by
  match l with
  | [] | [_] | [_, _] | [_, _, _] => simp [pack6]
  | a :: b :: c :: d :: r =>
    have := pack6_length r
    simp only [pack6, List.length_append, leBytes_length, List.length_cons]; omega

theorem pack4_length (l : List Nat) : (pack4 l).length ≤ l.length / 2 := by
  match l with
  | [] | [_] => simp [pack4]
  | a :: b :: r =>
    have := pack4_length r
    simp only [pack4, List.length_cons]; omega

/-- A block has as many elements as values enter it. -/
theorem mxBlock_length (code : Nat) (t : W32) (rd : Rounding) (p : Nat) (v : List W32) :
    (mxBlock code t rd p v).elems.length = v.length := by
  unfold mxBlock
  dsimp only
  repeat' split
  all_goals simp [nonfiniteBlock]

theorem length_flatMap_le {α β : Type} (g : α → List β) (k : Nat) (l : List α) (h : ∀ x ∈ l, (g x).length ≤ k) :
    (l.flatMap g).length ≤ l.length * k := by
  induction l with
  | nil => simp
  | cons a r ih =>
    rw [List.flatMap_cons, List.length_append, List.length_cons, Nat.succ_mul]
    have := h a (by simp)
    have := ih fun x hx => h x (by simp [hx])
    omega

/-- The lines that a tile of a format is made of. -/
def Shaped (code : Nat) (lines : List (List W32)) : Prop :=
  lines.length = 16 ∧ ∀ r ∈ lines, r.length = lineElems code

/-- An MX tile is 544 bytes. -/
theorem mxTile_length {code : Nat} (hc : 6 ≤ code ∧ code ≤ 10) (t : W32) (rd : Rounding) {lines : List (List W32)}
    (h1 : lines.length = 16) (h2 : ∀ r ∈ lines, r.length ≤ lineElems code) : (mxTile code t rd lines).bytes.length = 544 := by
  unfold mxTile
  dsimp only
  simp only [List.length_append, zeroBytes, List.length_replicate]
  generalize hB : ((List.range 16).zip lines).map _ = B
  have hb : ∀ x ∈ B, (packBytes code (x.flatMap MxBlock.elems)).length ≤ 32 ∧ (x.map fun b => BitVec.ofNat 8 b.scale).length ≤ 2 := by
    intro x hx
    rw [← hB] at hx
    obtain ⟨il, hil, rfl⟩ := List.mem_map.1 hx
    have hil2 : il.2.length ≤ lineElems code := h2 _ (List.of_mem_zip hil).2
    split
    · rename_i ha
      have h64 : il.2.length ≤ 64 := by rw [ha] at hil2; exact hil2
      refine ⟨?_, by simp⟩
      simp only [List.flatMap_cons, List.flatMap_nil, List.append_nil, packBytes, ha]
      rw [if_neg (by decide), if_neg (by decide), if_neg (by decide)]
      simp only [if_true]
      refine Nat.le_trans (pack4_length _) ?_
      rw [List.length_append, mxBlock_length, mxBlock_length, List.length_take, List.length_drop]; omega
    · rename_i ha
      have h32 : il.2.length ≤ 32 := by
        unfold lineElems at hil2; rwa [if_neg (by omega), if_neg ha] at hil2
      refine ⟨?_, by simp⟩
      simp only [List.flatMap_cons, List.flatMap_nil, List.append_nil, packBytes]
      rw [if_neg (by omega), if_neg (by omega)]
      split
      · refine Nat.le_trans (pack6_length _) ?_
        rw [mxBlock_length]; omega
      · simp only [List.length_map, mxBlock_length]; omega
  have hB16 : B.length = 16 := by rw [← hB]; simp [h1]
  have p1 := length_flatMap_le (fun bs => packBytes code (bs.flatMap MxBlock.elems)) 32 B fun x hx => (hb x hx).1
  have p2 := length_flatMap_le (fun bs => bs.map fun b => BitVec.ofNat 8 b.scale) 2 B fun x hx => (hb x hx).2
  rw [hB16] at p1 p2
  omega

/-- A converted tile fills the footprint of its format. -/
theorem convTile_length {code : Nat} (h : 1 ≤ code ∧ code ≤ 0xA) (t : W32) (rd : Rounding) {lines : List (List W32)}
    (hl : Shaped code lines) : (convTile code t rd lines).bytes.length = footprint code := by
  obtain ⟨h1, h2⟩ := hl
  unfold convTile
  by_cases hm : isMx code = true
  · rw [if_pos hm, mxTile_length (by simpa [isMx] using hm) t rd h1 fun r hr => Nat.le_of_eq (h2 r hr)]
    have hc : 6 ≤ code ∧ code ≤ 10 := by simpa [isMx] using hm
    unfold footprint; rw [if_neg (by omega), if_neg (by omega), if_pos hm]
  · rw [if_neg hm]
    have hc : code < 6 := Nat.lt_of_not_le fun hh => hm (by simp [isMx]; omega)
    have hv : (lines.flatMap id).length = 16 * lineElems code := by
      rw [length_flatMap_const id (lineElems code) lines h2, h1]
    unfold plainTile
    dsimp only
    generalize hp : ((List.range (lines.flatMap id).length).zip (lines.flatMap id)).map _ = pats
    have hpl : pats.length = 16 * lineElems code := by
      rw [← hp, List.length_map, List.length_zip, List.length_range, Nat.min_self, hv]
    unfold packBytes footprint
    simp only [hm, Bool.false_eq_true, if_false]
    split
    · rename_i h3
      have h3' : code = 1 := by omega
      rw [length_flatMap_const (leBytes 4) 4 pats fun x _ => leBytes_length 4 x, hpl, if_pos h3', h3']; rfl
    · rename_i h3
      simp only [show ¬ code = 1 by omega, show ¬ code = 0xB by omega, if_false]
      split
      · rename_i h4
        rw [length_flatMap_const (leBytes 2) 2 pats fun x _ => leBytes_length 2 x, hpl]
        rcases h4 with h4 | h4 <;> rw [h4] <;> rfl
      · rename_i h4
        simp only [show ¬ (code = 8 ∨ code = 9) by omega, show ¬ code = 0xA by omega, if_false]
        rw [List.length_map, hpl]
        unfold lineElems; rw [if_neg (by omega), if_neg (by omega)]

theorem doubletTile_length (fl : W32 → W32) (ps : List (W32 × W32)) : (doubletTile fl ps).bytes.length = ps.length * 8 := by
  unfold doubletTile
  exact length_flatMap_const _ 8 ps fun x _ => by simp [leBytes_length]

theorem chunks_shape {α : Type} (n k : Nat) (l : List α) : (chunks n k l).length = k ∧ ∀ r ∈ chunks n k l, r.length ≤ n := by
  induction k generalizing l with
  | zero => exact ⟨rfl, fun r hr => absurd hr (by simp [chunks])⟩
  | succ k ih =>
    obtain ⟨a, b⟩ := ih (l.drop n)
    refine ⟨by simp [chunks, a], fun r hr => ?_⟩
    rcases List.mem_cons.1 hr with h | h
    · rw [h, List.length_take]; omega
    · exact b r h

theorem slotRows_shaped (c : Core) (e k : Nat) : (c.slotRows e k).length = 16 ∧ ∀ r ∈ c.slotRows e k, r.length = 16 := by
  unfold Core.slotRows
  refine ⟨by simp, fun r hr => ?_⟩
  simp only [List.mem_map, List.mem_range] at hr
  obtain ⟨a, _, rfl⟩ := hr; simp

/-- The combination of three tiles has the lines of the first. -/
theorem zip3_shape (f : W32 → W32 → W32 → W32 × Bool) (a x u : List (List W32)) (n : Nat) (h : ∀ r ∈ a, r.length = n) :
    (zip3 f a x u).length = a.length ∧ ∀ r ∈ zip3 f a x u, r.length = n := by
  unfold zip3
  refine ⟨by simp, fun r hr => ?_⟩
  obtain ⟨ir, hir, rfl⟩ := List.mem_map.1 hr
  simp [h _ (List.of_mem_zip hir).2]

/-- A DRAIN's tile fills the footprint of its format. -/
theorem State.drainTile_length (s : State) (core : Nat) (c : Core) (i : Insn) (d : W128) (b : Bool) (r : Rec)
    (h : 1 ≤ i.fmtN ∧ i.fmtN ≤ 0xB) : (s.drainTile core c i d b r).tile.bytes.length = footprint i.fmtN := by
  unfold State.drainTile
  by_cases hB : i.fmtN = 0xB
  · have hl : ∀ k, ((c.slotRows i.engine k).flatMap id).length = 256 := fun k => by
      rw [length_flatMap_const id 16 _ (slotRows_shaped c i.engine k).2, (slotRows_shaped c i.engine k).1]
    simp only [hB, if_true]
    rw [doubletTile_length, List.length_zipWith]
    show min ((c.slotRows i.engine (i.slot / 2 * 2 + 0)).flatMap id).length
      ((c.slotRows i.engine (i.slot / 2 * 2 + 1)).flatMap id).length * 8 = 2048
    rw [hl, hl]; rfl
  · simp only [hB, if_false]
    have hc : 1 ≤ i.fmtN ∧ i.fmtN ≤ 0xA := ⟨h.1, by omega⟩
    generalize hgn : drainSlots i.fmtN i.slot = gn
    obtain ⟨g, n⟩ := gn
    have hn : 16 * n = lineElems i.fmtN := by
      unfold drainSlots at hgn
      unfold lineElems
      split at hgn
      · rename_i h3; rw [if_pos (.inl h3)]; injection hgn with _ h4; omega
      · split at hgn
        · rename_i h3 h4; rw [if_neg (by omega), if_pos h4]; injection hgn with _ h5; omega
        · rename_i h3 h4; rw [if_neg (by omega), if_neg h4]; injection hgn with _ h5; omega
    dsimp only
    refine convTile_length hc _ _ ?_
    have hrow : ∀ k, k < 16 → (((List.range n).map fun q => c.slotRows i.engine (g + q)).flatMap fun sl => sl.getD k []).length
        = 16 * n := by
      intro k hk
      rw [length_flatMap_const _ 16 _ (fun sl hsl => by
        obtain ⟨q, _, rfl⟩ := List.mem_map.1 hsl
        obtain ⟨s1, s2⟩ := slotRows_shaped c i.engine (g + q)
        rw [List.getD_eq_getElem?_getD, List.getElem?_eq_getElem (by rw [s1]; exact hk)]
        exact s2 _ (List.getElem_mem _)), List.length_map, List.length_range]
      omega
    generalize hR : ((List.range 16).map fun k => ((List.range n).map fun q => c.slotRows i.engine (g + q)).flatMap
      fun sl => sl.getD k []) = R
    have hR1 : R.length = 16 := by rw [← hR]; simp
    have hR2 : ∀ r ∈ R, r.length = 16 * n := by
      intro r hr
      rw [← hR] at hr
      obtain ⟨k, hk, rfl⟩ := List.mem_map.1 hr
      exact hrow k (List.mem_range.1 hk)
    refine ⟨by simp [(zip3_shape _ R _ _ (16 * n) hR2).1, hR1], fun r hr => ?_⟩
    obtain ⟨x, hx, rfl⟩ := List.mem_map.1 hr
    rw [List.length_map, (zip3_shape _ R _ _ (16 * n) hR2).2 x hx, hn]

end Sys2Proof.Machine
end

