-- ==== Sys2Proof/Laws/VecTiles.lean ====
section
/-!
SUPPORT. The tiles of a vector conversion stay within the bytes of a walk's tile (03 R71).
-/

namespace Sys2Proof.Machine

/-- A destination tile of a VCVT fits the tile of its walk. -/
theorem cvtTile_length {code : Nat} (t : W32) (rd : Rounding) {vs : List W32} (h : vs.length ≤ vecElems code) :
    (cvtTile code t rd vs).bytes.length ≤ vecBytes code := by
  unfold cvtTile vecBytes
  by_cases hB : code = 0xB
  · rw [if_pos hB, doubletTile_length, List.length_map]
    rw [hB] at h ⊢
    have : vs.length ≤ 64 := h
    show vs.length * 8 ≤ 512
    omega
  · rw [if_neg hB]
    by_cases hm : isMx code = true
    · exact Nat.le_of_eq (by
        rw [if_pos hm, if_pos hm, mxTile_length (by simpa [isMx] using hm) t rd (chunks_shape _ 16 vs).1 (chunks_shape _ 16 vs).2])
    · rw [if_neg hm, if_neg hm]
      unfold plainTile
      dsimp only
      generalize hp : ((List.range ([vs].flatMap id).length).zip ([vs].flatMap id)).map _ = pats
      have hpl : pats.length = vs.length := by rw [← hp, List.length_map, List.length_zip, List.length_range, Nat.min_self]; simp
      have hmx : ¬ (6 ≤ code ∧ code ≤ 10) := by simpa [isMx] using hm
      unfold vecElems lineElems at h
      unfold packBytes
      split
      · rename_i h1
        have h1' : code = 1 := h1.resolve_right hB
        rw [if_pos h1'] at h
        rw [length_flatMap_const (leBytes 4) 4 pats fun x _ => leBytes_length 4 x]; omega
      · rename_i h1
        rw [if_neg (by omega), if_neg hB] at h
        split
        · rename_i h2
          rw [if_pos (by omega)] at h
          rw [length_flatMap_const (leBytes 2) 2 pats fun x _ => leBytes_length 2 x]; omega
        · rw [if_neg (by omega), if_neg (by omega), List.length_map]
          split at h
          · omega
          · rw [if_neg (by omega)] at h; omega

end Sys2Proof.Machine
end

