-- ==== Sys2Proof/Tests/Slice0.lean ====
section
/-!
SUPPORT. Tests: instruction words written out from 03 Table 03-5, an ill-formed term for each check of WellFormed, small
steps whose results are computed by hand from the rules, and for each statement with hypotheses a state that meets them.
-/

namespace Sys2Proof.Tests

open Sys2Proof Sys2Proof.Machine

set_option Elab.async false
set_option maxRecDepth 20000
set_option exponentiation.threshold 2000

/-- What a command leaves; a state that no command answers where it stops. -/
def out (c : Instr) (s : State) : State :=
  match exec c s with
  | .next t => t
  | _ => { s with freeCtr := s.freeCtr + 1000000 }

/-- A field of Table 03-3. -/
def desc (fmt base stride index wrap : Nat) (scaled : Bool) : W128 :=
  BitVec.ofNat 128 (fmt * 2 ^ 120 + (if scaled then 2 ^ 119 else 0) + wrap * 2 ^ 96 + index * 2 ^ 80 + stride * 2 ^ 32 + base)

/-- An instruction that ends its group and asks for no counter. -/
def insn (cls op : Nat) (dst src1 src2 : BitVec 6) (flags imm : Nat) : Insn :=
  { cls := BitVec.ofNat 4 cls, op := BitVec.ofNat 8 op, fmt := 0, dst := dst, src1 := src1, src2 := src2, src3 := 0, ctr := 0x3F,
    last := true, flags := BitVec.ofNat 13 flags, imm := BitVec.ofNat 64 imm }

/-- Core 0 of context 0, ready to issue the instructions from index 0. -/
def ready (l : List Insn) (c : Core) : State :=
  { State.reset with
    imem := wrImem [] 0 (l.flatMap fun i => leBytes 16 (encodeInsn i).toNat)
    ctxs := [(0, { Ctx.init with desc := BitVec.ofNat 512 (2 ^ 448 + 2 ^ 342) })]
    cores := [(0, { c with run := .running })] }

def withS (l : Tbl W64) : Core := { Core.init with sreg := l }
def withT (l : Tbl W128) : Core := { Core.init with treg := l }

/-! Words of instructions, written field by field from 03 Table 03-5 -/

-- ADD s3, s1, s2, END, no counter: CLASS 0, OP 0x01, DST 3, SRC1 1, SRC2 2, CTR 0x3F
theorem test_word_add : decodeInsn (BitVec.ofNat 128
    (0x0 * 2 ^ 124 + 0x01 * 2 ^ 116 + 0x00 * 2 ^ 108 + 3 * 2 ^ 102 + 1 * 2 ^ 96 + 2 * 2 ^ 90 + 0x3F * 2 ^ 78 + 1 * 2 ^ 77))
    = insn 0 0x01 3 1 2 0 0 := by decide
-- MMA into engine 1, slot 5 from t0 and t1, BF16 (FMT 0x02), INIT: DST is [107] 1 and [104:102] 5
theorem test_word_mma : decodeInsn (BitVec.ofNat 128
    (0x1 * 2 ^ 124 + 0x01 * 2 ^ 116 + 0x02 * 2 ^ 108 + 1 * 2 ^ 107 + 5 * 2 ^ 102 + 0x30 * 2 ^ 96 + 0x31 * 2 ^ 90 + 0x3F * 2 ^ 78 + 1 * 2 ^ 64))
    = { insn 1 0x01 0x25 0x30 0x31 1 0 with fmt := 2, last := false } := by decide
-- VADD t2, t0, t1, FP32 (FMT 0x01), count 7 in IMM[15:0]
theorem test_word_vadd : decodeInsn (BitVec.ofNat 128
    (0x2 * 2 ^ 124 + 0x01 * 2 ^ 116 + 0x01 * 2 ^ 108 + 0x32 * 2 ^ 102 + 0x30 * 2 ^ 96 + 0x31 * 2 ^ 90 + 0x3F * 2 ^ 78 + 1 * 2 ^ 77 + 7))
    = { insn 2 0x01 0x32 0x30 0x31 0 7 with fmt := 1 } := by decide
-- XPUT a0, s1, queue 9, length 64, CTR 5
theorem test_word_xput : decodeInsn (BitVec.ofNat 128
    (0x3 * 2 ^ 124 + 0x01 * 2 ^ 116 + 0x20 * 2 ^ 96 + 1 * 2 ^ 90 + 5 * 2 ^ 78 + 1 * 2 ^ 77 + 9 * 2 ^ 32 + 64))
    = { insn 3 0x01 0 0x20 1 0 (9 * 2 ^ 32 + 64) with ctr := 5 } := by decide
-- SYNC.WAIT on counter 47, threshold 3, timeout 2
theorem test_word_sync : decodeInsn (BitVec.ofNat 128
    (0x4 * 2 ^ 124 + 0x03 * 2 ^ 116 + 47 * 2 ^ 78 + 1 * 2 ^ 77 + 2 * 2 ^ 32 + 3))
    = { insn 4 0x03 0 0 0 0 (2 * 2 ^ 32 + 3) with ctr := 47 } := by decide
-- MARK tag 0xABCD
theorem test_word_mark : decodeInsn (BitVec.ofNat 128 (0x5 * 2 ^ 124 + 0x01 * 2 ^ 116 + 0x3F * 2 ^ 78 + 1 * 2 ^ 77 + 0xABCD))
    = insn 5 0x01 0 0 0 0 0xABCD := by decide
theorem test_word_back : encodeInsn (insn 0 0x01 3 1 2 0 0) = BitVec.ofNat 128
    (0x01 * 2 ^ 116 + 3 * 2 ^ 102 + 1 * 2 ^ 96 + 2 * 2 ^ 90 + 0x3F * 2 ^ 78 + 1 * 2 ^ 77) := by decide
-- no row of the table gives bits
theorem test_table_word : decodeTableWord 128 0 = none ∧ (State.reset.withFetchWord 128 0).pending = [] := by decide

/-! Well-formed commands: an ill-formed term for each check -/

def frameOf (kind n : Nat) : Frame :=
  { hdr := BitVec.ofNat 256 (kind * 2 ^ 16 + n * 2 ^ 35), payload := List.replicate n 0 }

theorem test_wf_frame_length : (Frame.wf { frameOf 0 2 with payload := [0] } = false) ∧ (frameOf 0 2).wf = true := by decide
theorem test_wf_frame_kinds :
    ([Instr.beacon (frameOf 0 8) 0, .probe (frameOf 0 8) 0, .put (frameOf 1 8) 0 .ok, .getReq (frameOf 0 0) .ok, .getData (frameOf 0 8),
      .addFrame (frameOf 0 8) .ok, .signal (frameOf 0 0) 0, .ack (frameOf 0 0), .nack (frameOf 0 0), .barrierArrive (frameOf 0 16),
      .barrierComplete (frameOf 0 16), .mgmt (frameOf 0 16), .reservedKindDiscard (frameOf 10 0),
      .frameForward { frameOf 0 2 with payload := [] } ⟨0, []⟩].all fun c => !c.wf) = true := by decide
theorem test_wf_frame_kinds_good :
    ([Instr.beacon (frameOf 7 8) 22499, .probe (frameOf 8 8) 0, .put (frameOf 0 8) 0 .ok, .mgmt (frameOf 10 16),
      .reservedKindDiscard (frameOf 11 0)].all Instr.wf) = true := by decide
theorem test_wf_cycle : (Instr.beacon (frameOf 7 8) 22500).wf = false ∧ (Instr.probe (frameOf 8 8) 22500).wf = false := by decide
def badOp : Insn := insn 6 0 0 0 0 0 0
theorem test_wf_scalar_ops :
    ([Instr.add 0 badOp, .sub 0 badOp, .mul 0 badOp, .and_ 0 badOp, .or_ 0 badOp, .xor_ 0 badOp, .shl 0 badOp, .shr 0 badOp, .sra 0 badOp,
      .cmplt 0 badOp, .cmpeq 0 badOp, .movi 0 badOp, .lds 0 badOp .ok, .sts 0 badOp, .srd 0 badOp, .tld 0 badOp .ok, .tst 0 badOp,
      .amov 0 badOp, .br 0 badOp, .brnz 0 badOp, .loop 0 badOp, .halt 0 badOp].all fun c => !c.wf) = true := by decide
theorem test_wf_engine_ops :
    ([Instr.mma 0 badOp .ok, .mmaT 0 badOp .ok, .mmaD 0 badOp .ok, .drain 0 badOp .ok, .tap 0 badOp, .vadd 0 badOp .ok, .vsub 0 badOp .ok,
      .vmul 0 badOp .ok, .vfma 0 badOp .ok, .vmax 0 badOp .ok, .vmin 0 badOp .ok, .vabsmax 0 badOp .ok, .vsum 0 badOp .ok,
      .vcvt 0 badOp .ok, .vexp 0 badOp .ok, .vlog 0 badOp .ok, .vrsqrt 0 badOp .ok, .vrcp 0 badOp .ok, .xput 0 badOp, .xget 0 badOp,
      .xadd 0 badOp, .xsig 0 badOp, .xfence 0 badOp, .syncInc 0 badOp, .syncDec 0 badOp, .syncWait 0 badOp, .mark 0 badOp,
      .loupe 0 badOp].all fun c => !c.wf) = true := by decide
theorem test_wf_op_good : (Instr.add 0 (insn 0 1 0 0 0 0 0)).wf = true ∧ (Instr.xfence 0 (insn 3 5 0 0 0 0 0)).wf = true
    ∧ (Instr.vrcp 0 (insn 2 0x23 0 0 0 0 0) .ok).wf = true := by decide
theorem test_wf_counter : (Instr.counterApply 0 ⟨48, []⟩).wf = false ∧ (Instr.counterApply 0 ⟨47, []⟩).wf = true := by decide
theorem test_wf_stage : (Instr.startupStage 11 0 true 0 0 0).wf = false ∧ (Instr.startupStage 0 0 true 0 0 0).wf = false
    ∧ (Instr.startupStage 10 0 true 0 0 0).wf = true := by decide
theorem test_wf_bar2 : (Instr.bar2Read 0 0 ⟨4097, .ok⟩ true).wf = false ∧ (Instr.bar2Read 0 0 ⟨4096, .ok⟩ true).wf = true
    ∧ (Instr.bar2Write 0 0 [1] true).wf = true := by decide
theorem test_wf_mailbox : (Instr.mailboxGo .host 8).wf = false ∧ (Instr.mailboxGo .host 4).wf = true := by decide
theorem test_wf_usdo (d : List Byte) (h : d.length = 257) (r : DictReq) : (Instr.usdoRequest 0 { r with data := d }).wf = false := by
  simp [Instr.wf, h]
theorem test_wf_bar2_long (d : List Byte) (h : d.length = 4097) : (Instr.bar2Write 0 0 d true).wf = false := by simp [Instr.wf, h]
theorem test_wf_doorbell (l : List (BitVec 512)) (h : l.length = 65537) (q : Fin 256) (fn : Fin 17) (v : BitVec 64) :
    (Instr.sqTailDoorbell fn q v l true).wf = false := by simp [Instr.wf, h]
theorem test_wf_register (d : List Byte) (h : d.length = 0x10000001) (o : Origin) : (Instr.registerWrite o true 0 d true).wf = false := by
  simp [Instr.wf, h]
theorem test_wf_others : Instr.tick.wf = true := by decide
/-! The time base -/

def timed (f : TimeBase → TimeBase) : State := { State.reset with time := f State.reset.time }

-- R34: 100 ppm is within the range; R44: 2 cc are in tolerance after WIRED and 72 cc after BEACON
theorem witness_SysrefStates_lock : (100 : Int).natAbs ≤ 100 ∧ State.reset.time.locked = false ∧ State.reset.time.held = false := by decide
theorem witness_SysrefStates_loss :
    (timed fun t => { t with locked := true }).time.locked = true ∧ (timed fun t => { t with locked := true }).time.held = false
    ∧ (timed fun t => { t with locked := true, held := true }).time.locked = true
    ∧ (timed fun t => { t with locked := true, held := true }).time.held = true := by decide
def lost (src : TimeSource) : State :=
  timed fun t => { t with everLocked := true, held := true, holdFrom := some 5, prevSource := src, source := .holdover, boundaries := 100005 }
def relost (src : TimeSource) : State :=
  timed fun t => { t with everLocked := true, held := true, holdFrom := some 5, prevSource := src, source := .holdover, boundaries := 6 }
theorem witness_SysrefStates_return :
    (relost .wired).time.locked = false ∧ (relost .wired).time.everLocked = true ∧ (relost .wired).time.held = true
    ∧ (relost .wired).time.holdFrom = some 5 ∧ (relost .wired).time.boundaries < 5 + (relost .wired).od 0x2200 0xC
    ∧ (relost .wired).time.drifted = false
    ∧ (2 - (if (relost .wired).time.prevSource = .wired then (relost .wired).od 0x2200 5 else (relost .wired).od 0x2200 0x10 : Nat) : Int).natAbs
        ≤ (if (relost .wired).time.prevSource = .wired then 2 else 72)
    ∧ (-72 - (if (relost .beacon).time.prevSource = .wired then (relost .beacon).od 0x2200 5 else (relost .beacon).od 0x2200 0x10 : Nat) : Int).natAbs
        ≤ (if (relost .beacon).time.prevSource = .wired then 2 else 72)
    ∧ (if (relost .wired).time.prevSource = .wired then 2 else 72)
        < (3 - (if (relost .wired).time.prevSource = .wired then (relost .wired).od 0x2200 5 else (relost .wired).od 0x2200 0x10 : Nat) : Int).natAbs
    ∧ (timed fun t => { t with everLocked := true, held := true, prevSource := .wired, source := .holdover }).time.holdFrom = none := by decide
theorem witness_SysrefStates_limit :
    (lost .wired).time.holdFrom = some 5 ∧ (lost .wired).time.source = .holdover ∧ (lost .wired).time.locked = false
    ∧ 5 + (lost .wired).od 0x2200 0xC ≤ (lost .wired).time.boundaries := by decide
theorem test_sysref_return : (out (.sysrefReturn 2) (relost .wired)).time.source = .wired ∧ (out (.sysrefReturn 3) (relost .wired)).time.source = .holdover
    ∧ (out (.sysrefReturn 3) (relost .wired)).time.errRun = 1 := by decide

theorem witness_TicksAndBoundaries :
    (let s := timed fun t => { t with everLocked := true, tick := 1248 }
     s.time.everLocked = true ∧ s.time.tick < 1249 ∧ s.tickHeld = false ∧ (∀ c ∈ s.clusters, c.2.tState ≠ 2 ∧ c.2.solverRun = none))
    ∧ (let s := timed fun t => { t with everLocked := true, tick := 1249 }
       s.time.everLocked = true ∧ s.time.tick = 1249 ∧ s.tickHeld = false ∧ s.time.rephaseReq = false)
    ∧ (let s := timed fun t => { t with everLocked := true, tick := 1249, rephaseReq := true }
       s.tickHeld = false ∧ s.time.rephaseReq = true)
    ∧ ((ready [] Core.init).getCore 0).run = .running ∧ (ready [] Core.init).stallCause 0 = none
    ∧ ((ready [] { Core.init with wait := some ⟨0, 1, 0, 0, 0, false, false, 0⟩ }).getCore 0).run = .running
    ∧ (ready [] { Core.init with wait := some ⟨0, 1, 0, 0, 0, false, false, 0⟩ }).stallCause 0 = some 2 := by decide
-- 17 R376, R377: a tick counts 18 running cycles, and 18 cycles of waiting
theorem test_tick_counts : tblGet w48z ((out .tick { ready [] { Core.init with wait := some ⟨0, 1, 0, 0, 0, false, false, 0⟩ } with
      time := { State.reset.time with everLocked := true } }).getCore 0).counts 0x400 = 18
    ∧ tblGet w48z ((out .tick { ready [] { Core.init with wait := some ⟨0, 1, 0, 0, 0, false, false, 0⟩ } with
      time := { State.reset.time with everLocked := true } }).getCore 0).counts 0x578 = 18 := by decide
-- R35: tick 1,249 is followed by tick 0 of the next sweep
theorem test_boundary : (out .sweepBoundary (timed fun t => { t with everLocked := true, tick := 1249, held := true, sweep := 7 })).time.tick = 0
    ∧ (out .sweepBoundary (timed fun t => { t with everLocked := true, tick := 1249, held := true, sweep := 7 })).time.sweep = 8
    ∧ (out .tick (timed fun t => { t with everLocked := true, tick := 1248 })).time.tick = 1249 := by decide
-- R42: an edge within 2 cc ends a run of errors; 21 R465: an edge within 9 us of the last one is an error
theorem test_edge : (out (.sweepEdge 2 9000) (timed fun t => { t with everLocked := true, held := true, errRun := 2 })).time.errRun = 0
    ∧ (out (.sweepEdge 3 9000) (timed fun t => { t with everLocked := true, held := true, errRun := 1 })).time.errRun = 2
    ∧ (out (.sweepEdge 0 8999) (timed fun t => { t with everLocked := true })).time.errRun = 1 := by decide

-- 02 R36, log 118: the first SWEEP edge of a module without a count sets the phase
theorem test_edge_phase : (out (.sweepEdge 0 9000) (timed fun t => { t with everLocked := true, tick := 600 })).time.phased = true
    ∧ (out (.sweepEdge 0 9000) (timed fun t => { t with everLocked := true, tick := 600 })).time.tick = 0 := by decide
theorem witness_SweepEdgesCheckOnly :
    ((8999 : Nat) < 9000 ∧ State.reset.time.everLocked = false
    ∧ (timed fun t => { t with everLocked := true, held := true }).time.held = true
    ∧ (timed fun t => { t with everLocked := true, phased := true }).time.phased = true
    ∧ (timed fun t => { t with everLocked := true }).time.everLocked = true ∧ (timed fun t => { t with everLocked := true }).time.held = false
    ∧ (timed fun t => { t with everLocked := true }).time.phased = false) := by decide

def beaconFrame (src : Nat) (p : List Byte) : Frame :=
  { hdr := BitVec.ofNat 256 (src * 2 ^ 224 + 7 * 2 ^ 16 + p.length * 2 ^ 35), payload := p }
theorem witness_BeaconsGiveTheCount :
    (beaconFrame 3 (leBytes 8 1000)).hasKind 7 = true ∧ (beaconFrame 3 (leBytes 8 1000)).payload.length = 8
    ∧ (timed fun t => { t with locked := true, sweepWired := true }).time.sweepWired = true
    ∧ (timed fun t => { t with locked := true }).time.sweepWired = false ∧ (timed fun t => { t with locked := true }).od 0x2200 0x10 < 22500
    ∧ (timed fun t => { t with locked := true }).master = false ∧ (timed fun t => { t with locked := true }).time.held = false
    ∧ (timed fun t => { t with locked := true, held := true, beaconFrom := some 3 }).time.beaconFrom ≠ some (beaconFrame 4 (leBytes 8 1000)).src
    ∧ (beaconFrame 3 (leBytes 7 0)).hasKind 7 = true ∧ (beaconFrame 3 (leBytes 7 0)).payload.length ≠ 8
    ∧ (frameOf 8 8).hasKind 8 = true ∧ State.reset.inWindow (frameOf 8 8) = true := by decide
theorem witness_BeaconsGiveTheCount_master :
    ((timed id).setOd 0x2200 4 1).master = true ∧ (beaconFrame 3 (leBytes 8 1000)).src ≠ ((timed id).setOd 0x2200 4 1).moduleId := by decide
theorem witness_EpochAndRephase :
    (let s := (timed fun t => { t with locked := true }).setOd 0x2200 4 1
     s.indexServed 0x2200 = true ∧ s.quiescent = true ∧ s.master = true ∧ s.time.source = .unlocked ∧ s.time.locked = true ∧ s.time.epochUsed = false)
    ∧ (let s := timed fun t => { t with epochAt := some 4, boundaries := 4 }
       s.time.epochAt = some 4 ∧ 4 ≤ s.time.boundaries)
    ∧ (let s := timed fun t => { t with rephaseReq := true, sweepWired := true, everLocked := true, tick := rephaseTick 625 }
       s.time.rephaseReq = true ∧ s.time.sweepWired = true ∧ s.time.everLocked = true ∧ s.tickHeld = false
         ∧ s.time.tick = rephaseTick (625 - (if s.time.sweepWired then s.od 0x2200 5 else s.od 0x2200 0x10 : Nat)))
    ∧ (let s := timed fun t => { t with rephaseReq := true, beaconFrom := some 3, everLocked := true, tick := rephaseTick (-625) }
       s.time.beaconFrom.isSome = true ∧ s.tickHeld = false
         ∧ s.time.tick = rephaseTick (-625 - (if s.time.sweepWired then s.od 0x2200 5 else s.od 0x2200 0x10 : Nat)))
    ∧ (timed fun t => { t with tick := 933 }).time.tick ∈ [100, 517, 933] := by decide
theorem test_epoch : (out .systemEpoch (timed fun t => { t with epochAt := some 4, boundaries := 4, sweep := 9 })).time.held = true
    ∧ (out .systemEpoch (timed fun t => { t with epochAt := some 4, boundaries := 4, sweep := 9 })).time.sweep = 0 := by decide

/-! Scalar instructions -/

theorem witness_ScalarResults : (insn 0 1 3 1 2 0 0).isOp 0 1 = true ∧ (ready [insn 0 1 3 1 2 0 0] (withS [(1, 5), (2, 7)])).Issues 0 (insn 0 1 3 1 2 0 0)
    ∧ (insn 0 0xB 31 0 31 1 (2 ^ 64 - 1)).isOp 0 0xB = true
    ∧ ¬ (ready [insn 0 0xB 31 0 31 1 (2 ^ 64 - 1)] Core.init).Issues 0 (insn 0 0xB 31 0 31 1 (2 ^ 64 - 1))
    ∧ (ready [insn 0 0xB 31 0 0 1 (2 ^ 64 - 1)] Core.init).Issues 0 (insn 0 0xB 31 0 0 1 (2 ^ 64 - 1)) := by
  unfold State.Issues; decide
-- 03 R71: sums wrap, a shift by 64 gives 0, an arithmetic one gives the sign
theorem test_add : (out (.add 0 (insn 0 1 3 1 2 0 0)) (ready [insn 0 1 3 1 2 0 0] (withS [(1, 5), (2, BitVec.ofNat 64 (2 ^ 64 - 7))]))).sReg 0 3
    = BitVec.ofNat 64 (2 ^ 64 - 2) := by decide
theorem test_shl : (out (.shl 0 (insn 0 7 3 1 0 1 64)) (ready [insn 0 7 3 1 0 1 64] (withS [(1, 5)]))).sReg 0 3 = 0 := by decide
theorem test_sra : (out (.sra 0 (insn 0 9 3 1 0 1 64)) (ready [insn 0 9 3 1 0 1 64] (withS [(1, BitVec.ofNat 64 (2 ^ 63))]))).sReg 0 3
    = BitVec.ofNat 64 (2 ^ 64 - 1) := by decide
theorem test_cmplt : (out (.cmplt 0 (insn 0 0xA 3 1 2 0 0)) (ready [insn 0 0xA 3 1 2 0 0] (withS [(1, BitVec.ofNat 64 (2 ^ 64 - 1))]))).sReg 0 3 = 1 := by decide
-- 03 R79: an OP that Table 03-6 does not list faults with cause 0x01, a reserved field with 0x02
theorem test_fault_op :
    fld ((out (.add 0 (insn 0 1 3 1 2 0 0)) (ready [insn 0 0xC 3 1 2 0 0] Core.init)).getCore 0).faultInfo 7 0 = 1 := by decide
theorem test_fault_reserved :
    fld ((out (.add 0 { insn 0 1 3 1 2 0 0 with fmt := 1 }) (ready [{ insn 0 1 3 1 2 0 0 with fmt := 1 }] Core.init)).getCore 0).faultInfo 7 0 = 2 := by decide

def moveRows : List Insn := [insn 0 0x10 31 0 0 0 9, insn 0 0x10 0x2F 0 0 0 9, insn 0 0x16 0x2F 1 0 0 0, insn 0 0x11 31 1 0 0 0xFFFF8,
  insn 0 0x14 0x3F 1 0 0 0xFFFF0, insn 0 0x13 30 0 0 0 0, insn 0 0x13 31 0 0 0 7]
theorem witness_RegisterMoves : ∀ i ∈ moveRows, (ready [i] Core.init).Issues 0 i := by unfold State.Issues; decide
theorem witness_RegisterMoves_kinds : isS (31 : BitVec 6) = true ∧ isA (0x2F : BitVec 6) = true
    ∧ (ready [insn 0 0x13 30 0 0 0 4] Core.init).ctxOfCore 0 = some 0 := by decide
theorem test_srd_sweep : (out (.srd 0 (insn 0 0x13 30 0 0 0 0)) { ready [insn 0 0x13 30 0 0 0 0] Core.init with
    time := { State.reset.time with held := true, sweep := 77, tick := 12 } }).sReg 0 30 = 77
    ∧ (out (.srd 0 (insn 0 0x13 30 0 0 0 0)) { ready [insn 0 0x13 30 0 0 0 0] Core.init with
    time := { State.reset.time with held := true, sweep := 77, tick := 12 } }).sReg 0 31 = 12 := by decide
theorem witness_StoresWriteTheirBytes :
    (ready [insn 0 0x12 0 1 2 0 0xFFFF8] Core.init).Issues 0 (insn 0 0x12 0 1 2 0 0xFFFF8)
    ∧ (ready [insn 0 0x15 0 1 0x30 0 0x13FFF0] Core.init).Issues 0 (insn 0 0x15 0 1 0x30 0 0x13FFF0) := by unfold State.Issues; decide
theorem test_sts : (out (.sts 0 (insn 0 0x12 0 1 2 0 0xFFFF8)) (ready [insn 0 0x12 0 1 2 0 0xFFFF8] (withS [(2, 0x0102)]))).rdLocal 0 0xFFFF8 2
    = [2, 1] := by decide

def ctlStep (i : Insn) (c : Core) : State := ready [i, insn 0 0x2F 0 0 0 0 0] c
theorem witness_ControlMovesThePc :
    (∀ i ∈ [insn 0 0x20 0 0 0 0 1, insn 0 0x20 0 0 0 0 4095, insn 0 0x20 0 0 0 0 4096, insn 0 0x21 0 1 0 0 1, insn 0 0x22 0 1 0 0 1],
      (ctlStep i (withS [(1, 3)])).Issues 0 i
      ∧ ((ctlStep i (withS [(1, 3)])).groupAt 0 0).any (fun p => p.2.clsN == 0 && p.2.opN == 0x2F) = false)
    ∧ (ctlStep (insn 0 0x21 0 1 0 0 1) Core.init).Issues 0 (insn 0 0x21 0 1 0 0 1)
    ∧ (ctlStep (insn 0 0x22 0 1 0 0 1) (withS [(1, 3)])).loopOk 0 0 1 = true
    ∧ (ctlStep (insn 0 0x20 0 0 0 0 1) Core.init).groupStart 0 1 = true := by unfold State.Issues; decide
theorem witness_ControlMovesThePc_halt :
    (ready [insn 0 0x2F 0 0 0 0 0] Core.init).Issues 0 (insn 0 0x2F 0 0 0 0 0)
    ∧ (0, insn 0 0x2F 0 0 0 0 0) ∈ (ready [insn 0 0x2F 0 0 0 0 0] Core.init).groupAt 0 0
    ∧ (ready [{ insn 0 0x20 0 0 0 0 0 with last := false }, { insn 2 1 0x30 0x30 0x30 0 0 with fmt := 1 }] (withT [(0, desc 1 0x1000 0 0 0 false)])).Issues 0
        { insn 0 0x20 0 0 0 0 0 with last := false } := by
  unfold State.Issues; decide
theorem test_br : ((out (.br 0 (insn 0 0x20 0 0 0 0 1)) (ctlStep (insn 0 0x20 0 0 0 0 1) Core.init)).getCore 0).pc = 1 := by decide
theorem test_loop : ((out (.loop 0 (insn 0 0x22 0 1 0 0 1)) (ctlStep (insn 0 0x22 0 1 0 0 1) (withS [(1, 3)]))).getCore 0).loops = [⟨1, 1, 3⟩] := by decide
theorem test_halt : ((out (.halt 0 (insn 0 0x2F 0 0 0 0 0)) (ready [insn 0 0x2F 0 0 0 0 0] Core.init)).getCore 0).run = .halted := by decide

/-! Matrix and vector instructions: BF16 tiles at 0x1000 and 0x2000, all elements zero but the first (1.0 and 2.0) -/

def tiles : State → State := fun s => { s with stores := wrBytes (wrBytes [] 0x1000 (leBytes 2 0x3F80)) 0x2000 (leBytes 2 0x4000) }
def mat (op flags : Nat) (dst : BitVec 6) (fmt : Nat) : Insn := { insn 1 op dst 0x30 0x31 flags 0 with fmt := BitVec.ofNat 8 fmt }
def matState (i : Insn) (fmt : Nat) : State :=
  tiles (ready [i] (withT [(0, desc fmt 0x1000 0 0 0 false), (1, desc fmt 0x2000 0 0 0 false)]))
theorem witness_MmaAccumulates : (matState (mat 1 1 0 2) 2).Issues 0 (mat 1 1 0 2)
    ∧ (matState (mat 1 6 0x27 2) 2).Issues 0 (mat 1 6 0x27 2) := by unfold State.Issues; decide
theorem test_mma : ((out (.mma 0 (mat 1 1 0 2) .ok) (matState (mat 1 1 0 2) 2)).getCore 0).accAt 0 0 0 0 = 0x40000000 := by decide
theorem witness_TransposedMma : (matState (mat 2 1 0 2) 2).Issues 0 (mat 2 1 0 2) ∧ (matState (mat 2 0 0x27 2) 2).Issues 0 (mat 2 0 0x27 2) := by
  unfold State.Issues; decide
theorem test_mmaT : ((out (.mmaT 0 (mat 2 1 0 2) .ok) (matState (mat 2 1 0 2) 2)).getCore 0).accAt 0 0 0 0 = 0x40000000 := by decide
theorem witness_DoubletMma : (matState (mat 3 1 0x26 0xB) 0xB).Issues 0 (mat 3 1 0x26 0xB) ∧ (mat 3 1 0x26 0xB).slot % 2 = 0
    ∧ (mat 3 1 0x26 0xB).isOp 1 3 = true := by unfold State.Issues; decide
-- 05 R111: an odd slot is fault cause 0x05
theorem test_mmaD_odd : fld ((out (.mmaD 0 (mat 3 1 1 0xB) .ok) (matState (mat 3 1 1 0xB) 0xB)).getCore 0).faultInfo 7 0 = 5 := by decide

/-- DRAIN of slot 0 of engine 0 to the FP32 descriptor t0. -/
def drainInsn (flags : Nat) (imm : Nat) : Insn := { insn 1 8 0 0x30 0 flags imm with fmt := 1 }
def drainState (i : Insn) : State := ready [i] { withT [(0, desc 1 0x13FC00 0 0 0 false)] with
    acc := [(0, 0x3F800000)], witness := [(0, 0x3F800000), (16, 0x3F800000), (32, 0x3F800000), (48, 0x3F800000)], witnessN := [(0, 1)] }
theorem witness_DrainWritesItsTile : ∀ f ∈ [0, 1], let i := drainInsn f 0
    let s := drainState i
    s.Issues 0 i ∧ i.isOp 1 8 = true ∧ 1 ≤ i.fmtN ∧ i.fmtN ≤ 0xB
    ∧ (∀ k ∈ witnessSlots i, (s.groupView 0).witnessFails i.engine k = false)
    ∧ i.fmtN = 1 ∧ (s.groupView 0).drainReadsRec i ((s.groupView 0).rdT i.src1) = false ∧ s.written 0 = [] := by
  unfold State.Issues; decide +kernel
-- 05 R122: a slot whose element 0 is 3.0 where its witness vectors say 1.0 fails the comparison
theorem test_drain_witness : ((drainState (drainInsn 0 0)).getCore 0).witnessFails 0 0 = false
    ∧ ({ (drainState (drainInsn 0 0)).getCore 0 with acc := [(0, 0x40400000)] } : Core).witnessFails 0 0 = true := by decide +kernel
-- 05 R122: with n = 0 and m = 1 the tolerance is 96 of 2 to the -24: a difference of 64 passes, one of 128 fails
theorem test_tolerance : witnessOff 0 [0x3F800000] 0x3F800020 0x3F800000 = false ∧ witnessOff 0 [0x3F800000] 0x3F800040 0x3F800000 = true
    ∧ witnessOff 0 [0x36800000] 0 0x3F800000 = false ∧ witnessOff 0 [0x37000000] 0 0x3F800000 = true := by decide +kernel
theorem test_drain : (out (.drain 0 (drainInsn 0 0) .ok) (drainState (drainInsn 0 0))).rdLocal 0 0x13FC00 8 = [0, 0, 0x80, 0x3F, 0, 0, 0, 0] := by decide

def vec (op : Nat) (dst : BitVec 6) (fmt n : Nat) : Insn := { insn 2 op dst 0x30 0x31 0 n with fmt := BitVec.ofNat 8 fmt, src3 := if op = 4 then 0x33 else 0 }
def vec1 (op : Nat) (dst : BitVec 6) (fmt n : Nat) : Insn := { vec op dst fmt n with src2 := 0 }
def vecState (i : Insn) (fmt : Nat) : State :=
  { ready [i] (withT [(0, desc fmt 0x1000 0 0 0 false), (1, desc fmt 0x2000 0 0 0 false), (2, desc 1 0x3000 0 0 0 false),
      (3, desc fmt 0x2000 0 0 0 false)]) with
    stores := wrBytes (wrBytes [] 0x1000 (leBytes 4 0x3F800000)) 0x2000 (leBytes 4 0x40000000) }
theorem witness_VectorArithmetic :
    (∀ op ∈ [1, 2, 3, 5, 6, 4], ((vec op 0x32 1 1).isOp 2 op = true) ∧ (vecState (vec op 0x32 1 1) 1).Issues 0 (vec op 0x32 1 1))
    ∧ (∀ op ∈ [0x20, 0x21, 0x22, 0x23], (vecState (vec1 op 0x32 1 1) 1).Issues 0 (vec1 op 0x32 1 1))
    ∧ (vecState (vec 1 0x33 2 0) 2).Issues 0 (vec 1 0x33 2 0)
    ∧ (∀ r : BitVec 6, r = 0x30 ∨ r = 0x31 ∨ r = 0x32 ∨ r = 0x33 → dFmt (((vecState (vec 4 0x32 1 1) 1).groupView 0).rdT r) = 1)
    ∧ Apart 0 0x3000 512 0x1000 512 := by
  refine ⟨?_, ?_, ?_, ?_, ?_⟩
  · unfold State.Issues; decide
  · unfold State.Issues; decide
  · unfold State.Issues; decide
  · rintro r (rfl | rfl | rfl | rfl) <;> decide
  · unfold Apart; decide
theorem test_vadd : (out (.vadd 0 (vec 1 0x32 1 1) .ok) (vecState (vec 1 0x32 1 1) 1)).rdLocal 0 0x3000 8 = [0, 0, 0x40, 0x40, 0, 0, 0, 0] := by decide
theorem test_vsub : (out (.vsub 0 (vec 2 0x32 1 1) .ok) (vecState (vec 2 0x32 1 1) 1)).rdLocal 0 0x3000 4 = [0, 0, 0x80, 0xBF] := by decide
theorem test_vfma : (out (.vfma 0 (vec 4 0x32 1 1) .ok) (vecState (vec 4 0x32 1 1) 1)).rdLocal 0 0x3000 4 = [0, 0, 0x80, 0x40] := by decide
theorem witness_VectorReductions : ∀ op ∈ [7, 8], (vecState (vec1 op 5 0 1) 1).Issues 0 (vec1 op 5 0 1) ∧ (vec1 op 5 0 1).isOp 2 op = true := by
  unfold State.Issues; decide
theorem test_vabsmax : (out (.vabsmax 0 (vec1 7 5 0 1) .ok) (vecState (vec1 7 5 0 1) 1)).sReg 0 5 = 0x3F800000 := by decide
theorem witness_ConvertWritesItsTiles : (vecState (vec1 0x10 0x32 0 1) 2).Issues 0 (vec1 0x10 0x32 0 1) ∧ (vec1 0x10 0x32 0 1).isOp 2 0x10 = true
    ∧ Apart 0 0x3000 512 0x1000 512 ∧ Apart 0 0x3000 512 0 32 ∧ Apart 0 0x3000 512 8 8
    ∧ (vecState (vec1 0x10 0x32 0 1) 2).written 0 = [] := by unfold State.Issues Apart; decide
theorem test_vcvt : (out (.vcvt 0 (vec1 0x10 0x32 0 1) .ok) (vecState (vec1 0x10 0x32 0 1) 2)).rdLocal 0 0x3000 8 = [0, 0, 0, 0, 0, 0, 0x80, 0x3F] := by decide

/-! Transfers: queue 9 bound to a destination, addresses in register a0 -/

def bind (dest : Nat) : W128 := BitVec.ofNat 128 (dest * 2 ^ 112 + 2 * 2 ^ 106 + 2 ^ 105 + 16 * 2 ^ 89)
def xfer (op : Nat) (src2 : BitVec 6) (fmt len : Nat) : Insn :=
  { insn 3 op 0 (if op = 5 then 0 else 0x20) src2 0 (9 * 2 ^ 32 + len) with fmt := BitVec.ofNat 8 fmt, ctr := 5 }
def xferState (i : Insn) (dest space : Nat) : State :=
  { ready [i] { withS [(1, 0x1000)] with areg := [(0, BitVec.ofNat 64 (dest * 2 ^ 48 + space * 2 ^ 44))] } with
    bindings := [(9, bind dest)]
    routes := [(5, 0x80FFFFFF)]
    groups := [(1, BitVec.ofNat 256 (0xFFFF * 2 ^ 240 + 2 ^ 202 + 2 ^ 201)), (2, BitVec.ofNat 256 (0xFFFF * 2 ^ 240 + 2 ^ 208 + 2 * 2 ^ 202 + 2 ^ 201 + 4 * 2 ^ 8))] }
/-- The operations with an operand each takes, and the space each may address. -/
def xferRows : List (Insn × XKind × Nat) := [(xfer 1 1 0 64, .put, 0), (xfer 2 1 0 64, .get, 0), (xfer 3 1 1 64, .add, 0), (xfer 4 0 0 3, .sig, 1)]
def startsTo (dest : Nat) (p : Insn × XKind × Nat) : Prop :=
  let s := xferState p.1 dest p.2.2
  let r := xferRequest s 0 p.1 p.2.1
  s.Issues 0 p.1 ∧ s.queueRefuses r = false ∧ s.sourceStatus r = stOk ∧ r.len ≠ 0
theorem witness_TransfersStart : ∀ d ∈ [State.reset.moduleId, 5], isGroup d = false ∧ ∀ p ∈ xferRows, startsTo d p := by
  unfold startsTo State.Issues; decide
theorem witness_TransfersThatEndAtOnce :
    (∀ p ∈ xferRows ++ [(xfer 5 0 0 0, .fence, 0)], (ready [p.1] Core.init).Issues 0 p.1
      ∧ (ready [p.1] Core.init).queueRefuses (xferRequest (ready [p.1] Core.init) 0 p.1 p.2.1) = true)
    ∧ (∀ p ∈ [(xfer 1 1 0 0, XKind.put, 0), (xfer 2 1 0 0, .get, 0), (xfer 3 1 1 0, .add, 0), (xfer 4 0 0 0, .sig, 1)],
      let s := xferState p.1 5 p.2.2
      let r := xferRequest s 0 p.1 p.2.1
      s.Issues 0 p.1 ∧ s.queueRefuses r = false ∧ s.sourceStatus r = stOk ∧ r.len = 0 ∧ (p.2.1 = .sig ∨ p.2.1 = .get ∨ r.sig = false))
    ∧ (xferState (xfer 5 0 0 0) 5 0).Issues 0 (xfer 5 0 0 0)
    ∧ (let s := xferState (xfer 5 0 0 0) 5 0
       let r := xferRequest s 0 (xfer 1 1 0 64) .put
       let u : State := { s with ops := [s.newOp r []] }
       u.Issues 0 (xfer 5 0 0 0) ∧ u.queueRefuses (xferRequest u 0 (xfer 5 0 0 0) .fence) = false
         ∧ ∃ y ∈ u.ops, y.core = 0 ∧ y.queue = (xferRequest u 0 (xfer 5 0 0 0) .fence).queue)
    ∧ (xferState (xfer 5 0 0 0) 5 0).queueRefuses (xferRequest (xferState (xfer 5 0 0 0) 5 0) 0 (xfer 5 0 0 0) .fence) = false := by
  unfold State.Issues; decide
theorem witness_GroupTransfersStart : ∀ p ∈ [(0xC001, (xfer 1 1 0 64, XKind.put, 0)), (0xC001, (xfer 4 0 0 3, .sig, 1)), (0xC002, (xfer 3 1 1 64, .add, 0))],
    isGroup p.1 = true ∧ startsTo p.1 p.2 := by unfold startsTo State.Issues; decide
-- 11 R276, R277: a transfer refused by its queue completes at once and its CTR has one more
theorem test_xput_refused : ((out (.xput 0 (xfer 1 1 0 64)) (ready [xfer 1 1 0 64] Core.init)).getCore 0).ctrVal 5 = 1 := by decide
theorem test_xput : (out (.xput 0 (xfer 1 1 0 64)) (xferState (xfer 1 1 0 64) 5 0)).txq.map (fun e => (e.frame.payload.length, e.frame.dest, e.hop))
    = [(64, 5, 5)] := by decide
theorem test_xsig : (out (.xsig 0 (xfer 4 0 0 3)) (xferState (xfer 4 0 0 3) 5 1)).txq.map (fun e => (e.frame.kind, e.frame.total)) = [(4, 3)] := by decide

/-! Sync counters, waits, taps -/

def sync (op imm : Nat) : Insn := { insn 4 op 0 0 0 0 imm with ctr := 47 }
theorem witness_SyncInstructions : ∀ op ∈ [1, 2, 3], (sync op 0xFFFFFFFF).isOp 4 op = true ∧ (ready [sync op 0xFFFFFFFF] Core.init).Issues 0 (sync op 0xFFFFFFFF) := by
  unfold State.Issues; decide
def pendCore (n : Nat) (dec : Bool) : Core := { Core.init with ctr := [(7, 2)], ctrPend := [⟨1, 7, dec, n, 0, 4⟩], run := .running }
def waitCore (met : Bool) (timeout : Nat) : Core := { Core.init with wait := some ⟨7, 3, timeout, 0, 10, met, false, 0⟩, run := .running }
def oneCore (c : Core) : State := { ready [] Core.init with cores := [(0, c)] }
theorem witness_CountersAndWaits :
    (∀ p ∈ [(2, true), (3, true), (5, false)], let q := pickChanges 7 [0] 0 ((oneCore (pendCore p.1 p.2)).getCore 0).ctrPend
      sameCycle q.1 q.2 = true ∧ (q.1.filter CtrChange.dec = if p.2 then [⟨1, 7, p.2, p.1, 0, 4⟩] else []))
    ∧ (let l : List CtrChange := [⟨1, 7, false, 3, 0, 12⟩, ⟨2, 7, true, 5, 1, 4⟩, ⟨3, 7, false, 1, 2, 4⟩]
       let q := pickChanges 7 [0, 1] 0 l
       sameCycle q.1 q.2 = true ∧ q.1.filter CtrChange.dec = [⟨2, 7, true, 5, 1, 4⟩])
    ∧ ((oneCore (waitCore true 0)).getCore 0).wait = some ⟨7, 3, 0, 0, 10, true, false, 0⟩
    ∧ ((oneCore (waitCore false 2)).getCore 0).wait = some ⟨7, 3, 2, 0, 10, false, false, 0⟩
    ∧ ((oneCore (waitCore false 2)).getCore 0).run = .running ∧ (oneCore (pendCore 3 true)).ctxOfCore 0 = some 0
    ∧ 10 + 2 + 1 ≤ (timed fun t => { t with boundaries := 13 }).time.boundaries ∧ State.reset.time.tick = 0 := by decide
-- 12 R285: DEC below zero is fault cause 0x08 and leaves the counter
theorem test_underflow : ((out (.counterApply 0 ⟨7, [0]⟩) (oneCore (pendCore 3 true))).getCore 0).ctrVal 7 = 2
    ∧ fld ((out (.counterApply 0 ⟨7, [0]⟩) (oneCore (pendCore 3 true))).getCore 0).faultInfo 7 0 = 8
    ∧ ((out (.counterApply 0 ⟨7, [0]⟩) (oneCore (pendCore 2 true))).getCore 0).ctrVal 7 = 0 := by decide
-- 12 R283, 03 R68: an MMA's change of 12 cycles does not come with the SYNC.DEC of 4 cycles that its group holds
theorem test_same_cycle : sameCycle [⟨1, 7, false, 1, 0, 12⟩, ⟨1, 7, true, 1, 0, 4⟩] [] = false := by decide
theorem test_wait_met : ((out (.waitMet 0 0) (oneCore (waitCore true 0))).getCore 0).wait = none := by decide
theorem test_wait_timeout : let s := { oneCore (waitCore false 2) with time := { State.reset.time with boundaries := 13 } }
    (out (.waitTimeout 0) s).cuts = [⟨14, 1, cutSync⟩] := by decide

def tapInsn : Insn := { insn 1 9 0 0x33 0 1 0 with fmt := 6, ctr := 3 }
def tapMma : Insn := { mat 1 1 0 6 with last := false }
def tapState : State :=
  let s := ready [tapMma, tapInsn] { withT [(0, desc 6 0x1000 0 0 0 true), (1, desc 6 0x2000 0 0 0 true), (3, desc 6 0x3000 0 0 0 true)] with pos := 1 }
  { s with ctxs := [(0, { s.getCtx 0 with stage := BitVec.ofNat 1024 (2 ^ 928 + 32 * 2 ^ 904), settings := [(tensorKey 0 0 2, 1)] })] }
def tapQueued : State := oneCore { Core.init with tapQ1 := [⟨0x100, [7, 8], 3, true⟩] }
theorem witness_TapCapturesAndWrites : tapState.Issues 0 tapInsn ∧ tapInsn.isOp 1 9 = true ∧ tapState.groupMma 0 tapInsn.engine = some tapMma
    ∧ (tapQueued.getCore 0).tapQ 1 = [⟨0x100, [7, 8], 3, true⟩] := by unfold State.Issues; decide
theorem test_tap : ((out (.tap 0 tapInsn) tapState).getCore 0).tapQ0.length = 1 := by decide
theorem test_tap_write : (out (.tapWrite 0 1) tapQueued).rdLocal 0 0x100 2 = [7, 8]
    ∧ ((out (.tapWrite 0 1) tapQueued).getCore 0).ctrVal 3 = 1 := by decide

/-- A trace bank that writes records, with no trigger filter, and watch 2 that matches anything of context 0. -/
def tracing : State → State := fun s => { s with clusters := [(0, { Cluster.init with traceBank := BitVec.ofNat 512 (2 ^ 238) })] }
def loupeInsn : Insn := insn 5 2 0 0x30 0 0 2
def loupeState (w : BitVec 512) : State := { ready [loupeInsn] (withT [(0, desc 1 0x1000 0 0 0 false)]) with obs := { State.reset.obs with watch := [(2, w)] } }
theorem witness_MarkAndLoupe : (ready [insn 5 1 0 0 0 0 9] Core.init).Issues 0 (insn 5 1 0 0 0 0 9)
    ∧ flag ((tracing (ready [insn 5 1 0 0 0 0 9] Core.init)).getCluster 0).traceBank 238 = true
    ∧ (tracing (ready [insn 5 1 0 0 0 0 9] Core.init)).Issues 0 (insn 5 1 0 0 0 0 9) ∧ (loupeState 0).Issues 0 loupeInsn := by unfold State.Issues; decide

/-! Contexts: context 0 runs in service, on cluster 0, at sweep 100, tick 5; region 0 gives it 16 pages from page 0 -/

def regionW (ctx base pages : Nat) : BitVec 256 := BitVec.ofNat 256 (ctx * 2 ^ 208 + base * 2 ^ 180 + pages * 2 ^ 152 + 2 ^ 148)
def live (f : Ctx → Ctx) : State :=
  { State.reset with
    time := { State.reset.time with held := true, locked := true, everLocked := true, source := .wired, sweep := 100, tick := 5, boundaries := 100 }
    long := { State.reset.long with region := [(0, regionW 0 0 16)] }
    ctxs := [(0, f { Ctx.init with desc := BitVec.ofNat 512 (2 ^ 448 + 2 ^ 342) })] }
def loupeLive : State :=
  let w := BitVec.ofNat 512 (0x80 * 2 ^ 448 + 4096 * 2 ^ 384 + 16 * 2 ^ 96 + 2 * 2 ^ 26)
  { loupeState w with
    time := (live id).time
    long := (live id).long }
theorem test_loupe : (out (.loupe 0 loupeInsn) loupeLive).rdLong 0x100 4 = [0, 0, 0, 0] ∧ fld ((out (.loupe 0 loupeInsn) loupeLive).watch 2) 383 320 = 1152
    ∧ fld ((out (.loupe 0 loupeInsn) loupeLive).watch 2) 63 32 = 1 ∧ loupeLive.Issues 0 loupeInsn := by unfold State.Issues; decide
theorem witness_MarkAndLoupe_writes : let s := loupeLive
    let d := (s.groupView 0).rdT loupeInsn.src1
    let r := (s.groupBefore 0).rdRec 0 d
    let w := s.watch 2
    let size := roundUp (128 + footprint (dFmt d)) 128
    s.ctxOfCore 0 = some 0 ∧ watchMatches w 0 r.tensorId.toNat (fld loupeInsn.imm 29 6) (fld loupeInsn.imm 53 30 + dIndex d) = true
    ∧ fld w 383 320 + size ≤ fld w 447 384 ∧ s.longOk (.ctx 0) true (wDest w % 2 ^ 44 + fld w 383 320) size = true := by decide

def stageW (arm : Nat) : BitVec 1024 :=
  BitVec.ofNat 1024 (100 * 2 ^ 960 + 1249 * 2 ^ 949 + 2 ^ 928 + 32 * 2 ^ 904 + 2 ^ 872 + 2 ^ 840 + 2 ^ 808 + 2 ^ 804 + arm * 2 ^ 777)
theorem witness_StagesAndStarts :
    (∀ arm ∈ [0, 1], fld (stageW arm) 948 944 = 0 ∧ fld (stageW arm) 776 0 = 0 ∧ stageValues (stageW arm) = true ∧ flag (stageW arm) 777 = (arm == 1)
      ∧ fld (stageW arm) 959 949 ≤ 1249 ∧ lin (live id).now + 2 ≤ lin (fld (stageW arm) 1023 960, fld (stageW arm) 959 949))
    ∧ (live id).originStatus .host = stOk ∧ ((live id).getCtx 0).stepRun = false
    ∧ (let s := live fun x => { x with startAt := some (100, 5) }
       (s.getCtx 0).startAt = some (100, 5) ∧ s.reached (100, 5) = true ∧ (s.getCtx 0).active = true ∧ s.cutCovers 0 (100, 5) = false
         ∧ (s.getCtx 0).stepRun = false ∧ s.isFirst 0 (eventKey (100, 5) 6) = true)
    ∧ (let s := { live id with cores := [(0, { Core.init with startSweep := 100, startTick := 7 })] }
       let w : W64 := 0xFFF0001
       fld w 63 28 = 0 ∧ fld w 15 1 = 0 ∧ flag w 0 = true ∧ (s.getCore 0).run ≠ .armed ∧ (s.getCore 0).run ≠ .running ∧ s.time.held = true
         ∧ (s.getCore 0).startTick.toNat ≤ 1249
         ∧ lin s.now + 2 ≤ lin ((s.getCore 0).startSweep.toNat, (s.getCore 0).startTick.toNat))
    ∧ (let s := { live id with cores := [(0, { Core.init with armedAt := some (100, 5), run := .armed })] }
       (s.getCore 0).armedAt = some (100, 5) ∧ (s.getCore 0).run = .armed ∧ s.reached (100, 5) = true
         ∧ s.coreCut 0 (100, 5) = false ∧ s.isFirstIn 0 (eventKey (100, 5) 6) = true) := by decide
theorem test_core_start : ((out (.coreStart 0) { live id with cores := [(0, { Core.init with armedAt := some (100, 5), run := .armed, entry := 9 })] }).getCore 0).pc = 9 := by decide
theorem test_step_start : ((out (.stepStart 0) (live fun x => { x with startAt := some (100, 5) })).getCtx 0).stepRun = true := by decide
theorem test_stage : ((out (.stageArm .host 0 (stageW 1)) (live id)).getCtx 0).startAt = some (100, 1249) := by decide
theorem test_start : ((out (.start .host 0 0xFFF0001) { live id with cores := [(0, { Core.init with startSweep := 100, startTick := 7, sreg := [(1, 2)] })] }).getCore 0).run = .armed
    ∧ (out (.start .host 0 0xFFF0001) { live id with cores := [(0, { Core.init with startSweep := 100, startTick := 7, sreg := [(1, 2)] })] }).sReg 0 1 = 0 := by decide

def createW : BitVec 512 := BitVec.ofNat 512 (2 * 2 ^ 448 + 5 * 2 ^ 384 + 2 ^ 340)
theorem witness_ContextsComeAndGo : (live id).originStatus .host = stOk ∧ (live id).frozen 1 = false ∧ fld createW 337 0 = 0
    ∧ ((live id).getCtx 1).state = 0 ∧ dCreate createW = true ∧ (live id).createOk 1 createW = true
    ∧ fld (BitVec.ofNat 512 (2 ^ 339)) 337 0 = 0 ∧ ((live id).getCtx 0).state ≠ 0 ∧ (BitVec.ofNat 512 (2 ^ 339)).toNat &&& descWritable = 2 ^ 339
    ∧ (live id).teardownFails 0 = false ∧ ((live id).getCtx 0).draining = false ∧ ((live id).getCtx 1).draining = false
    ∧ ((live fun x => { x with draining := true }).getCtx 0).draining = true ∧ ((live fun x => { x with draining := true }).getCtx 0).state ≠ 0 := by decide
theorem test_create : ((out (.create .host 1 createW) (live id)).getCtx 1).state = 1 := by decide
-- 14 R312: a context on a cluster that another one holds is not created
theorem test_create_taken : (out (.create .host 1 (BitVec.ofNat 512 (2 ^ 448 + 2 ^ 340))) (live id)).resp.status = 0x20 := by decide
theorem test_destroy : ((out (.destroy .host 0 (BitVec.ofNat 512 (2 ^ 339))) (live id)).getCtx 0).state = 0 := by decide

def gen (sl : Tbl W128) (sw : Nat) (cur : Nat := 0) : State :=
  live fun x => { x with desc := BitVec.ofNat 512 (2 ^ 448 + 3 * 2 ^ 350 + 2 * 2 ^ 348 + 4 * 2 ^ 344 + 2 ^ 342 + cur * 2 ^ 341), slot := sl, switch := BitVec.ofNat 128 sw }
def ring (used : Nat) : State :=
  { live fun x => { x with ringBase := 0x40 } with
    lr := wrBytes [] 0x40 (leBytes 64 (used * 2 ^ 384 + 4 * 2 ^ 352)) }
theorem witness_SlotsAndRing : (((gen [(3, mkSlot 8 0 0 2)] 0 1).switchSeen 0).getCtx 0).curSlot = some 3 ∧ (((live id).switchSeen 0).getCtx 0).curSlot = none
    ∧ (∀ st ∈ [2, 3], let x := mkSlot 8 1 0 st
        fld (0 : W64) 63 2 = 0 ∧ slotRefs x ≠ 0 ∧ 1 < slotState x)
    ∧ (∀ u ∈ [3, 4], (ring u).ringCheck 0 = stOk) := by decide
theorem test_ring : (out (.ringClaim .host 0) (ring 3)).resp.data = leBytes 8 3 ∧ (out (.ringClaim .host 0) (ring 4)).resp.data = leBytes 8 (2 ^ 63) := by decide
theorem test_acquire : (out (.acquire .host 0) (gen [(3, mkSlot 8 0 0 2)] 0 1)).resp.data = leBytes 8 (3 * 2 ^ 32 + 8) := by decide
-- 14 R318: the last reference of a draining slot frees it
theorem test_release : slotState (((out (.release .host 0 3) (gen [(3, mkSlot 8 1 0 3)] 0)).getCtx 0).getSlot 3) = 0 := by decide
theorem witness_ReleaseCountsDown : ∀ st ∈ [0, 1, 2, 3], let x := (((gen [(3, mkSlot 8 1 0 st)] 0).switchSeen 0).getCtx 0).getSlot 3
    fld x 51 50 = st ∧ fld x 95 64 = 1 ∧ fld (3 : W64) 1 0 = 3 ∧ fld (3 : W64) 63 2 = 0 ∧ fld ((((live id).switchSeen 0).getCtx 0).getSlot 3) 95 64 = 0 := by decide

def armSw (target : Nat) : W128 := BitVec.ofNat 128 (9 * 2 ^ 96 + 100 * 2 ^ 32 + 7 * 2 ^ 21 + target * 2 ^ 10 + 2 ^ 7)
def armedSw : Nat := 9 * 2 ^ 96 + 100 * 2 ^ 32 + 5 * 2 ^ 21 + 3 * 2 ^ 10 + 2 ^ 8
def barAt (st : Nat) (q : Nat × Nat) : State → State := fun s => { s with
  barriers := [(0, BitVec.ofNat 512 (st * 2 ^ 243 + 0xC001 * 2 ^ 320 + 2 ^ 352))]
  barCol := [(0, { BarrierCol.init with release := some q })] }
def learner (sw : Nat) : State :=
  live fun x => { x with desc := BitVec.ofNat 512 (2 ^ 448 + 1 * 2 ^ 348 + 2 ^ 342), switch := BitVec.ofNat 128 sw }
theorem witness_SwitchesTakeEffect :
    (let s := gen [] 0
     let w := armSw 3
     let x := s.getCtx 0
     fld w 12 12 = 0 ∧ fld w 5 0 = 0 ∧ flag w 7 = true ∧ swState x.switch ≠ 1 ∧ x.role = 2 ∧ flag x.desc 341 = false ∧ swTarget w < x.vslots
       ∧ slotState (x.getSlot (swTarget w)) = 0 ∧ barCtx (s.barrier (swBarrier w)) = 0 ∧ s.time.held = true ∧ (swPoint w).2 ≤ 1249
       ∧ lin s.now + 2 ≤ lin (swPoint w))
    ∧ ((learner 0).getCtx 0).role = 1
    ∧ (∀ s ∈ [gen [] armedSw, learner armedSw], let w := BitVec.ofNat 128 (2 ^ 6)
       fld w 12 12 = 0 ∧ fld w 5 0 = 0 ∧ flag w 7 = false ∧ flag w 6 = true ∧ swState (s.getCtx 0).switch = 1)
    ∧ (let w := BitVec.ofNat 128 (2 ^ 6)
       flag w 7 = false ∧ flag w 6 = true ∧ swState ((gen [] 0).getCtx 0).switch ≠ 1)
    ∧ (barAt 3 (100, 5) (gen [(3, mkSlot 9 0 0 1)] armedSw)).switchDue 0 = some (100, 5)
    ∧ (barAt 3 (100, 5) (gen [(3, mkSlot 9 0 0 1)] armedSw)).isFirst 0 (eventKey (100, 5) 4) = true
    ∧ (learner armedSw).switchDue 0 = some (100, 5) ∧ (learner armedSw).isFirst 0 (eventKey (100, 5) 4) = true
    ∧ (let s := { gen [] armedSw with time := { (live id).time with tick := 6 } }
       let x := s.getCtx 0
       swState x.switch = 1 ∧ x.role = 2 ∧ lin (swPoint x.switch) < lin s.now ∧ (s.barCollect (swBarrier x.switch)).release = none) := by decide
theorem test_switch : slotState (((out (.switchEffect 0) (barAt 3 (100, 5) (gen [(3, mkSlot 9 0 0 1)] armedSw))).getCtx 0).getSlot 3) = 2 := by decide
theorem test_switch_arm : swState ((out (.switchArm .host 0 (armSw 3)) (gen [] 0)).getCtx 0).switch = 1 := by decide

/-! Barriers: entry 0 of group 0xC001, whose root this module is or whose parent module 6 is, with the child 5 -/

def group1 (parent : Nat) : BitVec 256 := BitVec.ofNat 256 (parent * 2 ^ 240 + 2 ^ 224 + 2 ^ 202 + 2 ^ 201 + 0x2000 * 2 ^ 132)
def barW (st arm : Nat) : BitVec 512 :=
  BitVec.ofNat 512 (100 * 2 ^ 448 + 2 ^ 352 + 0xC001 * 2 ^ 320 + 2 * 2 ^ 304 + 8 * 2 ^ 293 + 7 * 2 ^ 256 + 47 * 2 ^ 250 + st * 2 ^ 243 + arm * 2 ^ 237)
def barState1 (parent st : Nat) (c : BarrierCol) : State :=
  { live id with
    lr := wrBytes [] 0x2000 (leBytes 2 5)
    groups := [(1, group1 parent)]
    routes := [(5, 0x80FFFFFF), (6, 0x80FFFFFF)]
    cores := [(0, { Core.init with ctr := [(7, 2)] })]
    barriers := [(0, barW st 0)]
    barCol := [(0, c)] }
theorem witness_BarrierSetUp :
    (let s := barState1 0xFFFF 0 BarrierCol.init
     (∀ arm ∈ [0, 1], let w := barW 0 arm
       barState (s.barrier 0) = 0 ∧ fld w 236 0 = 0 ∧ barArrCtr w < 48 ∧ barNotify w < 48 ∧ (barPoint w).2 ≤ 1249 ∧ flag w 237 = (arm == 1)
       ∧ isGroup (barGroup w) = true ∧ grValid (s.groupOf (barGroup w)) = true ∧ grKind (s.groupOf (barGroup w)) = 1
       ∧ grCtx (s.groupOf (barGroup w)) = barCtx w ∧ ((s.treeNeighbours (s.groupOf (barGroup w))).all fun m => s.hasRoute m) = true
       ∧ s.time.held = true ∧ lin s.now + 2 ≤ lin (barPoint w) ∧ (barPoint w).2 ≤ 1249 ∧ (s.barCollect 0).kept = [] ∧ barCount w ≠ 0))
    ∧ barState ((barState1 0xFFFF 1 BarrierCol.init).barrier 0) = 1 ∧ fld (3 : W64) 63 2 = 0 := by decide
def segW : BitVec 256 := BitVec.ofNat 256 (2 ^ 208 + 2 * 2 ^ 202 + 2 ^ 201 + 4 * 2 ^ 8)
def dumpAt (a : Nat) (full : Bool) : State := live fun x => { x with dumpReq := some 100, dumpAddr := BitVec.ofNat 64 a, dumpReady := full }
theorem witness_QueuesGroupsDumps :
    (fld (bind 5) 79 0 = 0 ∧ bPack (bind 5) = 0 ∧ bCredit (bind 5) ≠ 0 ∧ ((live id).ops.any fun x => x.queue == 9) = false ∧ bTc (bind 5) ≠ 3
      ∧ ((live id).getCtx (bCtx (bind 5))).stepRun = false ∧ (live id).bindingInStep 9 = false)
    ∧ (∀ a ∈ [0, 0x10000], ((dumpAt a true).getCtx 0).dumpReq = some 100 ∧ 100 ≤ (dumpAt a true).time.boundaries
      ∧ ((dumpAt a true).getCtx 0).dumpReady = true ∧ (((dumpAt a true).getCtx 0).dumpAddr = 0 ↔ a = 0))
    ∧ (let s := dumpAt 0x10000 false
       let s1 := s.setCtx 0 { s.getCtx 0 with dumpReq := none }
       let d := s1.dumpRecords 0 0x10040 ((s1.coresOf 0).map (fun n => coreRecord n (s1.getCore n))
         ++ (s1.busyBarriers 0).map (fun b => leBytes 64 b.toNat) ++ (s1.pendOf 0).map pendRecord)
       (s.getCtx 0).dumpReq = some 100 ∧ (s.getCtx 0).dumpReady = false ∧ d.2 = true ∧ d.1.engineOk 0 0x10000 64 = true) := by decide +kernel
theorem witness_QueuesGroupsDumps_group :
    fld segW 200 176 = 0 ∧ fld segW 7 0 = 0 ∧ grValid segW = true ∧ grKind segW = 2 ∧ grSeg segW ≠ 0 ∧ grSeg segW % 4 = 0 ∧ grMembers segW ≠ 0
    ∧ grMembers segW ≤ 49152 ∧ ((live id).barriers.any fun b => barGroup b.2 == 1 + 0xC000 && barState b.2 != 0) = false := by decide
theorem test_binding : ((out (.queueBinding .host 9 (bind 5)) (live id)).binding 9 = bind 5)
    ∧ (out (.queueBinding .host 9 0) (live id)).resp.status = 0x20 := by decide
-- 12 R297: a dump that meets READY set is lost and counted
theorem test_dump_lost : tblGet (fun _ => 0) ((out (.dumpLatch 0) (live fun x => { x with dumpReq := some 100, dumpAddr := 0x100, dumpReady := true })).getCtx 0).syncCounts 6 = 1 := by decide

def arriveF (phase : Nat) : Frame :=
  { hdr := BitVec.ofNat 256 (5 * 2 ^ 224 + 9 * 2 ^ 16 + 16 * 2 ^ 35 + 100 * 2 ^ 19)
    payload := leBytes 16 (1 * 2 ^ 96 + 100 * 2 ^ 80 + 9 * 2 ^ 69 + phase * 2 ^ 64 + 1 * 2 ^ 48 + 2) }
theorem witness_BarriersRun :
    (let s := barState1 0xFFFF 1 BarrierCol.init
     barState (s.barrier 0) = 1 ∧ (s.barCollect 0).arrived = false ∧ s.voteReady (barCtx (s.barrier 0)) = true ∧ barCount (s.barrier 0) ≤ (s.getCore (barArrCore (s.barrier 0))).ctrVal (barArrCtr (s.barrier 0))
       ∧ (arriveF 0).hasKind 9 = true ∧ s.inWindow (arriveF 0) = true ∧ (arriveF 0).payload.length = 16 ∧ flag (barPayload (arriveF 0)) 64 = false
       ∧ (arriveF 0).addr % 256 = 0 ∧ fld (barPayload (arriveF 0)) 127 96 = barGen (s.barrier 0)
       ∧ (arriveF 0).src ∈ s.treeChildren (s.groupOf (barGroup (s.barrier 0))) ∧ (s.barCollect 0).kids = []
       ∧ grParent (s.groupOf (barGroup (s.barrier 0))) = 0xFFFF ∧ grParent ((barState1 6 1 BarrierCol.init).groupOf 0xC001) = 6)
    ∧ (let s := barState1 6 2 BarrierCol.init
       (arriveF 1).hasKind 9 = true ∧ s.inWindow (arriveF 1) = true ∧ flag (barPayload (arriveF 1)) 64 = true ∧ barState (s.barrier 0) = 2 ∧ s.time.held = true
         ∧ fld (barPayload (arriveF 1)) 127 96 = barGen (s.barrier 0)
         ∧ s.fullSweep (fld (barPayload (arriveF 1)) 95 80) = some 100 ∧ lin s.now + 2 ≤ lin (100, fld (barPayload (arriveF 1)) 79 69))
    ∧ (let s := barState1 6 3 { BarrierCol.init with release := some (100, 5) }
       (s.barCollect 0).release = some (100, 5) ∧ barState (s.barrier 0) = 3 ∧ s.reached (100, 5) = true ∧ (s.getCtx (barCtx (s.barrier 0))).state ≠ 2
         ∧ s.cutCovers (barCtx (s.barrier 0)) (100, 5) = false
         ∧ (s.switchAt 0).isFirst (barCtx (s.barrier 0)) (eventKey (100, 5) 5) = true) := by decide
theorem test_arrive : ((out (.barrierArrive (arriveF 0)) (barState1 0xFFFF 1 BarrierCol.init)).barCollect 0).kids = [(5, 2, 1)] := by decide
theorem test_local_arrival : barState ((out (.barrierLocalArrival 0) (barState1 6 1 { BarrierCol.init with kids := [(5, 2, 1)], votes := 2 })).barrier 0) = 2
    ∧ (out (.barrierLocalArrival 0) (barState1 6 1 { BarrierCol.init with kids := [(5, 2, 1)], votes := 2 })).txq.map (fun e => (e.frame.dest, fld (barPayload e.frame) 63 48))
      = [(6, 2)] := by decide
theorem test_complete : ((out (.barrierComplete (arriveF 1)) (barState1 6 2 BarrierCol.init)).barCollect 0).release = some (100, 9) := by decide

/-! Engines of the dies and clusters -/

/-- A 16 × 16 FP32 tile of tensor 7 at 0x1000, a placement of it at 0x3000 for queue 9, and a Prism job for both. -/
def tileHdr : BitVec 1024 := setDim (setDim (mkHeader 1 0 1024 0 4 7 2 1) 0 16 0 16) 1 16 0 16
def placeE (q : Nat) : BitVec 256 := BitVec.ofNat 256 (7 * 2 ^ 224 + 16 * 2 ^ 160 + 16 * 2 ^ 96 + q * 2 ^ 80 + 0x80 * 2 ^ 36 + 2 ^ 34 + 5 * 2 ^ 28)
def prismJob : BitVec 512 :=
  BitVec.ofNat 512 (0x1000 * 2 ^ 448 + 0x3000 * 2 ^ 384 + 0x4000 * 2 ^ 320 + 100 * 2 ^ 256 + 5 * 2 ^ 245 + 4 * 2 ^ 213 + 2 ^ 181 + 2 ^ 149 + 0x3F * 2 ^ 134)
def prismRun (next : Nat) (stopped : Bool) : PrismRun := ⟨prismJob, [(0x1000, tileHdr)], next, 0, none, stOk, false, stopped⟩
def prism (d : Die) (q : Nat) : State :=
  { live id with
    lr := wrBytes (wrBytes [] 0x1000 (leBytes 128 tileHdr.toNat)) 0x3000 (leBytes 32 (placeE q).toNat)
    dies := [(0, d)]
    bindings := [(9, bind 5)]
    routes := [(5, 0x80FFFFFF)] }
theorem witness_PrismJobsRun :
    (live id).originStatus .host = stOk ∧ (live id).time.held = true ∧ (leBytes 64 prismJob.toNat).length = 64 ∧ fld prismJob 129 0 = 0 ∧ pjSrcCount prismJob ≤ 65536
    ∧ ((prism Die.init 9).getDie 0).prismQ.length < 64
    ∧ (let s := prism { Die.init with prismQ := [prismJob] } 9
       (s.getDie 0).prismQ = [prismJob] ∧ (s.getDie 0).prismRun = none ∧ s.exportsInto prismJob = false
         ∧ (s.unitReads 0 .ok (((s.jobHeads prismJob).getD []).map fun h => (h.1, 128))).2 = true)
    ∧ (let s := prism { Die.init with prismRun := some (prismRun 1 false) } 9
       pjPlaceCount prismJob ≤ 1 ∧ s.prismInFlight 0 = 0 ∧ s.reached (pjDeadline prismJob) = true
         ∧ s.isFirst (pjCtx prismJob) (eventKey (pjDeadline prismJob) 7) = true ∧ gaModule (pjRec prismJob) = s.moduleId ∧ gaSpace (pjRec prismJob) = 0
         ∧ s.engineOk (pjCtx prismJob) (pjRec prismJob) 16 = true ∧ s.heldAt (gaOffset (pjRec prismJob)) 16 = none) := by decide +kernel
theorem witness_PrismJobsRun_placement :
    (let s := prism { Die.init with prismRun := some (prismRun 0 false) } 9
     let u := s.unitReads 0 .ok (s.placeReads (prismRun 0 false))
     let p := u.1.engineRead (pjCtx prismJob) (addr64 (pjPlace prismJob) 0) 32
     u.2 = true ∧ (s.getDie 0).prismRun = some (prismRun 0 false) ∧ 0 < pjPlaceCount prismJob ∧ s.prismInFlight 0 < 64 ∧ p.fault = false ∧ p.poison = false
       ∧ (match u.1.placement (prismRun 0 false) (BitVec.ofNat 256 (leNat p.data)) with | .ok l => l.length == 1152 | .error _ => false) = true
       ∧ plQueue (placeE 9) = 9 ∧ bValid (s.binding 9) = true ∧ bCtx (s.binding 9) = pjCtx prismJob ∧ bDest (s.binding 9) ≠ u.1.moduleId
       ∧ isGroup (bDest (s.binding 9)) = false ∧ u.1.hasRoute (bDest (s.binding 9)) = true ∧ bTc (s.binding 9) ≠ 3)
    ∧ (let s := prism { Die.init with prismRun := some { prismRun 0 false with heads := [] } } 9
       (match s.placement { prismRun 0 false with heads := [] } (placeE 9) with | .ok _ => false | .error e => e == stAccess) = true) := by decide +kernel
theorem test_prism_start : ((out (.prismJobStart ⟨0, .ok⟩) (prism { Die.init with prismQ := [prismJob] } 9)).getDie 0).prismRun = some (prismRun 0 false) := by decide +kernel

/-- CHOL of `n` 1 × 1 matrices at 0x1000 (4.0 in FP32) to 0x1100, with its record at 0x1200. -/
def cholJob (n deadline space : Nat) : BitVec 1024 :=
  BitVec.ofNat 1024 (0x1000 * 2 ^ 960 + 0x1100 * 2 ^ 832 + (space * 2 ^ 44 + 0x1200) * 2 ^ 768 + 100 * 2 ^ 640 + deadline * 2 ^ 576
    + 5 * 2 ^ 565 + 2 ^ 432 + n * 2 ^ 400 + 2 ^ 392 + 2 ^ 384 + 0x3F * 2 ^ 336)
def cholRun (n deadline duration space input : Nat) : SolverRun :=
  ⟨cholJob n deadline space, (99 * 1250 + 5) * 18, false, false, false, duration, none, leBytes 4 input, [], [], 0, false, false⟩
def solver (q : List (BitVec 1024)) (r : Option SolverRun) : State :=
  { live id with
    lr := wrBytes [] 0x1000 (leBytes 4 0x40800000)
    clusters := [(0, { Cluster.init with solverQ := q, solverRun := r })] }
theorem witness_SolverJobsRun :
    (live id).time.held = true ∧ (leBytes 128 (cholJob 1 1000 0).toNat).length = 128 ∧ jobRefused (cholJob 1 1000 0) = false ∧ ((solver [] none).getCluster 0).solverQ.length < 64
    ∧ (∀ dl ∈ [1000, 100], let s := solver [cholJob 1 dl 0] none
       let d := cholJob 1 dl 0
       (s.getCluster 0).solverQ = [d] ∧ (s.getCluster 0).solverRun = none ∧ s.reached (jStart d) = true ∧ s.ctxOfCluster 0 = some 0
         ∧ (s.getCtx 0).remapHold = none ∧ jBatched d = true ∧ jLend d = 0 ∧ jBatch d ≠ 0 ∧ jOp d ≠ opTrsm ∧ jOp d ≠ opSyrk
         ∧ (s.engineRead (s.engineCtx 0) (jSrc d) (jSrcBytes d)).fault = false ∧ (s.engineRead (s.engineCtx 0) (jAux d) (jAuxBytes d)).fault = false
         ∧ s.engineOk (s.engineCtx 0) (jDst d) (jDstBytes d) = true
         ∧ (s.unitReads 0 .ok (s.ownRanges (s.jobReads (s.engineCtx 0) d))).2 = true
         ∧ (max (lin s.now * 18) (s.getCluster 0).solverEnd + jobDuration d false false 0 < lin (jDeadline d) * 18 ↔ dl = 1000)
         ∧ gaModule (jRec d) = s.moduleId ∧ gaSpace (jRec d) = 0 ∧ s.engineOk (s.engineCtx 0) (jRec d) 32 = true
         ∧ s.heldAt (gaOffset (jRec d)) 32 = none) := by decide +kernel
-- a NaN input makes a job fail; whether a factor is finite rests on an open value unless the job has no matrix
theorem witness_SolverJobsRun_end :
    (∀ r ∈ [cholRun 0 1000 200 1 0, cholRun 1 1000 200 0 0x7FC00000], let s := solver [] (some r)
      (s.getCluster 0).solverRun = some r ∧ s.jobDone r = true ∧ r.missesDeadline = false ∧ s.jobHeld r.desc = false ∧ jBatched r.desc = true ∧ jLend r.desc = 0)
    ∧ (let r := cholRun 0 1000 200 1 0
       let res := jobCompute r.desc r (jPrec r.desc)
       res.badInput = false ∧ outFinite r.desc res.outs = true ∧ gaModule (jDst r.desc) = State.reset.moduleId ∧ gaSpace (jDst r.desc) = 0
         ∧ (solver [] (some r)).engineOk 0 (jDst r.desc) 0 = true ∧ gaModule (jRec r.desc) = State.reset.moduleId ∧ gaSpace (jRec r.desc) = 1)
    ∧ (let r := cholRun 1 1000 200 0 0x7FC00000
       (jobCompute r.desc r (jPrec r.desc)).badInput = true)
    ∧ (let r := cholRun 1 100 22500 0 0
       let s := solver [] (some r)
       s.reached (jDeadline r.desc) = true ∧ s.isFirstIn 0 (eventKey (jDeadline r.desc) 7) = true ∧ r.missesDeadline = true ∧ s.jobDone r = true
         ∧ jBatched r.desc = true ∧ jLend r.desc = 0) := by decide +kernel
theorem test_solver_start : ((out (.solverJobStart ⟨0, .ok⟩) (solver [cholJob 1 1000 0] none)).getCluster 0).solverRun.map SolverRun.input
    = some [0, 0, 0x80, 0x40] := by decide +kernel

/-! Shard engines and commits -/

/-- An export of 16 × 16 FP32 elements from 0x1000 by the template at 0x3000 to 0x5000. -/
def shardD (hdr : Nat) (space : Nat) : BitVec 512 :=
  BitVec.ofNat 512 (0x1000 * 2 ^ 448 + 0x5000 * 2 ^ 384 + hdr * 2 ^ 320 + (space * 2 ^ 44 + 0x6000) * 2 ^ 256 + 0x3F * 2 ^ 241)
def shard (d : BitVec 512) : State :=
  { live id with
    lr := wrBytes [] 0x3000 (leBytes 128 tileHdr.toNat)
    dies := [(0, { Die.init with shardQ := [(d, 0, false)] })] }
def oneShard : ShardMap := ⟨0x7000, 0, 0, 0, 0, 0, 0, 0, 0, 0, 0, 0, 0, 0, 0, 7, 2, 0, 0, 0, [], [], [], [], [], 3, [], false⟩
def stepping (f : Ctx → Ctx) : State :=
  { live fun x => f { x with stepRun := true } with
    cores := [(0, { Core.init with ctr := [(7, 2)] })] }
def compared : State := stepping fun x => { x with digest := BitVec.ofNat 512 (1 * 2 ^ 336 + 2 * 2 ^ 315 + 7 * 2 ^ 296) }
theorem witness_ShardsAndCommit :
    (leBytes 64 (shardD 0x3000 0).toNat).length = 64 ∧ leNat (leBytes 64 (shardD 0x3000 0).toNat) % 2 ^ 241 = 0
    ∧ (∀ p ∈ [(0x3000, 1, true), (0x3100, 0, false)], let d := shardD p.1 p.2.1
       let s := shard d
       let tpl := s.engineRead 0 (sdHdr d) 128
       let h := s.fillHeader (BitVec.ofNat 1024 (leNat tpl.data)) 0
       (s.getDie 0).shardQ = [(d, 0, false)] ∧ (s.unitReads 0 .ok (s.ownRanges (s.shardReads d 0))).2 = true ∧ tpl.fault = false ∧ headerOk h = p.2.2 ∧ sdDst d % 128 = 0
         ∧ (p.2.2 = true → (s.engineRead 0 (sdSrc d) (payloadLength h)).fault = false ∧ s.engineOk 0 (sdDst d) (128 + payloadLength h) = true
           ∧ gaModule (sdDst d) = s.moduleId ∧ gaSpace (sdDst d) = 0 ∧ gaModule (sdRec d) = s.moduleId ∧ gaSpace (sdRec d) = 1)
         ∧ (p.2.2 = false → gaModule (sdRec d) = s.moduleId ∧ gaSpace (sdRec d) = 0 ∧ s.engineOk 0 (sdRec d) 16 = true
           ∧ s.heldAt (gaOffset (sdRec d)) 16 = none)) := by decide +kernel
/-- A step with a shard of rule `rule`, whose POLAR jobs are submitted where `sent`. -/
def ruled (rule : Nat) (sent : Bool) : State :=
  { stepping fun x => { x with ortho := if sent then [(0x7000, [])] else [] } with
    lr := wrBytes [] 0x7000 [BitVec.ofNat 8 (rule * 16)] }
theorem witness_ShardsAndCommit_step :
    (∀ p ∈ [(1, false), (2, false), (3, true), (3, false)], let s := ruled p.1 p.2
     (s.getCtx 0).active = true ∧ (s.getCtx 0).stepRun = true ∧ (s.getCtx 0).phase2 = none ∧ s.ctxOfCore 0 = some 0 ∧ oneShard.ctrNum.toNat < 48
       ∧ oneShard.count.toNat ≤ (s.getCore 0).ctrVal 7 ∧ shStaged (s.shardHeader oneShard) = false ∧ oneShard ∉ (s.getCtx 0).shards
       ∧ s.cutCovers 0 s.now = false ∧ (s.getCtx 0).ownerOf (s.ownAddr 0x7000) = none ∧ s.mapOk 0 oneShard = true ∧ s.enginesFree oneShard = true
       ∧ s.shardHeld oneShard = false ∧ (s.unitReads 0 .ok (s.phaseReads oneShard)).2 = true ∧ shRule (s.shardHeader oneShard) = p.1
       ∧ ((s.getCtx 0).ortho.any fun o => o.1 == oneShard.header) = p.2 ∧ s.polarRuns oneShard = false ∧ s.polarRoom oneShard = true)
    ∧ (let x := compared.getCtx 0
       x.stepRun = true ∧ x.active = true ∧ x.voted = false ∧ 2 ≤ x.dMembers ∧ x.rederived = false ∧ x.dMembers ≤ (compared.getCore x.dCmpCore).ctrVal x.dCmpCtr
       ∧ x.dSlots = 1 ∧ compared.slotMismatch x 0 = (false, false, false))
    ∧ (∀ q ∈ [1, 2, 3], let s := stepping fun x => { x with phase2 := some q, phase2Map := some ⟨[], [], [], []⟩, shards := [oneShard] }
       (s.getCtx 0).phase2 = some q ∧ (s.getCtx 0).phase2Map = some ⟨[], [], [], []⟩ ∧ s.exportRuns 0 = false
         ∧ (∀ k ∈ (s.getCtx 0).shards, s.shardHeld k = false)) := by decide +kernel
theorem test_compare : ((out (.digestCompare 0) compared).getCtx 0).voted = true ∧ ((out (.digestCompare 0) compared).getCore 0).ctrVal 7 = 0 := by decide +kernel
theorem test_commit : ((out (.phase2Complete 0) (stepping fun x => { x with phase2 := some 1, phase2Map := some ⟨[], [], [], []⟩ })).getCtx 0).stepNo = 1 := by decide +kernel
theorem test_export_template : (out (.shardDescriptorEnd ⟨0, .ok⟩) (shard (shardD 0x3100 0))).rdLong 0x6000 1 = [0x20] := by decide +kernel

/-! Long-range memory -/

theorem witness_RegionsMapAndUnmap :
    (let w := regionW 1 0xFFFFFF0 16
     (live id).originStatus .host = stOk ∧ fld w 142 0 = 0 ∧ rgValid ((live id).region 1) = false ∧ rgValid w = true
       ∧ (∀ e ∈ (live id).long.region, rgValid e.2 = true → rgOverlap e.2 w = false) ∧ (live id).mappedPages + rgPages w ≤ (live id).mapLimit
       ∧ rgPin w = false ∧ rgBase w + rgPages w ≤ 2 ^ 28 ∧ ((live id).getCtx (rgCtx w)).stepRun = false)
    ∧ rgValid ((live id).region 0) = true ∧ rgValid (0 : BitVec 256) = false ∧ ((live id).getCtx (rgCtx ((live id).region 0))).stepRun = false
    ∧ (let s := { live id with long := { (live id).long with unmapping := [(0, 0)] } }
       s.long.unmapping.find? (fun e => e.1 == 0) = some (0, 0) ∧ s.regionBusy (s.region 0) = false ∧ s.long.unmapWait = []) := by decide +kernel
theorem test_unmap : (out (.regionUnmapComplete 0) { live id with
    lr := [(0x20, 5), (0x200000, 6)]
    long := { (live id).long with unmapping := [(0, 0)] } }).lr = [(0x200000, 6)] := by decide +kernel

def schedE (kind : Nat) : W128 := BitVec.ofNat 128 (2 * 2 ^ 100 + kind * 2 ^ 98 + 3 * 2 ^ 95 + 0x10000 * 2 ^ 64 + 0x3F * 2 ^ 18)
def scheduled (kind : Nat) (st : Tbl EntryState) (p : PageInfo) : State :=
  let s := live fun x => { x with sched := [schedE kind], schedState := st, stepStartSweep := 100 }
  { s with
    long := { s.long with page := [(2, p)] }
    lr := wrBytes [] 0x40 (leBytes 16 (schedE kind).toNat) }
def pageZ : PageInfo := ⟨false, 3, 0, false, false, false, none, []⟩
def schedWrite : State := { scheduled 0 [] pageZ with ctxs := [(0, { (live id).getCtx 0 with schedBase := 0x40 })] }
theorem witness_SchedulesRun_write :
    (schedWrite.getCtx 0).stepRun = false ∧ (schedWrite.getCtx 0).schedBase.toNat < 2 ^ 44 ∧ schedWrite.longOk (.ctx 0) false 0x40 16 = true
      ∧ (schedWrite.readSchedule 0x40 1).all (schedWrite.entryOk 0) = true ∧ startsRise (schedWrite.readSchedule 0x40 1) = true := by decide +kernel
theorem witness_SchedulesRun_begin :
    ∀ k ∈ [0, 1, 2], ((scheduled k [(0, .waiting)] pageZ).getCtx 0).sched[0]? = some (schedE k)
      ∧ ((scheduled k [(0, .waiting)] pageZ).getCtx 0).entryState 0 = .waiting ∧ seKind (schedE k) = k
      ∧ (scheduled k [(0, .waiting)] pageZ).reached (100 + seStart (schedE k), 0) = true ∧ (scheduled k [(0, .waiting)] pageZ).pageInHbm 2 = false := by
  decide +kernel
theorem witness_SchedulesRun_end :
    ∀ k ∈ [0, 1], let s := scheduled k [(0, .begun)] { pageZ with inHbm := true }
      (s.getCtx 0).entryState 0 = .begun ∧ s.pageInHbm 2 = true ∧ sePage (schedE k) = 2 ∧ s.ladderOf 2 = none ∧ s.pageDie 2 = seDie (schedE k)
        ∧ (s.getPage 2).moving = none ∧ s.reached (100 + seBy (schedE k), 0) = true := by decide +kernel
theorem test_fetch : ((out (.fetchHbm 0 0) (scheduled 0 [(0, .waiting)] pageZ)).getPage 2).moving = some true := by decide +kernel
theorem test_late : (out (.scheduleEntryLate 0 0) (scheduled 0 [(0, .begun)] pageZ)).od 0x2400 9 = 1 := by decide +kernel

def ladder (rung began : Nat) : State := { live id with
  long := { (live id).long with
    page := [(2, { pageZ with inHbm := true })]
    ladders := [⟨2, rung, began, []⟩] } }
def moving (b d : Bool) : State := { (live id).setOd 0x2401 1 5 with long := { (live id).long with page := [(2, { pageZ with moving := some b, dirty := d })] } }
/-- The region of context 0 with its replica in module 6 and the bit of working copies. -/
def regionR : BitVec 256 := BitVec.ofNat 256 (16 * 2 ^ 152 + 2 ^ 148 + 6 * 2 ^ 240 + 2 ^ 143)
theorem witness_LaddersAndMigrations :
    (let s := moving true false
     s.regionOf 2 = some (0, regionW 0 0 16) ∧ s.ladderOf 2 = none ∧ (s.getPage 2).moving = some true ∧ s.pageInHbm 2 = false
       ∧ s.framesUsed 0 < s.frameBudget 0)
    ∧ (∀ d ∈ [true, false], let s := moving false d
       (s.getPage 2).moving = some false ∧ (∀ h ∈ s.long.heldWrites, h.2 ≠ some 2) ∧ (s.getPage 2).dirty = d ∧ s.ladderOf 2 = none)
    ∧ (let s := { live id with long := { (live id).long with heldWrites := [(17, some 2)] } }
       s.long.heldWrites = [(17, some 2)] ∧ 4096 * 17 ≤ s.long.governor)
    ∧ (let s := { live id with obs := { State.reset.obs with staging := [0] } }
       s.long.heldWrites = [] ∧ s.obs.staging = [0] ∧ 256 ≤ s.long.governor)
    ∧ (ladder 0 100).ladderOf 2 = some ⟨2, 0, 100, []⟩ ∧ (ladder 3 0).ladderOf 2 = some ⟨2, 3, 0, []⟩ ∧ (ladder 3 0).nextRung 2 3 = 4
    ∧ (ladder 0 100).rungHolds ⟨2, 0, 100, []⟩ 9 [] = true
    ∧ (let s := { ladder 0 100 with long := { (ladder 0 100).long with region := [(0, regionR)] } }
       s.nextRung 2 0 = 2 ∧ s.regionOf 2 = some (0, regionR) ∧ rgReplica regionR = 6)
    ∧ (let s := { ladder 2 100 with long := { (ladder 2 100).long with region := [(0, regionR)] } }
       s.nextRung 2 2 = 3 ∧ s.ladderOf 2 = some ⟨2, 2, 100, []⟩ ∧ s.rungHolds ⟨2, 2, 100, []⟩ 1 [] = false ∧ s.rungHolds ⟨2, 2, 100, []⟩ 0 [] = true)
    ∧ (let s := { ladder 3 100 with time := { (live id).time with boundaries := 2100 } }
       s.ladderOf 2 = some ⟨2, 3, 100, []⟩ ∧ 100 + s.od 0x2400 0xF ≤ s.time.boundaries)
    ∧ (let s := { live id with
         time := { (live id).time with tick := 0 }
         repair := { State.reset.repair with copies := [(1, 2, some 100)] } }
       s.repair.copies.find? (fun c => c.1 == 1 && c.2.1 == 2) = some (1, 2, some 100) ∧ 100 ≤ s.time.boundaries ∧ dueCuts s.time.boundaries s.cuts = []) := by decide +kernel
theorem witness_LaddersAndMigrations_sectors : 4096 * (moving false true).pageSectors 2 ≤ (moving false true).long.governor := by
  have h : (moving false true).long.governor = 64000000000 := by decide
  have u : ((moving false true).pageUnits 2) = [] := by decide +kernel
  rw [h]; unfold State.pageSectors; rw [u]; decide
theorem test_migration : ((out (.migrationComplete ⟨2, .ok⟩) (moving true false)).getPage 2).inHbm = true := by decide +kernel
theorem test_ladder_end : ((out (.ladderRungEnd 2 ⟨false, 0⟩ [] []) (ladder 3 0)).getPage 2).poison = true := by decide +kernel

def remap (cluster : Bool) : State := { live id with repair := { State.reset.repair with remaps := [⟨8, cluster, 100, some 8⟩], replayQ := [3] } }
theorem witness_RepairsTakeEffect :
    (∀ b ∈ [true, false], let s := remap b
     s.repair.remaps.filter (fun r => decide (r.boundary ≤ s.time.boundaries)) = [⟨8, b, 100, some 8⟩] ∧ (s.getCluster 1).solverRun = none
       ∧ s.ctxOfCluster 1 = none ∧ s.isFirstIn 1 (eventKey (s.boundaryPoint 100) 2) = true)
    ∧ (remap true).repair.replayQ = [3]
    ∧ (let s := { remap true with repair := { (remap true).repair with remaps := [⟨0, true, 100, none⟩] } }
       s.ctxOfCluster 0 = some 0 ∧ (s.getCtx 0).remapHold = none)
    ∧ (∀ q ∈ [5, 6], ((live fun x => { x with remapHold := some (100, q) }).getCtx 0).remapHold = some (100, q))
    ∧ (3 : Nat) ∉ (remap true).repair.failedStacks := by decide +kernel
theorem test_remap : tblGet (fun k => k) ((out .reserveRemap (remap false)).getCluster 1).coreMap 0 = 8 := by decide +kernel

/-! Ports and frames -/

def up (p : Port) : State := { live id with
  ports := [(3, p)]
  routes := [(5, 0x80C30C3)] }
def goodPort : Port := { Port.init with state := 2, expect := 7, replay := [mkFlit 0 1 0 [], mkFlit 0 2 0 []] }
def toFive : Frame := { hdr := BitVec.ofNat 256 (5 * 2 ^ 240 + 0x1234 * 2 ^ 160 + 2 * 2 ^ 14 + 2 * 2 ^ 35 + 2 * 2 ^ 80 + 6 * 2 ^ 16), payload := [1, 2] }
def hopped (n : Nat) : Frame := { toFive with hdr := setFld toFive.hdr 13 11 n }
def sending : State := { up { Port.init with state := 2 } with
  txq := [⟨toFive, 9, 5, some 0⟩]
  routes := [(5, BitVec.ofNat 32 (2 ^ 31 + 3 + 3 * 2 ^ 6 + 3 * 2 ^ 12 + 3 * 2 ^ 18))] }
/-- One unit of credit in every buffer set of the ports 0 to 7. -/
def creds : List Nat := List.replicate 192 1
theorem witness_PortsCarryFrames :
    (∀ ty ∈ [0, 1, 2], let w := mkFlit ty 7 1 [9]
     ((up goodPort).getPort 3).state = 2 ∧ flitGood w (some 0) = true ∧ flSeq w = ((up goodPort).getPort 3).expect ∧ flType w = ty)
    ∧ flSeq (mkFlit 0 8 1 [9]) ≠ ((up goodPort).getPort 3).expect ∧ flitGood (mkFlit 0 8 1 [9]) (some 15) = true
    ∧ flitGood (mkFlit 0 7 1 [9]) none = false ∧ flitGood (0 : BitVec 2048) (some 0) = false ∧ ((up goodPort).getPort 3).nakWait = false
    ∧ ((up { goodPort with nakWait := true }).getPort 3).nakWait = true ∧ ((up { goodPort with nakWait := true }).getPort 3).state = 2
    ∧ ((up { Port.init with state := 1 }).getPort 3).state = 1 ∧ ((up { Port.init with state := 1 }).getPort 3).laserOff = false := by decide +kernel
theorem witness_PortsCarryFrames_send :
    sending.txq[0]? = some ⟨toFive, 9, 5, some 0⟩ ∧ sending.maySend 0 ⟨toFive, 9, 5, some 0⟩ = true ∧ sending.choosePort 5 toFive.tc 1 creds = some 3
    ∧ sending.classGoes creds 3 toFive = true ∧ sending.classGoes creds 3 (hopped 5) = true ∧ issuerOf (hopped 6) = some 5
    ∧ (let b : Frame := { hopped 6 with hdr := setFld (hopped 6).hdr 19 16 9 }
       b.wf = true ∧ sending.isHere b = false ∧ 6 ≤ b.hops ∧ issuerOf b = none)
    ∧ toFive.wf = true ∧ sending.isHere toFive = false ∧ 6 ≤ (hopped 6).hops ∧ (hopped 6).wf = true ∧ (hopped 5).hops = 5
    ∧ sending.choosePort (hopped 5).dest (hopped 5).tc 6 creds = some 3 := by decide +kernel
-- 01 Table 01-3: the routes of the die mesh; every step of one is a link of R18
theorem test_mesh : meshRoute 2 5 = [2, 1, 5] ∧ meshRoute 0 7 = [0, 1, 2, 3, 7] ∧ meshRoute 6 hubH0 = [6, 5, 4, hubH0]
    ∧ meshRoute hubH0 6 = [hubH0, 4, 5, 6] ∧ meshRoute hubH0 hubH1 = [hubH0, 0, 1, 2, 3, hubH1] := by decide
theorem test_mesh_links : ((List.range 10).flatMap fun a => (List.range 10).map fun b => ((meshRoute a b).zip (meshRoute a b).tail).all fun l => meshLink l.1 l.2).all id
    = true := by decide +kernel
-- 11 R249: the CRC is the IEEE 802.3 one: of the ASCII digits 1 to 9 it is 0xCBF43926
theorem test_crc : crc32 [0x31, 0x32, 0x33, 0x34, 0x35, 0x36, 0x37, 0x38, 0x39] = 0xCBF43926 := by decide
theorem test_flit : ((out (.dataFlit 3 (mkFlit 0 7 1 [9]) (some 0)) (up goodPort)).getPort 3).expect = 8
    ∧ ((out (.dataFlit 3 (mkFlit 0 7 1 [9]) (some 0)) (up goodPort)).getPort 3).replay.length = 1
    ∧ ((out (.dataFlit 3 (mkFlit 0 8 1 [9]) none) (up goodPort)).getPort 3).nakOut = some 7 := by decide +kernel
theorem test_send : (out (.frameSend 0 creds) sending).txq = [] ∧ ((out (.frameSend 0 creds) sending).getPort 3).lastFrame.map Frame.hops = some 1 := by decide +kernel
-- 11 R254: a frame that has made six hops goes no further
theorem test_hops : (out (.frameForward (hopped 6) ⟨3, creds⟩) sending).txq.map (fun e => e.frame.kind) = [6, 6] := by decide +kernel

/-- A frame from module 5 to this module (its identifier is 0 at reset) or to group 1. -/
def fr (kind space off total n : Nat) (more : Nat := 0) : Frame :=
  { hdr := BitVec.ofNat 256 (5 * 2 ^ 224 + 100 * 2 ^ 208 + 0x77 * 2 ^ 160 + (space * 2 ^ 44 + off) * 2 ^ 112 + total * 2 ^ 80 + n * 2 ^ 35
      + kind * 2 ^ 16 + more), payload := List.replicate n 1 }
def here (ops : List Xfer) (relays : List Relay) : State := { (live id).setOd 0x2510 8 1 with
  long := { (live id).long with region := [(0, BitVec.ofNat 256 ((regionW 0 0 16).toNat + 2 ^ 147))] }
  routes := [(5, 0x80FFFFFF)]
  ops := ops
  relays := relays
  host := { State.reset.host with allow := [(5, true)] } }
theorem witness_FramesWrite :
    (∀ sp ∈ [0, 1], let f := fr 0 sp 0x100 2 2
     (here [] []).isHere f = true ∧ (here [] []).inWindow f = true ∧ f.hasKind 0 = true ∧ (here [] []).frameStatus f true f.payload.length = stOk
       ∧ f.addr / 2 ^ 44 = sp ∧ f.sidecar = false ∧ (here [] []).accessHeld (frameAccess f true 2) = none ∧ isGroup f.dest = false ∧ f.sig = false)
    ∧ (∀ off ∈ [0x100000], let f := fr 0 0 off 2 2
       f.hasKind 0 = true ∧ (here [] []).frameStatus f true 2 ≠ stOk ∧ (here [] []).accessHeld (frameAccess f true 2) = none)
    ∧ (∀ sp ∈ [0, 1], let f := fr 3 sp 0x100 4 4 1
       f.hasKind 3 = true ∧ (here [] []).addStatus f = stOk ∧ (here [] []).collimate = false ∧ f.addr / 2 ^ 44 = sp ∧ (f.addr + f.foffset) / 2 ^ 44 = sp
         ∧ (here [] []).accessHeld (frameAccess f true 4) = none)
    ∧ (let f := fr 4 1 0 3 0 (47 * 2 ^ 20 + 2 ^ 10)
       f.hasKind 4 = true ∧ (here [] []).frameStatus f true 0 = stOk ∧ isGroup f.dest = false) := by decide +kernel
theorem witness_FramesWrite_headers : headerFree (here [] []) 0x100 ∧ headerFree (here [] []) 0x101 := by
  unfold headerFree; decide +kernel
theorem test_put : (out (.put (fr 0 1 0x100 2 2) 5 .ok) (here [] [])).rdLocal 0 0x100 2 = [1, 1]
    ∧ (out (.put (fr 0 1 0x100 2 2) 5 .ok) (here [] [])).txq.map (fun e => (e.frame.kind, e.frame.fmt)) = [(5, 0)] := by decide +kernel
theorem test_add_frame : (out (.addFrame (fr 3 0 0x100 4 4 0x10) .ok) { here [] [] with lr := [(0x100, 2)] }).rdLong 0x100 4 = [3, 1, 1, 1] := by decide +kernel
theorem test_signal : ((out (.signal (fr 4 1 0 3 0 (47 * 2 ^ 20 + 2 ^ 10)) 5) (here [] [])).getCore 0).ctrVal 47 = 3 := by decide +kernel

def xferOf (kind : XKind) (own : Bool) (awaited len : Nat) : Xfer :=
  ⟨0x77, 0, 9, kind, 5, BitVec.ofNat 64 (5 * 2 ^ 48), 0x200, len, 0, false, 0, 0, 0, awaited, own, 0, 0, [], 0, false, 0, false, 4⟩
def relayOf (n : Nat) : Relay := ⟨fr 0 0 0x100 2 2, 6, n, stOk⟩
def mg (tc op len n : Nat) : Frame :=
  { fr 10 0 0 n n (tc * 2 ^ 14) with payload := leBytes 16 (0x2000 * 2 ^ 48 + op * 2 ^ 32 + len * 2 ^ 16) ++ List.replicate (n - 16) 0 }
theorem witness_FramesReadAndAnswer :
    (let f := fr 1 1 0x100 8 0
     f.hasKind 1 = true ∧ f.dest = (here [] []).moduleId ∧ isGroup f.dest = false ∧ (here [] []).inWindow f = true ∧ (here [] []).accessStatus (getAccess f) = stOk
       ∧ f.addr / 2 ^ 44 = 1)
    ∧ (let f : Frame := fr 1 1 0x100 8 0 (0xC001 * 2 ^ 240)
       f.hasKind 1 = true ∧ isGroup f.dest = true ∧ (here [] []).inWindow f = true)
    ∧ (∀ p ∈ [(false, 4), (false, 2), (true, 2)], let x := xferOf .get p.1 1 p.2
       (fr 2 0 0 2 2).hasKind 2 = true ∧ (here [x] []).inWindow (fr 2 0 0 2 2) = true ∧ (here [x] []).opOf (fr 2 0 0 2 2) true = some x ∧ x.pack = 0)
    ∧ (∀ k ∈ [(5, 1), (6, 1), (5, 2)], let x := xferOf .put false k.2 2
       (fr k.1 0 0 2 0).hasKind k.1 = true ∧ (fr k.1 0 0 2 0).dest = (here [x] []).moduleId ∧ (here [x] []).inWindow (fr k.1 0 0 2 0) = true ∧ (here [x] []).opOf (fr k.1 0 0 2 0) false = some x)
    ∧ (∀ n ∈ [1, 2], (here [] [relayOf n]).opOf (fr 5 0 0 2 0) false = none ∧ isError (fr 5 0 0 2 0).fmt = false
       ∧ (here [] [relayOf n]).relays.find? (fun r => r.frame.msg == 0x77 && r.frame.foffset == 0 && r.frame.total == 2) = some (relayOf n))
    ∧ (∀ p ∈ [(0, 1, 0, 16), (3, 1, 4, 20), (3, 1, 0, 16)], let f := mg p.1 p.2.1 p.2.2.1 p.2.2.2
       f.hasKind 10 = true ∧ f.dest = (here [] []).moduleId ∧ (here [] []).inWindow f = true ∧ f.tc = p.1 ∧ (here [] []).allowed f.src = true
         ∧ mgmtSizeOk f = (p.2.2.2 == 16) ∧ (mgmtRequest f).op = 1)
    ∧ (fr 11 0 0 0 0).wf = true ∧ 0xB ≤ (fr 11 0 0 0 0).kind := by decide +kernel
theorem test_get_req : (out (.getReq (fr 1 1 0x100 8 0) .ok) { here [] [] with stores := [(0x101, 7)] }).txq.map (fun e => (e.frame.kind, e.frame.payload))
    = [(2, [0, 7, 0, 0, 0, 0, 0, 0])] := by decide +kernel
theorem test_ack : (out (.ack (fr 5 0 0 2 0)) (here [xferOf .put false 1 2] [])).ops = [] := by decide +kernel
theorem test_mgmt : (out (.mgmt (mg 3 1 0 16)) (here [] [])).dict.queue.length = 1 ∧ (out (.mgmt (mg 0 1 0 16)) (here [] [])).dict.queue.length = 0 := by
  decide +kernel
theorem test_reserved : (out (.reservedKindDiscard (fr 11 0 0 0 0)) (here [] [])).od 0x2510 0xA = 1 := by decide +kernel

/-! Cuts, saves, RESUME -/

def armSh (sweep ctxs : Nat) : W128 := BitVec.ofNat 128 (sweep * 2 ^ 64 + ctxs * 2 ^ 48 + 1)
def cutAt (b : Nat) (drains : List Cut) : State := { live id with
  cuts := [⟨b, 1, 1⟩]
  drains := drains
  ctxs := [(0, { (live id).getCtx 0 with draining := true })] }
theorem witness_ShutterStops :
    (live id).originStatus .host = stOk ∧ (live id).shutterCheck .host (armSh 101 1) = stOk ∧ shArm (armSh 101 1) = true
    ∧ shArm (0 : W128) = false ∧ shCancel (0 : W128) = false ∧ (live id).shutterCheck .host 0 = stOk ∧ (live id).shutterCheck .host 2 = stOk ∧ shArm (2 : W128) = false ∧ shCancel (2 : W128) = true
    ∧ ({ (live id).time with tick := 1000 } : TimeBase).tick = 1000
    ∧ dueCuts (cutAt 100 []).time.boundaries (cutAt 100 []).cuts = [⟨100, 1, 1⟩]
    ∧ (∀ c ∈ bitsOf (cutMask [⟨100, 1, 1⟩]).toNat 16, (cutAt 100 []).isFirst c (eventKey ((cutAt 100 []).boundaryPoint 100) 1) = true)
    ∧ ((cutAt 100 [⟨100, 1, 1⟩]).drains.find? fun c => (bitsOf c.contexts.toNat 16).all fun x => !(cutAt 100 [⟨100, 1, 1⟩]).stillDrains x) = some ⟨100, 1, 1⟩
    ∧ (live id).indexServed 0x2700 = true := by decide +kernel
theorem test_cut : ((out .shutterCut (cutAt 100 [])).getCtx 0).state = 2 ∧ (out .shutterCut (cutAt 101 [])).cuts.length = 1 := by decide +kernel
theorem test_drain_end : (out (.shutterDrainEnd 9) (cutAt 100 [⟨100, 1, 1⟩])).od 0x2700 9 = 5 * 18 + 9
    ∧ (out (.shutterDrainEnd 9) (cutAt 100 [⟨100, 1, 1⟩])).od 0x2700 3 = 0x10001 := by decide +kernel
theorem test_shutter_arm : (out (.shutterArm .host (armSh 103 1)) (live id)).cuts = [⟨103, 1, cutRegister⟩] := by decide +kernel

def frozenCtx : State := live fun x => { x with desc := BitVec.ofNat 512 (2 ^ 448 + 2 * 2 ^ 342) }
theorem witness_SavesAndResumes :
    (live id).quiescent = true ∧ (live id).indexServed 0x2700 = true ∧ State.reset.activeMask = 0 ∧ (live id).activeMask ≠ 0
    ∧ State.reset.quiescent = true
    ∧ fld (0x1000 : W64) 59 44 = 0 ∧ (live id).pageCtx 0 = some 0 ∧ ((live id).getCtx 0).stepRun = false ∧ ((live id).getCtx 0).state ≠ 0
    ∧ (∀ m ∈ [0x2000, 0x100000], let s := live fun x => { x with saveReq := some 0x1000 }
       (s.getCtx 0).saveReq = some 0x1000 ∧ (s.dies.any fun d => d.2.shardQ.any fun e => e.2.1 == 0 || s.exportCtx e.1 == some 0) = false ∧ (s.longOk (.ctx 0) true m 128 = true ↔ m = 0x2000))
    ∧ (frozenCtx.getCtx 0).state = 2 ∧ (frozenCtx.getCtx 0).draining = false ∧ frozenCtx.power.shutterIn = false ∧ frozenCtx.quiescent = true := by
  decide +kernel
theorem test_resume : ((out (.resume 0 [] ⟨[], [], [], []⟩) frozenCtx).getCtx 0).state = 1 := by decide +kernel
theorem test_collimate : (out (.collimate 1) State.reset).od 0x2700 1 = 1 ∧ (out (.collimate 1) (live id)).resp.abort = BitVec.ofNat 32 abState := by decide +kernel

/-! Traces, watches, windows -/

def banked (w : Nat) (buf : List W128) (lost : Nat) : State := { live id with
  time := { (live id).time with tick := 0, sweep := 10 * State.reset.od 0x2900 1 }
  clusters := [(63, { Cluster.init with traceBank := BitVec.ofNat 512 w, traceBuf := buf, traceBufLost := lost })] }
def startW (mode : Nat) : BitVec 512 := BitVec.ofNat 512 (0x1000 * 2 ^ 448 + 0x4000 * 2 ^ 384 + mode * 2 ^ 245 + 2 ^ 231)
def watchW (n : Nat) : BitVec 512 := BitVec.ofNat 512 (0x2000 * 2 ^ 448 + 0x4000 * 2 ^ 384 + n)
def watching (st : Nat) : State := { live id with obs := { State.reset.obs with watch := [(63, watchW (st * 2 ^ 26))] } }
theorem witness_TracesAndWatches :
    (live id).originStatus .host = stOk ∧ (banked 0 [] 0).time.held = true ∧ (banked 0 [] 0).time.tick = 0
    ∧ (banked 0 [] 0).time.sweep % (banked 0 [] 0).od 0x2900 1 = 0
    ∧ (banked 0 [] 0).traceCheck 63 (startW 1) = stOk ∧ flag (startW 1) 231 = true ∧ ((banked 0 [] 0).getCluster 63).tState = 0
    ∧ (let s := banked (1 * 2 ^ 243 + 2 * 2 ^ 245 + 32 * 2 ^ 232) [] 0
       (s.getCluster 63).tState = 1 ∧ (s.getCluster 63).tMode = 2 ∧ (fld (s.getCluster 63).traceBank 237 232).testBit 5 = true
         ∧ s.traceCheck 63 (BitVec.ofNat 512 (2 ^ 230)) = stOk ∧ flag (BitVec.ofNat 512 (2 ^ 230)) 230 = true
         ∧ s.traceCheck 63 (BitVec.ofNat 512 (2 ^ 229)) = stOk ∧ flag (BitVec.ofNat 512 (2 ^ 229)) 230 = false)
    ∧ (let s := banked (2 * 2 ^ 243) [] 3
       (s.getCluster 63).tState = 2 ∧ (s.getCluster 63).traceBufLost ≠ 0 ∧ (s.getCluster 63).traceBuf.length + 2 ≤ 16384)
    ∧ (watching 0).watchCheck 63 (watchW (2 ^ 21 + 2 ^ 256)) = stOk ∧ flag (watchW (2 ^ 21 + 2 ^ 256)) 21 = true ∧ flag (watchW (2 ^ 21 + 2 ^ 256)) 20 = false
    ∧ (∀ st ∈ [1, 2], (watching st).watchCheck 63 (BitVec.ofNat 512 (2 ^ 20)) = stOk ∧ wState ((watching st).watch 63) = st) := by decide +kernel
theorem test_snapshot : ((out .counterSnapshot { banked 0 [] 0 with cores := [(0, { Core.init with counts := [(0x400, 9)] })] }).getCore 0).shadow = [(0x400, 9)] := by
  decide +kernel
theorem test_watch_arm : wState ((out (.watchArm .host 63 (watchW (2 ^ 21 + 2 ^ 256))) (watching 0)).watch 63) = 1 := by decide +kernel

def windowW (first count len valid : Nat) : W128 := BitVec.ofNat 128 (first * 2 ^ 116 + count * 2 ^ 103 + len * 2 ^ 71 + valid * 2 ^ 69)
def recording (n : Nat) : State := { live id with obs := { State.reset.obs with window := [(255, windowW 4095 1 4 1)], winCount := [(255, n)] } }
theorem witness_RecorderWindowsClose :
    (∀ v ∈ [0, 1], (live id).windowCheck 255 (windowW 4095 1 4 v) = stOk ∧ wnValid (windowW 4095 1 4 v) = (v == 1))
    ∧ wnValid ((recording 5).window 255) = true ∧ tblGet nat0 (recording 5).obs.winCount 255 > wnLength ((recording 5).window 255)
    ∧ wnChannels ((recording 5).window 255) = [4095] ∧ (recording 5).od 0x2800 2 < spectrumFull ∧ (recording 5).obs.staging = []
    ∧ 256 ≤ (recording 5).long.governor ∧ (live id).quiescent = true ∧ (live id).indexServed 0x2800 = true := by decide +kernel
theorem test_window : (out (.windowClose 255) (recording 5)).obs.spectrum.length = 1 ∧ (out (.windowClose 255) (recording 4)).obs.spectrum.length = 0 := by decide +kernel

/-! The dictionary and the buses -/

def req (path op index sub len : Nat) (d : List Byte) : DictReq :=
  ⟨BitVec.ofNat 2 path, 0, 7, BitVec.ofNat 8 op, BitVec.ofNat 16 index, BitVec.ofNat 8 sub, BitVec.ofNat 16 len, 0, d⟩
def bus1 (nmt st : Nat) (q : List CanMsg) (bucket : Nat) : Bus := ⟨nmt, st, q, bucket, none, none⟩
def asked (r : List DictReq) (f : Dict → Dict := id) : State := { live id with
  dict := f { (live id).dict with queue := r, mbBusy := true, busA := bus1 5 0 [] 32, busB := bus1 127 0 [] 32 }
  power := { State.reset.power with nodeId := 9 } }
theorem witness_DictionaryServes :
    (live id).originStatus .host = stOk ∧ mailCheck .host 0x10 4 = stOk ∧ flag (4 : W64) 2 = true ∧ (live id).dict.mbBusy = false
    ∧ mailCheck .host 0x10 2 = stOk ∧ flag (2 : W64) 1 = true ∧ flag (2 : W64) 2 = false
    ∧ (∀ b ∈ [(0 : Fin 2), 1], (asked []).busTakes b = true ∧ ((asked []).bus b).state ≠ 2) ∧ (asked []).dict.controller < 2
    ∧ (∀ r ∈ [req 0 1 0x2000 7 0 [], req 0 1 0x2000 0x99 0 [], req 0 2 0x2000 0x99 0 [], req 0 2 0x2900 1 4 (leBytes 4 5)],
        (asked [r]).served = some r ∧ (asked [r]).notServed r = false)
    ∧ ((asked []).reqEntry (req 0 1 0x2000 7 0 [])).2.isSome = true ∧ ((asked []).reqEntry (req 0 1 0x2000 0x99 0 [])).2 = none
    ∧ (match (asked []).reqEntry (req 0 2 0x2900 1 4 (leBytes 4 5)) with
       | (_, some e) => !waitsForRow e.key && (ownWrite e.key 5).isNone && e.acc != .rwp && rangeAbort e 5 == 0 && (asked []).ruleAbort 0x2900 1 5 == 0
       | _ => false) = true
    ∧ (live id).quiescent = true ∧ (live id).indexServed 0x1010 = true ∧ (live id).indexServed 0x1011 = true := by decide +kernel
theorem test_read : (out .dictionaryRead (asked [req 0 1 0x2200 0xC 4 []])).resp.data = leBytes 4 (State.reset.od 0x2200 0xC) := by decide +kernel
theorem test_no_sub : (out .dictionaryRead (asked [req 0 1 0x2000 0x99 0 []])).resp.abort = 0x06090011 := by decide +kernel
theorem test_write : (out .dictionaryWrite (asked [req 0 2 0x2900 1 4 (leBytes 4 5)])).od 0x2900 1 = 5 := by decide +kernel
theorem test_mailbox : (out (.mailboxGo .host 4) (live id)).dict.queue.length = 1 ∧ (out (.mailboxGo (.core 0) 4) (live id)).resp.status = BitVec.ofNat 8 stDenied := by
  decide +kernel
theorem witness_AlignmentDelaysAreBounded :
    (∀ k ∈ [5, 6], ∀ v ∈ [4095, 4096], let r := req 0 2 0x2200 k 2 (leBytes 2 v)
      (asked [r]).served = some r ∧ (asked [r]).notServed r = false ∧ r.op = 2 ∧ r.rsv = 0 ∧ r.index.toNat = 0x2200 ∧ r.sub.toNat = k ∧ r.length.toNat = 2
        ∧ 2 ≤ r.data.length ∧ (asked [r]).indexServed 0x2200 = true ∧ (asked [r]).quiescent = true) := by decide +kernel
-- 02 R57: a delay of more than 4,095 is refused
theorem test_delay : (out .dictionaryWrite (asked [req 0 2 0x2200 5 2 (leBytes 2 4096)])).resp.abort = 0x06090031
    ∧ (out .dictionaryWrite (asked [req 0 2 0x2200 5 2 (leBytes 2 4095)])).od 0x2200 5 = 4095 := by decide +kernel

def hot (on : Nat) : State := asked [] fun d => { d with errReg := BitVec.ofNat 8 (on * 8) }
theorem witness_CanBuses :
    (∀ b ∈ [(0 : Fin 2), 1], (asked []).busOn b = true ∧ ((asked []).bus b).state ≠ 2 ∧ ((asked []).bus b).nmt ≠ 0) ∧ (asked []).dict.controller < 2
    ∧ (asked []).tpdoCob 3 < 2 ^ 31 ∧ ((asked []).bus 0).nmt = 5 ∧ ((asked []).bus 0).queue.length < 64
    ∧ (let s := asked [] fun d => { d with busB := bus1 5 0 [⟨1, 2, []⟩] 1 }
       (s.bus 1).queue = [⟨1, 2, []⟩] ∧ s.busTakes 1 = true ∧ (s.bus 1).state ≠ 2 ∧ (s.bus 1).bucket ≠ 0)
    ∧ (let s := asked [] fun d => { d with busB := bus1 5 2 [] 1 }
       (s.bus 1).state = 2 ∧ (s.bus 0).state ≠ 2 ∧ s.darkPorts = 0)
    ∧ flag (hot 0).dict.errReg 3 = false ∧ ((hot 0).od 0x2100 0xC : Int) ≤ (BitVec.ofNat 16 ((hot 0).od 0x2100 0xC)).toInt
    ∧ flag (hot 1).dict.errReg 3 = true ∧ (BitVec.ofNat 16 ((hot 0).od 0x2100 0xC - 200)).toInt ≤ ((hot 1).od 0x2100 0xC : Int) - 200
    ∧ (asked []).dict.controller = 0 ∧ (asked [] fun d => { d with controller := 1 }).dict.controller = 1 := by decide +kernel
theorem test_nmt : ((out (.nmtStart 1) (asked [])).bus 1).nmt = 5 ∧ ((out (.nmtStop 0) (asked [])).bus 0).nmt = 4 := by decide +kernel
theorem test_heartbeat : ((out .heartbeat (asked [])).bus 1).lastMsg = some ⟨0, 0x709, [127]⟩ := by decide +kernel
theorem test_hot : (out (.thermalWarning (BitVec.ofNat 16 (State.reset.od 0x2100 0xC)) 0) (hot 0)).dict.history.head? = some 0xFF70 := by decide +kernel

/-! Start-up, images, owner, power, attestation -/

def boot (f : Boot → Boot) : State := { live id with boot := f (live id).boot }
def failedAt (stage alt : Nat) : Boot → Boot := fun b => { b with stage := stage, journal := [⟨0, 0, 0, stage, 2, alt, 0⟩] }
theorem witness_StartUpRuns :
    (∀ p ∈ [(1, 0), (7, 47), (8, 7), (10, 0)], (boot fun b => { b with stage := p.1, unit := p.2 }).stageDue p.1 p.2 = true
      ∧ (boot fun b => { b with stage := p.1, unit := p.2 }).stageLevel p.1 p.2 = 0)
    ∧ (∀ n ∈ [1, 2, 5, 9, 10], stageLimit n - 0 ≤ stageLimit n ∧ stageLimit n < (stageLimit n + 1) - 0)
    ∧ (let s := boot fun b => { b with stage := 9, slotVer := [(1, 5)] }
       s.stageDue 9 0 = true ∧ (s.slotAt (s.stageLevel 9 0)).isSome = true) ∧ (boot fun b => { b with stage := 9 }).slotAt 0 = none
    ∧ stageMandatory 1 = true ∧ (boot fun b => { b with stage := 1 }).stageLevel 1 0 = stageLast 1
    ∧ (boot (failedAt 2 0)).stageDue 2 0 = true ∧ (boot (failedAt 2 0)).stageLevel 2 0 = stageLast 2
    ∧ (boot fun b => { b with stage := 2 }).stageLevel 2 0 ≠ stageLast 2 ∧ (boot id).boot.restarts < 8 ∧ 8 ≤ (boot fun b => { b with restarts := 8 }).boot.restarts
    ∧ stageMandatory 10 = false ∧ (boot (failedAt 7 0)).stageDue 7 0 = true ∧ (boot (failedAt 7 0)).stageLevel 7 0 = 1 := by decide +kernel
theorem test_stage_pass : (out (.startupStage 1 0 true 0 0 200) (boot fun b => { b with stage := 1 })).boot.stage = 2
    ∧ (out (.startupStage 1 0 true 0 0 201) (boot fun b => { b with stage := 1 })).boot.recovery = true := by decide +kernel
def imaged (f : Boot → Boot) : State := { boot fun b => f { b with slotVer := [(0, 3), (1, 5)] } with time := { (live id).time with tick := 0 } }
theorem witness_ImagesAndHandovers :
    (imaged id).updateReason 3 true false true 46000 = 0 ∧ (imaged id).updateReason 3 true false true 45999 ≠ 0
    ∧ (∀ r ∈ [true, false], let s := imaged fun b => { b with updating := some (2, 9), recovery := r }
       s.boot.updating = some (2, 9) ∧ s.boot.recovery = r)
    ∧ (imaged id).slotVersionOf 1 ≠ 0 ∧ ¬ (imaged id).slotVersionOf 1 < (imaged id).slotVersionOf (imaged id).boot.running
    ∧ (imaged id).slotVersionOf 2 = 0
    ∧ (let s := imaged fun b => { b with activate := some (1, 99) }
       s.boot.activate = some (1, 99) ∧ s.boot.handover = none ∧ 99 < s.time.boundaries ∧ s.time.tick = 0 ∧ s.handoverIdle = true)
    ∧ 0 + 100000 ≤ ({ (live id).time with boundaries := 100000 } : TimeBase).boundaries
    ∧ (imaged fun b => { b with handover := some (3, 1) }).boot.handover = some (3, 1) := by decide +kernel
theorem test_update : (out (.update 1 3 true false true 46000) (imaged id)).boot.updating = some (2, 3) := by decide +kernel
theorem test_activate : (out (.activateSlot 2) (imaged id)).resp.abort ≠ 0 ∧ (out (.activateSlot 1) (imaged id)).boot.activate = some (1, 100) := by decide +kernel
theorem witness_OwnerAndPresence :
    (∀ n ∈ [0, 60000], (boot fun b => { b with presentAt := some n }).present = true) ∧ (boot fun b => { b with presentAt := some 60001 }).present = false
    ∧ (boot id).present = false ∧ (boot id).boot.tamper = false ∧ (boot id).indexServed 0x2010 = true ∧ (boot id).quiescent = true
    ∧ (boot id).boot.revoked ≤ (3 : BitVec 8).toNat
    ∧ (let s := boot fun b => { b with tamper := true, tamperPress := some 60000 }
       s.boot.tamper = true ∧ s.boot.tamperPress = some 60000)
    ∧ (boot fun b => { b with tamper := true }).boot.tamperPress = none := by decide +kernel
theorem test_presence : (out (.presence 1000 true) (boot id)).boot.presentAt = some 0 ∧ (out (.presence 999 true) (boot id)).boot.presentAt = none
    ∧ (out (.presence 5001 true) (boot id)).boot.presentAt = none := by decide +kernel
theorem test_owner : (out (.ownerLock 1) (boot fun b => { b with presentAt := some 0 })).od 0x2010 5 = 1 ∧ (out (.ownerLock 1) (boot id)).resp.abort ≠ 0 := by decide +kernel
def powered (f : Power → Power) : State := { live id with power := f { State.reset.power with mated := true, good := true, powered := true } }
theorem witness_PowerAndTrips :
    (∀ c ∈ [0, 1, 2, 3], (powered fun p => { p with ilim := BitVec.ofNat 2 c }).power.ilim.toNat = c ∧ 1000 * ilimAmps c < 1000 * ilimAmps c + 1)
    ∧ (powered id).power.good = true ∧ (11500 : Int) ≤ 11500
    ∧ (let s := powered fun p => { p with good := false, off := true }
       s.power.mated = true ∧ s.power.good = false ∧ s.power.off = true ∧ 1000 ≤ 1000)
    ∧ inBand 42000 = true ∧ inBand 43999 = true ∧ inBand 58001 = true ∧ inBand 60000 = true ∧ inBand 44000 = false ∧ (powered id).inputOut = false
    ∧ inRange 44000 = true ∧ inRange 58000 = true ∧ ({ powered id with dict := { (powered id).dict with errReg := 4 } } : State).inputOut = true
    ∧ ((powered id).setPort 3 { Port.init with laserOff := true }).getPort 3 = { Port.init with laserOff := true } := by decide +kernel
theorem test_trip : (out (.currentTrip 90001 2000) (powered id)).power.off = true ∧ (out (.currentTrip 90000 2000) (powered id)).power.off = false
    ∧ (out (.thermalTrip 0 11499) (powered id)).power.off = false := by decide +kernel
def spdm (n se : Nat) : State := boot fun b => { b with spdm := n, session := se, pair := true, large := some (0x7E, 10) }
theorem witness_AttestationAnswers : (spdm 1 0).boot.spdm ≠ 0 ∧ 2 ≤ (spdm 2 0).boot.spdm ∧ (∀ a ∈ spdmAlgorithms, a ∈ spdmAlgorithms) ∧ 3 ≤ (spdm 3 0).boot.spdm
    ∧ ((spdm 3 0).measurements 1).isSome = true ∧ (spdm 3 1).boot.session = 1 ∧ (spdm 3 2).boot.session = 2 ∧ (boot id).boot.spdm = 0
    ∧ (spdm 3 0).boot.chunkNo = 0 ∧ (spdm 3 0).boot.large = some (0x7E, 10) ∧ 0 * 10 < 10 ∧ (spdm 3 0).boot.pair = true ∧ (boot id).boot.pair = false := by decide +kernel
theorem test_version : (out .getVersion (boot id)).boot.spdm = 1 ∧ (out .getCapabilities (boot id)).resp.data = [0x13, 0x7F, 4, 0] := by decide +kernel

/-! The host -/

/-- DMA windows of function 0 over the first 16 MiB of host memory, read and write; queue 3 enabled, with two entries. -/
def windowE (fn : Nat) : W128 := BitVec.ofNat 128 (0x1000 * 2 ^ 48 + fn * 2 ^ 43 + 2 ^ 42 + 2 ^ 41 + 2 ^ 40)
def queueW (enable : Nat) : BitVec 256 :=
  BitVec.ofNat 256 (0x1000 * 2 ^ 192 + 0x2000 * 2 ^ 128 + 1 * 2 ^ 124 + 1 * 2 ^ 120 + 9 * 2 ^ 93 + enable * 2 ^ 92 + 2 ^ 91)
def hostW (op space len tag sig : Nat) : BitVec 512 :=
  BitVec.ofNat 512 (0x10000 * 2 ^ 448 + (space * 2 ^ 44 + 0x100) * 2 ^ 384 + len * 2 ^ 352 + tag * 2 ^ 336 + op * 2 ^ 328 + sig * 2 ^ 312)
def hostS (q : HostQ) (f : HostIf → HostIf := id) : State := { live id with
  host := f { State.reset.host with windows := [(0, windowE 0)], queues := [(3, q)] } }
def enabled (cmds : List HostCmd) : HostQ := { HostQ.init with cfg := queueW 1, byPf := true, cmds := cmds }
def cmdOf (op space len : Nat) (done : Option (Nat × Nat)) (seq : Nat) : HostCmd :=
  { entry := hostW op space len 7 0, started := done.isSome, win := none, done := done, seq := seq }
/-- An operation of core 0 whose 512 bytes at 0x100 of a space of this module have moved up to `pos`. -/
def ownOp (kind : XKind) (space pos : Nat) : Xfer :=
  { xferOf kind true 0 512 with
    gaddr := BitVec.ofNat 64 (space * 2 ^ 44 + 0x100)
    ownAddr := space * 2 ^ 44 + 0x100
    ownPos := pos
    data := if kind = .get then [] else List.replicate 512 3
    served := 0 }
theorem witness_HostQueuesRun :
    (hostS HostQ.init).fnRefused 0 true = false ∧ ((hostS HostQ.init).seen 0).queueReach 0 3 = true ∧ (hostS HostQ.init).frozen 0 = false
    ∧ (∀ e ∈ [0, 1], fld (queueW e) 90 0 = 0 ∧ hqEnable (queueW e) = (e == 1)) ∧ hqEnable HostQ.init.cfg = false
    ∧ ((hostS HostQ.init).seen 0).enableStatus 0 3 (queueW 1) = stOk ∧ hqEnable (enabled []).cfg = true
    ∧ (hostS (enabled [])).fnRefused 0 true = false
    ∧ (1 : Nat) < (enabled []).sqSize ∧ (enabled []).sqSize ≤ 2 ∧ (enabled []).full = false
    ∧ (∀ i ∈ [0, 1], ((hostS (enabled [])).dmaWindow 0 (hqSq (queueW 1) + 64 * i) 64 false).isSome = true)
    ∧ seOp (hostW 3 0 0 7 0) = 3 ∧ seLen (hostW 1 0 8 7 0) ≠ 0 ∧ entryBad (hostW 1 0 8 7 0) = false ∧ entryBad (hostW 4 0 8 7 0) = true ∧ (1 : Nat) < (enabled []).cqSize ∧ (enabled []).cqSize ≤ 2
    ∧ (hostS (enabled [])).fnRefused 3 false = false ∧ ((hostS (enabled [])).seen 17).queueReach 17 3 = false
    ∧ (enabled []).next 1 = none ∧ (enabled []).next 2 = none := by decide +kernel
theorem witness_HostQueuesRun_move :
    (∀ p ∈ [(1, 0), (1, 1), (2, 0), (2, 1)], let c := cmdOf p.1 p.2 8 none 0
     let s := hostS (enabled [c])
     (s.getQ 3).next p.1 = some c ∧ c.done = none ∧ c.seq < 2 ^ 24 ∧ s.cmdWindow (s.getQ 3) 3 c.entry (p.1 == 2) = some 0 ∧ gaSpace (seAddr c.entry) = p.2
       ∧ s.ownEntry c.entry = true ∧ s.accessStatus (hostAccess 3 c (p.1 == 1)) = stOk ∧ s.accessHeld (hostAccess 3 c (p.1 == 1)) = none ∧ s.ops = []
       ∧ s.long.unmapWait = [] ∧ headerFree s 0x100 ∧ seSig c.entry = false)
    ∧ (let c := cmdOf 1 2 8 none 0
       let s := hostS { enabled [c] with byPf := false } fun h => { h with windows := [(0, windowE 1)] }
       s.cmdWindow (s.getQ 3) 3 c.entry false = some 0 ∧ gaSpace (seAddr c.entry) = 2 ∧ (s.getQ 3).byPf = false)
    ∧ (hostS (enabled [cmdOf 1 0 8 none 0]) fun h => { h with windows := [] }).cmdWindow (enabled [cmdOf 1 0 8 none 0]) 3 (hostW 1 0 8 7 0) false = none := by
  unfold headerFree; decide +kernel
theorem witness_HostQueuesRun_end :
    (∀ l ∈ [[], [cmdOf 1 0 8 none 4]], let c := cmdOf 3 0 0 none 5
     (enabled (l ++ [c])).next 3 = some c ∧ (enabled (l ++ [c])).cmds.takeWhile (fun x => x.seq != 5) = l)
    ∧ (let h := enabled [cmdOf 1 0 8 (some (0, 8)) 4]
       h.cmds = [cmdOf 1 0 8 (some (0, 8)) 4] ∧ h.full = false ∧ ((hostS h).dmaWindow (h.fn 3) (hqCq h.cfg + 16 * h.cqTail) 16 true).isSome = true
         ∧ hqIrq h.cfg = true ∧ h.toRead = [])
    ∧ ({ enabled [] with cqHead := 1 } : HostQ).full = true
    ∧ (let s := hostS (enabled []) fun h => { h with msixReady := [5], msixTable := [(5, 0)] }
       5 ∈ s.host.msixReady ∧ 5 ∉ s.host.msixSent ∧ flag (s.msixEntry 5) 96 = false)
    ∧ (∀ p ∈ [(XKind.put, 1, 0, 0), (.put, 1, 256, 0), (.put, 1, 511, 0), (.put, 0, 0, 0), (.get, 1, 511, 0), (.get, 1, 0, 512)],
       let x := { ownOp p.1 p.2.1 p.2.2.1 with core := p.2.2.2 }
       let s := here [x] []
       s.beatOp 0x77 = some x ∧ s.accessHeld (s.ownAccess x 0 x.ownTotal) = none ∧ s.long.unmapWait = [] ∧ x.kind = p.1 ∧ x.sig = false ∧ x.pack = 0
         ∧ s.accessStatus (s.ownAccess x x.ownPos (x.ownTotal - x.ownPos)) = stOk ∧ s.accessStatus (s.ownAccess x x.ownPos x.beat) = stOk
         ∧ x.ownAddr / 2 ^ 44 = p.2.1 ∧ x.side = false)
    ∧ (here [] []).beatOp 0x77 = none := by decide +kernel
theorem test_to_host : (out (.toHost ⟨3, .ok⟩) { hostS (enabled [cmdOf 2 0 2 none 0]) with lr := [(0x100, 5)] }).host.hostOut = [5, 0] := by decide +kernel
theorem test_completion : ((out (.hostCommandComplete 3) (hostS (enabled [cmdOf 1 0 8 (some (0, 8)) 4]))).getQ 3).cqTail = 1 := by decide +kernel
theorem test_beat : (out (.packageBeat 0x77 .ok) (here [ownOp .put 1 0] [])).rdLocal 0 0x1FF 2 = [3, 0] := by decide +kernel
theorem witness_LinkKeysAndResets :
    (boot fun b => { b with session := 2 }).boot.session = 2 ∧ (boot id).boot.session ≠ 2
    ∧ (∀ n ∈ [0, 1], ({ boot fun b => { b with session := 2 } with host := { State.reset.host with tdi := [(15, n)] } } : State).tdi 15 = n) := by decide +kernel
theorem test_tdisp : (out (.tdispRequest 15 .lock) (boot fun b => { b with session := 2 })).tdi 15 = 1
    ∧ (out (.tdispRequest 15 .lock) (boot id)).tdi 15 = 0 := by decide +kernel
theorem witness_RegistersAndBars :
    (live id).originStatus (.core 7) = stOk ∧ (live id).originStatus (.remote 5) ≠ stOk ∧ (2047 : W64).toNat < 2048 ∧ (live id).staged = []
    ∧ barShape 0x20 7 = false ∧ barShape 0x38 16 = false ∧ (live id).pfListed 0x20 = false
    ∧ (0 : Nat) % (live id).bar2Size 0 = 0 ∧ (4096 : Nat) % (live id).bar2Size 0 ≠ 0 ∧ (live id).frozen 15 = false ∧ fld (BitVec.ofNat 64 (255 * 2 ^ 56)) 63 56 = 0xFF
    ∧ (hostS HostQ.init fun h => { h with tdi := [(15, 1)] }).frozen 15 = true
    ∧ fld (windowE 16) 39 0 = 0 ∧ dwFn (windowE 16) ≤ 16 ∧ (live id).windowFrozen (windowE 16) = false ∧ (live id).windowFrozen 0 = false
    ∧ (hostS HostQ.init fun h => { h with tdi := [(15, 1)] }).windowFrozen (windowE 16) = true ∧ fld (1 : W128) 39 0 ≠ 0
    ∧ (live id).fnRefused 16 true = false ∧ (live id).bar2Ok 1 true true 0 4096 = true ∧ (live id).bar2Ok 2 true true 0 1 = false
    ∧ (live id).heldAt ((live id).bar2Base 1 + 0) 4096 = none := by decide +kernel
theorem test_bar2 : (out (.bar2Write 1 0x10 [1, 2] true) (live id)).lr = [(0x10, 1), (0x11, 2)]
    ∧ (out (.bar2Write 2 0x10 [1, 2] true) (live id)).resp.status = BitVec.ofNat 8 urStatus := by decide +kernel
theorem test_window_put : (out (.dmaWindow 0 5 (windowE 16) true) (live id)).dmaWindow 16 0xFFFFF8 8 true = some 5 := by decide +kernel

/-! The step -/

theorem witness_StepRunsTheFrontCommand : ({ State.reset with pending := [.tick] } : State).pending = [.tick] ∧ State.reset.pending = [] := by decide
theorem test_step_order : (match step ({ State.reset with pending := [.tick, .systemEpoch] } : State) with | .next t => t.pending | _ => []) = [.systemEpoch] := by decide
theorem witness_StepKeepsSafe : (match step ({ State.reset with pending := [.enShortMate] } : State) with | .next t => t.power.mated | _ => false) = true := by decide
theorem witness_InstructionWordsRoundTrip : rdImem (ready [insn 0 1 3 1 2 0 0] Core.init).imem (0 * 65536 + 0 * 16) 16 = leBytes 16 (encodeInsn (insn 0 1 3 1 2 0 0)).toNat := by
  decide +kernel

end Sys2Proof.Tests
end

section
/-!
PROOFS. The effects that reach one core, each said once: what a change of a core, a dictionary count, the CTR increment and a sync
counter make of it.
-/

namespace Sys2Proof.Machine

/-! ## Updates of a core -/

/-- The CTR increment that an instruction asks of its core (12 R283). -/
def Core.asked (i : Insn) (c : Core) : Core :=
  if i.ctrN < 48 then c.pend i.ctrN false 1 c.pc i.latency else c

/-- A sync counter raised, saturating (12 R284). -/
def Core.raise (k n : Nat) (c : Core) : Core :=
  if c.ctrVal k + n < 2 ^ 32 then c.setCtr k (c.ctrVal k + n)
  else { c.setCtr k (2 ^ 32 - 1) with sat := c.sat ||| BitVec.ofNat 48 (2 ^ k) }

/-- `d` has the registers and accumulators of `c`. -/
structure SameData (c d : Core) : Prop where
  sreg : d.sreg = c.sreg
  areg : d.areg = c.areg
  treg : d.treg = c.treg
  acc : d.acc = c.acc

theorem SameData.trans {c d e : Core} (h : SameData c d) (k : SameData d e) : SameData c e :=
  ⟨k.sreg.trans h.sreg, k.areg.trans h.areg, k.treg.trans h.treg, k.acc.trans h.acc⟩

theorem SameWork.data {c d : Core} (h : SameWork c d) : SameData c d := ⟨h.sreg, h.areg, h.treg, h.acc⟩

theorem Core.count_data (c : Core) (off n : Nat) : SameData c (c.count off n) := ⟨rfl, rfl, rfl, rfl⟩

theorem Core.asked_data (i : Insn) (c : Core) : SameData c (c.asked i) := by
  unfold Core.asked; split <;> exact ⟨rfl, rfl, rfl, rfl⟩

theorem Core.raise_data (k n : Nat) (c : Core) : SameData c (c.raise k n) := by
  unfold Core.raise; split <;> exact ⟨rfl, rfl, rfl, rfl⟩

theorem Core.latchWait_only (c : Core) : ∃ w, c.latchWait = { c with wait := w } := by
  unfold Core.latchWait
  split
  · split <;> exact ⟨_, rfl⟩
  · exact ⟨_, rfl⟩

theorem Core.latchWait_data (c : Core) : SameData c c.latchWait := by
  obtain ⟨w, e⟩ := c.latchWait_only
  rw [e]; exact ⟨rfl, rfl, rfl, rfl⟩

@[simp] theorem Core.ctrVal_latchWait (c : Core) (k : Nat) : c.latchWait.ctrVal k = c.ctrVal k := by
  obtain ⟨w, e⟩ := c.latchWait_only
  rw [e]; rfl

theorem Core.ctrVal_setCtr (c : Core) (k j : Nat) {v : Nat} (hv : v < 2 ^ 32) :
    (c.setCtr k v).ctrVal j = if j = k then v else c.ctrVal j := by
  unfold Core.ctrVal Core.setCtr
  dsimp only
  rw [tblGet_set]
  split
  · rw [BitVec.toNat_ofNat, Nat.mod_eq_of_lt hv]
  · rfl

theorem Core.ctrVal_raise (c : Core) (k n j : Nat) :
    (c.raise k n).ctrVal j = if j = k then min (2 ^ 32 - 1) (c.ctrVal j + n) else c.ctrVal j := by
  unfold Core.raise
  split
  · rename_i h
    rw [Core.ctrVal_setCtr _ _ _ h]
    split
    · rename_i hj; subst hj; omega
    · rfl
  · rename_i h
    have e := c.ctrVal_setCtr k j (v := 2 ^ 32 - 1) (by omega)
    refine e.trans ?_
    split
    · rename_i hj; subst hj; omega
    · rfl

@[simp] theorem Core.ctr_asked (i : Insn) (c : Core) : (c.asked i).ctr = c.ctr := by
  unfold Core.asked; split <;> rfl

theorem Core.ctrPend_asked (i : Insn) (c : Core) : (c.asked i).ctrPend
    = c.ctrPend ++ if i.ctrN < 48 then [⟨c.issued, i.ctrN, false, 1, c.pc, i.latency⟩] else [] := by
  unfold Core.asked; split
  · rfl
  · exact (List.append_nil _).symm

/-! ## Steps of one core -/

/-- `t` is `s` with `f` done to one core; beyond the cores, only the dictionary and the contexts may differ. -/
structure CoreStep (core : Nat) (f : Core → Core) (s t : State) : Prop where
  fields : ∃ co di cx, t = { s with cores := co, dict := di, ctxs := cx }
  other : ∀ n, n ≠ core → t.getCore n = s.getCore n
  core_ : t.getCore core = f (s.getCore core)

theorem CoreStep.trans {core : Nat} {f g : Core → Core} {s t u : State} (h : CoreStep core f s t) (k : CoreStep core g t u) :
    CoreStep core (fun c => g (f c)) s u := by
  obtain ⟨_, _, _, e⟩ := h.fields
  obtain ⟨co, di, cx, e'⟩ := k.fields
  exact ⟨⟨co, di, cx, by rw [e', e]⟩, fun n hn => (k.other n hn).trans (h.other n hn), by rw [k.core_, h.core_]⟩

/-- The four memories are those of the state before the step. -/
theorem CoreStep.memories {core : Nat} {f : Core → Core} {s t : State} (h : CoreStep core f s t) :
    t.stores = s.stores ∧ t.imem = s.imem ∧ t.lr = s.lr ∧ t.side = s.side := by
  obtain ⟨_, _, _, e⟩ := h.fields
  rw [e]; exact ⟨rfl, rfl, rfl, rfl⟩

theorem CoreStep.modCore (core : Nat) (f : Core → Core) (s : State) : CoreStep core f s (s.modCore core f) :=
  ⟨⟨_, _, _, rfl⟩, fun _ hn => State.getCore_setCore_other s _ hn, State.getCore_setCore_same s core _⟩

/-- A step that leaves every core as it was. -/
theorem CoreStep.same_cores {core : Nat} {s t : State} (hc : t.cores = s.cores)
    (h : ∃ co di cx, t = { s with cores := co, dict := di, ctxs := cx }) : CoreStep core (fun c => c) s t :=
  ⟨h, fun n _ => State.getCore_of_cores hc n, State.getCore_of_cores hc core⟩

/-- A count of the dictionary, made or not. -/
theorem CoreStep.addOd_if (core : Nat) (p : Prop) [Decidable p] (s : State) (i k n : Nat) :
    CoreStep core (fun c => c) s (if p then s.addOd i k n else s) := by
  split
  · obtain ⟨d, e⟩ := s.addOd_only i k n
    rw [e]; exact .same_cores rfl ⟨_, _, _, rfl⟩
  · exact .same_cores rfl ⟨_, _, _, rfl⟩

theorem CoreStep.ctrField (core : Nat) (i : Insn) (s : State) : CoreStep core (Core.asked i) s (s.ctrField core i) := by
  unfold State.ctrField Core.asked
  split
  · exact .modCore core _ s
  · exact .same_cores rfl ⟨_, _, _, rfl⟩

theorem CoreStep.countSync (core : Nat) (s : State) (c : Option Nat) (k : Nat) :
    CoreStep core (fun c => c) s (s.countSync c k) := by
  obtain ⟨x, e⟩ := s.countSync_only c k
  rw [e]; exact .same_cores rfl ⟨_, _, _, rfl⟩

theorem CoreStep.ctrRaise (core : Nat) (s : State) (k n : Nat) : CoreStep core (Core.raise k n) s (s.ctrRaise core k n) := by
  unfold State.ctrRaise
  by_cases h : (s.getCore core).ctrVal k + n < 2 ^ 32
  · have e : (s.getCore core).raise k n = (s.getCore core).setCtr k ((s.getCore core).ctrVal k + n) := if_pos h
    rw [if_pos h, ← e]
    exact .modCore core (Core.raise k n) s
  · have e : (s.getCore core).raise k n = { (s.getCore core).setCtr k (2 ^ 32 - 1) with
        sat := (s.getCore core).sat ||| BitVec.ofNat 48 (2 ^ k) } := if_neg h
    rw [if_neg h, ← e]
    exact (CoreStep.modCore core (Core.raise k n) s).trans (.countSync core _ _ 3)

/-- The CTR increment of a completed operation (03 Table 03-5). -/
theorem CoreStep.ctrDone (core : Nat) (s : State) (k : Nat) :
    CoreStep core (fun c => if k < 48 then (c.raise k 1).latchWait else c) s (s.ctrDone core k) := by
  unfold State.ctrDone
  split
  · exact (CoreStep.ctrRaise core s k 1).trans (.modCore core Core.latchWait _)
  · exact .same_cores rfl ⟨_, _, _, rfl⟩

/-! ## What a command that reaches one core leaves as it was -/

theorem sameRegs_of_data {core : Nat} {s t : State} (ho : ∀ n, n ≠ core → t.getCore n = s.getCore n)
    (h : SameData (s.getCore core) (t.getCore core)) : SameRegsBut s t core [] [] [] := by
  refine ⟨fun n r _ => ?_, fun n r _ => ?_, fun n r _ => ?_⟩
  all_goals
    by_cases hn : n = core
    · subst hn; simp only [State.sReg, State.aReg, State.tReg, h.sreg, h.areg, h.treg]
    · simp only [State.sReg, State.aReg, State.tReg, ho n hn]

/-- An instruction that stores nothing and whose effect is a step of its core: no byte of memory and no other core changes, and its
core has the work that the step leaves (03 R60). -/
theorem issueOp_coreStep {s : State} {core cls op : Nat} {i : Insn} {body : State → State} {f : Core → Core}
    (hi : i.isOp cls op = true) (h : s.Issues core i) (hw : ∀ c, Core.writes core c i = [])
    (hb : ∀ v, (body v).stores = v.stores) (hf : CoreStep core f (s.before core) (body (s.before core))) :
    ∃ t, issueOp cls op core i body s = .next t ∧ SameBytes s t ∧ (∀ n, n ≠ core → t.getCore n = s.getCore n)
      ∧ SameWork (f ((s.opened core).getCore core)) (t.getCore core) := by
  refine ⟨_, issueOp_keeps hi h body _ _ rfl hw hb, ?_⟩
  obtain ⟨_, him, hlr, hsd⟩ := hf.memories
  obtain ⟨_, _, _, eb⟩ := s.before_fields core
  have hm := State.closed_moved ({ body (s.before core) with stores := s.stores } : State) core i
  obtain ⟨_, _, _, _, _, _, ec⟩ := hm.fields
  refine ⟨fun a => ?_, fun n hn => ?_, ?_⟩
  · rw [ec]; dsimp only
    rw [him, hlr, hsd, eb]
    exact ⟨rfl, rfl, rfl, rfl⟩
  · exact (hm.other n hn).trans ((hf.other n hn).trans (s.opened_other core hn))
  · have hc := hm.work
    rwa [show ({ body (s.before core) with stores := s.stores } : State).getCore core = f ((s.opened core).getCore core)
      from hf.core_] at hc

end Sys2Proof.Machine
end

section
/-!
PROOFS. Curvature taps (07 R151 to R156): the tap path of an engine, what a TAP reads, what it makes of its core, and TAP_WRITE.
-/

namespace Sys2Proof.Machine

/-! ## The tap path of an engine -/

@[simp] theorem Core.tapQ_setTapQ_same (c : Core) (e : Nat) (q : List TapPending) : (c.setTapQ e q).tapQ e = q := by
  by_cases h : e = 0 <;> simp [Core.tapQ, Core.setTapQ, h]

theorem Core.tapQ_setTapQ_other (c : Core) {e j : Nat} (q : List TapPending) (he : e < 2) (hj : j < 2) (h : j ≠ e) :
    (c.setTapQ e q).tapQ j = c.tapQ j := by
  rcases (by omega : e = 0 ∧ j = 1 ∨ e = 1 ∧ j = 0) with ⟨rfl, rfl⟩ | ⟨rfl, rfl⟩ <;> rfl

@[simp] theorem Core.half_setTapQ (c : Core) (e j : Nat) (q : List TapPending) : (c.setTapQ e q).half j = c.half j := by
  unfold Core.setTapQ; split <;> rfl

@[simp] theorem Core.half_setHalf_same (c : Core) (e : Nat) (h : Option TapHalf) : (c.setHalf e h).half e = h := by
  by_cases he : e = 0 <;> simp [Core.half, Core.setHalf, he]

theorem Core.half_setHalf_other (c : Core) {e j : Nat} (h : Option TapHalf) (he : e < 2) (hj : j < 2) (hne : j ≠ e) :
    (c.setHalf e h).half j = c.half j := by
  rcases (by omega : e = 0 ∧ j = 1 ∨ e = 1 ∧ j = 0) with ⟨rfl, rfl⟩ | ⟨rfl, rfl⟩ <;> rfl

@[simp] theorem Core.tapQ_setHalf (c : Core) (e j : Nat) (h : Option TapHalf) : (c.setHalf e h).tapQ j = c.tapQ j := by
  unfold Core.setHalf; split <;> rfl

@[simp] theorem Core.ctr_setTapQ (c : Core) (e : Nat) (q : List TapPending) : (c.setTapQ e q).ctr = c.ctr := by
  unfold Core.setTapQ; split <;> rfl

@[simp] theorem Core.ctr_setHalf (c : Core) (e : Nat) (h : Option TapHalf) : (c.setHalf e h).ctr = c.ctr := by
  unfold Core.setHalf; split <;> rfl

theorem Core.setTapQ_data (c : Core) (e : Nat) (q : List TapPending) : SameData c (c.setTapQ e q) := by
  unfold Core.setTapQ; split <;> exact ⟨rfl, rfl, rfl, rfl⟩

theorem Core.setHalf_data (c : Core) (e : Nat) (h : Option TapHalf) : SameData c (c.setHalf e h) := by
  unfold Core.setHalf; split <;> exact ⟨rfl, rfl, rfl, rfl⟩

@[simp] theorem Core.tapQ_asked (i : Insn) (c : Core) (e : Nat) : (c.asked i).tapQ e = c.tapQ e := by
  unfold Core.asked; split <;> rfl

@[simp] theorem Core.half_asked (i : Insn) (c : Core) (e : Nat) : (c.asked i).half e = c.half e := by
  unfold Core.asked; split <;> rfl

@[simp] theorem Core.tapQ_raise (k n : Nat) (c : Core) (e : Nat) : (c.raise k n).tapQ e = c.tapQ e := by
  unfold Core.raise; split <;> rfl

@[simp] theorem Core.tapQ_latchWait (c : Core) (e : Nat) : c.latchWait.tapQ e = c.tapQ e := by
  obtain ⟨w, h⟩ := c.latchWait_only
  rw [h]; rfl

@[simp] theorem Core.tapQ_count (c : Core) (off n e : Nat) : (c.count off n).tapQ e = c.tapQ e := rfl
@[simp] theorem Core.half_count (c : Core) (off n e : Nat) : (c.count off n).half e = c.half e := rfl
@[simp] theorem Core.ctr_count (c : Core) (off n : Nat) : (c.count off n).ctr = c.ctr := rfl

theorem SameWork.tapQ {c d : Core} (h : SameWork c d) (e : Nat) : d.tapQ e = c.tapQ e := by
  unfold Core.tapQ; rw [h.tapQ0, h.tapQ1]

theorem SameWork.half {c d : Core} (h : SameWork c d) (e : Nat) : d.half e = c.half e := by
  unfold Core.half; rw [h.half0, h.half1]

theorem engine_lt (i : Insn) : i.engine < 2 := by
  have := i.dst.isLt
  unfold Insn.engine; omega

/-! ## What a TAP reads -/

theorem State.groupAt_of_imem {s t : State} (h : t.imem = s.imem) (core k : Nat) : t.groupAt core k = s.groupAt core k := by
  have hi : ∀ j, t.insnAt core j = s.insnAt core j := fun j => by unfold State.insnAt; rw [h]
  have hf : ∀ n j, t.groupFrom core n j = s.groupFrom core n j := by
    intro n
    induction n with
    | zero => exact fun _ => rfl
    | succ n ih => intro j; simp only [State.groupFrom, hi, ih]
  exact hf 5 k

theorem State.rdRec_of_stores {s t : State} (h : t.stores = s.stores) (core : Nat) (d : W128) :
    t.rdRec core d = s.rdRec core d := by
  unfold State.rdRec State.rdLocal; rw [h]

theorem State.tapRows_of_stores {s t : State} (h : t.stores = s.stores) (core : Nat) : t.tapRows core = s.tapRows core := by
  unfold State.tapRows State.operand State.rdLocal; rw [h]

/-- The tiles of a TAP depend on the stores and on what its core holds in descriptors and in the pending half. -/
theorem State.tapOut_of_stores {s t : State} {c d : Core} (h : t.stores = s.stores) (hr : d.rdT = c.rdT)
    (core : Nat) (i m : Insn) (hh : d.half i.engine = c.half i.engine) : t.tapOut core d i m = s.tapOut core c i m := by
  unfold State.tapOut State.rdLocal; rw [State.tapRows_of_stores h, h, hr, hh]

/-- Whether a TAP whose destination is `d` takes its tiles: its tensor has taps and its token block is sampled (07 R151, R168). -/
def State.tapHit (s : State) (core : Nat) (i : Insn) (d : W128) : Bool :=
  let x := s.getCtx ((s.ctxOfCore core).getD 16)
  s.tapsOn x (s.rdRec core d).tensorId.toNat
    && (tapSample x.seed (s.rdRec core d).tensorId x.stepNo x.tokenBlocks i.tapMb i.tapJ i.tapShift).1

/-- The writes that a TAP queues: each tile at its address, the last one with the CTR increment (07 R153, R154). -/
def tapWrites (addrs : List Int) (outs : List (List Byte)) (i : Insn) : List TapPending :=
  ((List.range outs.length).zip (addrs.zip outs)).map fun p => ⟨p.2.1.toNat, p.2.2, i.ctrN, p.1 + 1 == outs.length⟩

section
variable {s t : State} (hs : t.stores = s.stores) (hc : t.ctxs = s.ctxs) (hd : t.dict = s.dict) (core : Nat) (i : Insn) (d : W128)
include hs hc hd

theorem State.tapHit_congr : t.tapHit core i d = s.tapHit core i d := by
  unfold State.tapHit State.tapsOn State.od State.ctxOfCore State.ctxOfCluster State.getCtx
  rw [State.rdRec_of_stores hs, hc, hd]

theorem State.tapTiles_congr : t.tapTiles core i d = s.tapTiles core i d := by
  unfold State.tapTiles State.tapsOn State.od State.ctxOfCore State.ctxOfCluster State.getCtx
  rw [State.rdRec_of_stores hs, hc, hd]

end

/-- Undoing a group's writes leaves the settings and contexts. -/
theorem State.groupBefore_fields (s : State) (core : Nat) :
    (s.groupBefore core).ctxs = s.ctxs ∧ (s.groupBefore core).dict = s.dict := by
  unfold State.groupBefore; dsimp only; split <;> exact ⟨rfl, rfl⟩

/-- A group's earlier writes reach what a TAP takes by the record that it reads alone (03 R60). -/
theorem State.tapHit_groupBefore (s : State) (core : Nat) (i : Insn) (d : W128) : (s.groupBefore core).tapHit core i d
    = let x := s.getCtx ((s.ctxOfCore core).getD 16)
      let r := (s.groupBefore core).rdRec core d
      s.tapsOn x r.tensorId.toNat
        && (tapSample x.seed r.tensorId x.stepNo x.tokenBlocks i.tapMb i.tapJ i.tapShift).1 := by
  obtain ⟨hc, hd⟩ := s.groupBefore_fields core
  unfold State.tapHit State.tapsOn State.od State.ctxOfCore State.ctxOfCluster State.getCtx
  rw [hc, hd]

/-- The state that an instruction reads has the settings and contexts of the one that its group found. -/
theorem State.before_settings (s : State) (core : Nat) :
    (s.before core).ctxs = (s.groupBefore core).ctxs ∧ (s.before core).dict = (s.groupBefore core).dict := by
  obtain ⟨hc, hd⟩ := s.groupBefore_fields core
  obtain ⟨_, _, _, e⟩ := s.before_fields core
  rw [hc, hd, e]; exact ⟨rfl, rfl⟩

theorem State.groupMma_before (s : State) (core e : Nat) : (s.before core).groupMma core e = s.groupMma core e := by
  obtain ⟨_, _, _, eb⟩ := s.before_fields core
  obtain ⟨_, _, _, _, hpc⟩ := s.opened_core core
  have hg := State.groupAt_of_imem (s := s) (t := s.before core) (by rw [eb]) core (s.getCore core).pc
  unfold State.groupMma
  rw [s.before_core, hpc, hg]

/-- The core that a TAP's effect meets, against the view of its group. -/
theorem State.opened_view (s : State) (core : Nat) :
    ((s.opened core).getCore core).rdT = (s.groupView core).rdT
      ∧ ∀ e, ((s.opened core).getCore core).half e = (s.groupView core).half e := by
  obtain ⟨hw, _, _, ht, _⟩ := s.opened_core core
  refine ⟨by unfold Core.rdT; rw [ht], fun e => (hw.half e).trans ?_⟩
  unfold State.groupView
  dsimp only
  split <;> rfl

/-! ## What a TAP makes of its core -/

theorem tapBody_stores (core : Nat) (i : Insn) (s : State) : (tapBody core i s).stores = s.stores := by
  have addOd (p : Prop) [Decidable p] (v : State) (k : Nat) : (if p then v.addOd 0x2B00 k 1 else v).stores = v.stores :=
    (CoreStep.addOd_if core p v 0x2B00 k 1).memories.1
  have modCore (v : State) (f : Core → Core) : (v.modCore core f).stores = v.stores := rfl
  unfold tapBody
  dsimp only
  split
  · rw [State.stores_ctrField, modCore]
  · split
    · rw [State.stores_ctrField, modCore]
    · split
      · rw [State.stores_ctrField, modCore, addOd, modCore]
      · rw [modCore, addOd, modCore]

section
variable {core : Nat} {i m : Insn} {s : State} (hm : s.groupMma core i.engine = some m)
include hm

/-- A TAP that takes no tiles is counted and completes at once (07 R155). -/
theorem tapBody_missed (hh : s.tapHit core i ((s.getCore core).rdT i.src1) = false) :
    CoreStep core (fun c => (c.count 0x470 1).asked i) s (tapBody core i s) := by
  have e : tapBody core i s = (s.modCore core fun c => c.count 0x470 1).ctrField core i := by
    unfold State.tapHit at hh
    dsimp only at hh
    unfold tapBody
    dsimp only
    rw [hm, hh]
    rfl
  rw [e]
  exact (CoreStep.modCore core _ s).trans (.ctrField core i _)

/-- A first half is held with its place, and completes at once (07 R155). -/
theorem tapBody_held (hh : s.tapHit core i ((s.getCore core).rdT i.src1) = true) (hp : i.tapSide = false ∧ i.tapPart = false) :
    CoreStep core (fun c => ((c.count 0x470 1).setHalf i.engine
      (some ⟨i.tapMb, i.tapJ, i.tapRow, s.tapRows core (c.rdT m.src2)⟩)).asked i) s (tapBody core i s) := by
  have h1 := (CoreStep.modCore core (fun c => c.count 0x470 1) s).trans
    (.addOd_if core ((s.getCore core).half i.engine).isSome _ 0x2B00 2 1)
  have h2 := h1.trans (.modCore core (fun c => c.setHalf i.engine
    (some ⟨i.tapMb, i.tapJ, i.tapRow, s.tapRows core (c.rdT m.src2)⟩)) _)
  have h3 := h2.trans (.ctrField core i _)
  unfold State.tapHit at hh
  dsimp only at hh
  unfold tapBody
  dsimp only
  rw [hm, hh]
  dsimp only
  rw [if_neg (not_not_intro rfl), if_pos (by simp [hp])]
  exact h3

/-- A side statistic or a second half queues its tiles behind the writes that wait; a second half uses up the first (07 R155, R156). -/
theorem tapBody_queued (hh : s.tapHit core i ((s.getCore core).rdT i.src1) = true) (hp : i.tapSide = true ∨ i.tapPart = true) :
    CoreStep core (fun c =>
      let c1 := (c.count 0x470 1).setTapQ i.engine ((c.count 0x470 1).tapQ i.engine
        ++ tapWrites (s.tapTiles core i ((s.getCore core).rdT i.src1)) (s.tapOut core (s.getCore core) i m) i)
      if i.tapPart then c1.setHalf i.engine none else c1) s (tapBody core i s) := by
  have h1 := (CoreStep.modCore core (fun c => c.count 0x470 1) s).trans
    (.addOd_if core (i.tapPart ∧ ¬ (s.getCore core).halfMatches i) _ 0x2B00 3 1)
  have h2 := h1.trans (.modCore core (fun c =>
    let c1 := c.setTapQ i.engine (c.tapQ i.engine
      ++ tapWrites (s.tapTiles core i ((s.getCore core).rdT i.src1)) (s.tapOut core (s.getCore core) i m) i)
    if i.tapPart then c1.setHalf i.engine none else c1) _)
  unfold State.tapHit at hh
  dsimp only at hh
  unfold tapBody
  dsimp only
  rw [hm, hh]
  dsimp only
  rw [if_neg (not_not_intro rfl), if_neg (by rcases hp with hp | hp <;> simp [hp])]
  exact h2

end

/-- What a TAP makes of its core `c`: `hit` says whether it takes its tiles, `ws` are the writes that it would queue, `half` is what a
first half would hold. -/
structure TapEffect (i : Insn) (hit : Bool) (ws : List TapPending) (half : TapHalf) (c d : Core) : Prop where
  data : SameData c d
  ctr : d.ctr = c.ctr
  otherEngine : ∀ e, e < 2 → e ≠ i.engine → d.tapQ e = c.tapQ e ∧ d.half e = c.half e
  queue : d.tapQ i.engine = c.tapQ i.engine ++ if hit = true ∧ (i.tapSide = true ∨ i.tapPart = true) then ws else []
  held : d.half i.engine = if hit = false then c.half i.engine
    else if i.tapSide = false ∧ i.tapPart = false then some half
    else if i.tapPart = true then none else c.half i.engine
  asked : hit = false ∨ (i.tapSide = false ∧ i.tapPart = false) → d.ctrPend = (c.asked i).ctrPend

theorem tapEffect_missed (i : Insn) (ws : List TapPending) (half : TapHalf) (c : Core) :
    TapEffect i false ws half c ((c.count 0x470 1).asked i) where
  data := (c.count_data _ _).trans (Core.asked_data i _)
  ctr := by simp
  otherEngine := by simp
  queue := by simp
  held := by simp
  asked _ := by simp only [Core.ctrPend_asked]; rfl

theorem tapEffect_held {i : Insn} (hp : i.tapSide = false ∧ i.tapPart = false) (ws : List TapPending) (half : TapHalf) (c : Core) :
    TapEffect i true ws half c (((c.count 0x470 1).setHalf i.engine (some half)).asked i) where
  data := ((c.count_data _ _).trans (Core.setHalf_data _ _ _)).trans (Core.asked_data i _)
  ctr := by simp
  otherEngine e he hne := by simp [Core.half_setHalf_other _ _ (engine_lt i) he hne]
  queue := by simp [hp]
  held := by simp [hp]
  asked _ := by simp only [Core.ctrPend_asked, Core.setHalf]; split <;> rfl

theorem tapEffect_queued {i : Insn} (hp : i.tapSide = true ∨ i.tapPart = true) (ws : List TapPending) (half : TapHalf) (c : Core) :
    TapEffect i true ws half c
      (let c1 := (c.count 0x470 1).setTapQ i.engine ((c.count 0x470 1).tapQ i.engine ++ ws)
       if i.tapPart then c1.setHalf i.engine none else c1) := by
  have hno : ¬ (i.tapSide = false ∧ i.tapPart = false) := by rcases hp with hp | hp <;> simp [hp]
  have hq : SameData c ((c.count 0x470 1).setTapQ i.engine ((c.count 0x470 1).tapQ i.engine ++ ws)) :=
    (c.count_data 0x470 1).trans (Core.setTapQ_data _ _ _)
  dsimp only
  by_cases hpart : i.tapPart = true
  · rw [if_pos hpart]
    exact {
      data := hq.trans (Core.setHalf_data _ _ _)
      ctr := by simp
      otherEngine := fun e he hne => by
        simp [Core.half_setHalf_other _ _ (engine_lt i) he hne, Core.tapQ_setTapQ_other _ _ (engine_lt i) he hne]
      queue := by simp [hp]
      held := by rw [if_neg (by simp), if_neg hno]; simp [hpart]
      asked := fun h => by simp [hno] at h }
  · rw [if_neg hpart]
    exact {
      data := hq
      ctr := by simp
      otherEngine := fun e he hne => by simp [Core.tapQ_setTapQ_other _ _ (engine_lt i) he hne]
      queue := by simp [hp]
      held := by rw [if_neg (by simp), if_neg hno]; simp [hpart]
      asked := fun h => by simp [hno] at h }

/-- A TAP beside a matrix instruction of its engine is a step of its core. -/
theorem tapBody_effect {core : Nat} {i m : Insn} {s : State} (hm : s.groupMma core i.engine = some m) :
    let c := s.getCore core
    ∃ f, CoreStep core f s (tapBody core i s)
      ∧ TapEffect i (s.tapHit core i (c.rdT i.src1)) (tapWrites (s.tapTiles core i (c.rdT i.src1)) (s.tapOut core c i m) i)
          ⟨i.tapMb, i.tapJ, i.tapRow, s.tapRows core (c.rdT m.src2)⟩ c (f c) := by
  intro c
  cases hh : s.tapHit core i (c.rdT i.src1) with
  | false => exact ⟨_, tapBody_missed hm hh, tapEffect_missed i _ _ c⟩
  | true =>
    by_cases hp : i.tapSide = false ∧ i.tapPart = false
    · exact ⟨_, tapBody_held hm hh hp, tapEffect_held hp _ _ c⟩
    · have hp' : i.tapSide = true ∨ i.tapPart = true := by
        cases hs : i.tapSide with
        | true => exact .inl rfl
        | false => exact .inr (by simpa [hs] using hp)
      exact ⟨_, tapBody_queued hm hh hp', tapEffect_queued hp' _ _ c⟩

/-! ## TAP and TAP_WRITE -/

/-- A TAP that issues reads what stood before its group, and has its effect on its core alone. -/
theorem execTap_effect {core : Fin 512} {i m : Insn} {s : State} (hi : i.isOp 1 9 = true) (h : s.Issues core i)
    (hm : s.groupMma core i.engine = some m) :
    let v := s.groupView core
    let b := s.groupBefore core
    ∃ (t : State) (f : Core → Core), exec (.tap core i) s = .next t ∧ SameBytes s t ∧ (∀ n : Nat, n ≠ core.val → t.getCore n = s.getCore n)
      ∧ TapEffect i (b.tapHit core i (v.rdT i.src1)) (tapWrites (b.tapTiles core i (v.rdT i.src1)) (b.tapOut core v i m) i)
          ⟨i.tapMb, i.tapJ, i.tapRow, b.tapRows core (v.rdT m.src2)⟩ ((s.opened core).getCore core) (f ((s.opened core).getCore core))
      ∧ SameWork (f ((s.opened core).getCore core)) (t.getCore core) := by
  intro v b
  have hst := s.before_stores core
  obtain ⟨hcx, hdi⟩ := s.before_settings core
  obtain ⟨hsn, hhf⟩ := s.opened_view core
  obtain ⟨f, hf, he⟩ := tapBody_effect ((s.groupMma_before core i.engine).trans hm)
  rw [s.before_core, State.tapHit_congr hst hcx hdi, State.tapTiles_congr hst hcx hdi,
    State.tapOut_of_stores hst hsn core i m (hhf _), State.tapRows_of_stores hst, hsn] at he
  obtain ⟨t, e, hby, ho, hw⟩ := issueOp_coreStep hi h (fun c => writes_nil hi (by omega) core c) (tapBody_stores core i) hf
  exact ⟨t, f, e, hby, ho, he, hw⟩

/-- What a TAP_WRITE of the tile `w` makes of its core: `rest` still waits (07 R153). -/
def Core.tapDone (e : Nat) (w : TapPending) (rest : List TapPending) (c : Core) : Core :=
  if w.last = true ∧ w.ctr < 48 then ((c.setTapQ e rest).raise w.ctr 1).latchWait else c.setTapQ e rest

section
variable (e : Nat) (w : TapPending) (rest : List TapPending) (c : Core)

theorem Core.tapDone_data : SameData c (c.tapDone e w rest) := by
  have hq := c.setTapQ_data e rest
  unfold Core.tapDone
  split
  · exact (hq.trans (Core.raise_data _ _ _)).trans (Core.latchWait_data _)
  · exact hq

theorem Core.tapQ_tapDone : (c.tapDone e w rest).tapQ e = rest := by
  unfold Core.tapDone
  split <;> simp

theorem Core.ctrVal_tapDone (k : Nat) : (c.tapDone e w rest).ctrVal k
    = if w.last = true ∧ k = w.ctr ∧ k < 48 then min (2 ^ 32 - 1) (c.ctrVal k + 1) else c.ctrVal k := by
  have hq : (c.setTapQ e rest).ctrVal k = c.ctrVal k := by unfold Core.ctrVal; rw [Core.ctr_setTapQ]
  unfold Core.tapDone
  split
  · rename_i h
    rw [Core.ctrVal_latchWait, Core.ctrVal_raise, hq]
    by_cases hk : k = w.ctr
    · rw [if_pos hk, if_pos ⟨h.1, hk, hk ▸ h.2⟩]
    · rw [if_neg hk, if_neg fun hn => hk hn.2.1]
  · rename_i h
    rw [hq, if_neg]
    rintro ⟨hl, rfl, hk⟩
    exact h ⟨hl, hk⟩

end

/-- TAP_WRITE stores the oldest tile of its engine and takes it off the path; the last of a TAP increments its CTR (07 R153). -/
theorem execTapWrite_step {core : Fin 512} {e : Fin 2} {s : State} {w : TapPending} {rest : List TapPending}
    (h : (s.getCore core).tapQ e = w :: rest) :
    ∃ t, exec (.tapWrite core e) s = .next t
      ∧ CoreStep core (Core.tapDone e w rest) (s.wrLocal core w.addr w.bytes) t := by
  have hx : exec (.tapWrite core e) s = execTapWrite core e s := rfl
  have h1 := CoreStep.modCore core (fun c => c.setTapQ e rest) (s.wrLocal core w.addr w.bytes)
  have hc : (s.modCore core fun c => c.setTapQ e rest).wrLocal core w.addr w.bytes
    = (s.wrLocal core w.addr w.bytes).modCore core fun c => c.setTapQ e rest := rfl
  rw [hx, execTapWrite, h]
  dsimp only
  rw [hc]
  refine ⟨_, rfl, ?_⟩
  unfold Core.tapDone
  cases w.last with
  | false => simpa using h1
  | true => simpa using h1.trans (.ctrDone core _ w.ctr)

/-- Settles O22: a TAP is a step of its core on what stood before its group, and TAP_WRITE one of its core after the store. -/
theorem tapCapturesAndWrites : Obligations.TapCapturesAndWrites := by
  unfold Obligations.TapCapturesAndWrites
  intro core s still
  have keep (t : State) (ho : ∀ n : Nat, n ≠ core.val → t.getCore n = s.getCore n)
      (hd : SameData (s.getCore core) (t.getCore core)) : still t := ⟨sameRegs_of_data ho hd, hd.acc, ho⟩
  refine ⟨fun i m hi h hm => ?_, fun e w rest hq => ?_⟩
  · obtain ⟨t, f, hx, hby, ho, he, hw⟩ := execTap_effect hi h hm
    rw [State.tapHit_groupBefore] at he
    obtain ⟨h0, _, _, _, hpc⟩ := s.opened_core core
    refine ⟨t, hx, keep t ho ((h0.data.trans he.data).trans hw.data), hby, ?_, fun e h2 hne => ?_, ?_, ?_, fun hn => ?_⟩
    · rw [hw.ctr, he.ctr, h0.ctr]
    · obtain ⟨hq, hh⟩ := he.otherEngine e h2 hne
      exact ⟨by rw [hw.tapQ, hq, h0.tapQ], by rw [hw.half, hh, h0.half]⟩
    · rw [hw.tapQ, he.queue, h0.tapQ]; rfl
    · rw [hw.half, he.held, h0.half]
    · exact ⟨_, by rw [hw.ctrPend, he.asked hn, Core.ctrPend_asked, h0.ctrPend, hpc]; rfl⟩
  · obtain ⟨t, hx, ht⟩ := execTapWrite_step hq
    obtain ⟨hst, him, hlr, hsd⟩ := ht.memories
    have hc : t.getCore core = (s.getCore core).tapDone e w rest := ht.core_
    refine ⟨t, hx, keep t ht.other (hc ▸ Core.tapDone_data _ _ _ _), ?_, fun a => ⟨fun ha => ?_, ?_⟩, ?_, fun k => ?_⟩
    · rw [State.rdLocal, hst]; exact rdBytes_wrBytes_same _ _ _
    · rw [hst]; exact rdByte_wrBytes_outside _ _ _ ha
    · rw [him, hlr, hsd]; exact ⟨rfl, rfl, rfl⟩
    · rw [hc, Core.tapQ_tapDone]
    · rw [hc, Core.ctrVal_tapDone]

end Sys2Proof.Machine
end

section
/-!
PROOFS. The solver engine's jobs (08 R172 to R189): what the events of the memories and an access to the long range leave as it was, what
an engine's write and the end of a job write, and the start, end and abandoning of a batched job.
-/

namespace Sys2Proof.Machine

/-! ## What reaches neither the instruction memories, the sidecars nor a solver engine's jobs -/

/-- A cluster's queued jobs, its running job and the end of the job before (08 R172, R173). -/
def Cluster.jobs (c : Cluster) : List (BitVec 1024) × Option SolverRun × Nat := (c.solverQ, c.solverRun, c.solverEnd)

theorem Cluster.jobs_eq {c : Cluster} {q : List (BitVec 1024)} {r : Option SolverRun} {n : Nat} (h : c.jobs = (q, r, n)) :
    c.solverQ = q ∧ c.solverRun = r ∧ c.solverEnd = n := by
  simpa [Cluster.jobs] using h

/-- `t` has the instruction memories, the sidecars and the solver jobs of `s`. -/
structure JobsKept (s t : State) : Prop where
  imem : t.imem = s.imem
  side : t.side = s.side
  jobs : ∀ n, (t.getCluster n).jobs = (s.getCluster n).jobs

/-- As `JobsKept`, and `t` has the cores and the long range of `s` too. -/
structure Quiet (s t : State) : Prop extends JobsKept s t where
  cores : t.cores = s.cores
  lr : t.lr = s.lr

theorem JobsKept.trans {s t u : State} (h : JobsKept s t) (k : JobsKept t u) : JobsKept s u :=
  ⟨k.imem.trans h.imem, k.side.trans h.side, fun n => (k.jobs n).trans (h.jobs n)⟩

theorem Quiet.trans {s t u : State} (h : Quiet s t) (k : Quiet t u) : Quiet s u :=
  ⟨h.toJobsKept.trans k.toJobsKept, k.cores.trans h.cores, k.lr.trans h.lr⟩

/-- The last of two steps first: its form gives the state between them. -/
theorem Quiet.after {s t u : State} (k : Quiet t u) (h : Quiet s t) : Quiet s u := h.trans k

/-- A step that writes none of the five fields. -/
theorem Quiet.of_fields {s t : State} (hi : t.imem = s.imem := by rfl) (hs : t.side = s.side := by rfl)
    (hk : t.clusters = s.clusters := by rfl) (hc : t.cores = s.cores := by rfl) (hl : t.lr = s.lr := by rfl) : Quiet s t :=
  ⟨⟨hi, hs, fun n => by rw [State.getCluster_of_clusters hk]⟩, hc, hl⟩

theorem Quiet.refl (s : State) : Quiet s s := .of_fields

theorem Quiet.ite {s t u : State} {p : Prop} [Decidable p] (ht : Quiet s t) (hu : Quiet s u) : Quiet s (if p then t else u) := by
  split <;> assumption

theorem Quiet.foldl {α : Type} {f : State → α → State} (hf : ∀ s a, Quiet s (f s a)) (l : List α) (s : State) :
    Quiet s (l.foldl f s) := by
  induction l generalizing s with
  | nil => exact .refl s
  | cons a r ih => exact (hf s a).trans (ih (f s a))

/-- A cluster changed in what is not its jobs. -/
theorem Quiet.setCluster {s : State} {n : Nat} {c : Cluster} (hq : c.solverQ = (s.getCluster n).solverQ := by rfl)
    (hr : c.solverRun = (s.getCluster n).solverRun := by rfl) (he : c.solverEnd = (s.getCluster n).solverEnd := by rfl) :
    Quiet s (s.setCluster n c) := by
  refine ⟨⟨rfl, rfl, fun m => ?_⟩, rfl, rfl⟩
  rw [State.getCluster_setCluster]
  split
  · rename_i hm; rw [hm, Cluster.jobs, Cluster.jobs, hq, hr, he]
  · rfl

section
variable (s : State)

theorem Quiet.addOd (i k n : Nat) : Quiet s (s.addOd i k n) := by
  obtain ⟨d, e⟩ := s.addOd_only i k n
  rw [e]; exact .of_fields

theorem Quiet.setOd (i k v : Nat) : Quiet s (s.setOd i k v) := .of_fields

theorem Quiet.errOn (b : Nat) : Quiet s (s.errOn b) := .of_fields

theorem Quiet.wrLocal (n a : Nat) (d : List Byte) : Quiet s (s.wrLocal n a d) := .of_fields

theorem Quiet.emcy (code detail : Nat) : Quiet s (s.emcy code detail) := by
  obtain ⟨d, h, e⟩ := s.emcy_only code detail
  rw [e]; exact .of_fields

theorem Quiet.alertOn (c : Nat) : Quiet s (s.alertOn c) := by
  obtain ⟨p, e⟩ := s.alertOn_only c
  rw [e]; exact .of_fields

theorem Quiet.msixEvent (c k : Nat) : Quiet s (s.msixEvent c k) := by
  obtain ⟨h, e⟩ := s.msixEvent_only c k
  rw [e]; exact .of_fields

theorem Quiet.markReplay (c : Option Nat) : Quiet s (s.markReplay c) := by
  obtain ⟨x, e⟩ := s.markReplay_only c
  rw [e]; exact .of_fields

/-! ### Trace records -/

theorem Quiet.traceLose (n : Nat) : Quiet s (s.traceLose n) := by
  unfold State.traceLose
  exact .after (.addOd _ _ _ _) .setCluster

theorem Quiet.lossRecord (n : Nat) : Quiet s (s.lossRecord n) := by
  unfold State.lossRecord State.modCluster
  dsimp only
  split
  · exact .setCluster
  · exact .setCluster

theorem Quiet.tracePush (n : Nat) (r : W128) : Quiet s (s.tracePush n r) := by
  unfold State.tracePush
  dsimp only
  refine (Quiet.lossRecord s n).trans ?_
  refine .ite .setCluster (.ite (.ite .setCluster ?_) (.ite (.traceLose _ n) (.refl _)))
  exact .after (.traceLose _ n) .setCluster

theorem Quiet.breakEvent (kind : Nat) (ctxs : List Nat) : Quiet s (s.breakEvent kind ctxs) := by
  unfold State.breakEvent State.breakIn State.trace
  exact .after (.setOd _ _ _ _) (.foldl (fun s n => .tracePush s n _) _ s)

theorem Quiet.fireTrigger (ctx src : Nat) : Quiet s (s.fireTrigger ctx src) := by
  unfold State.fireTrigger State.fireIn
  refine .foldl (fun s n => ?_) _ s
  dsimp only
  refine .ite (.ite ?_ (.ite (.addOd s _ _ _) (.refl s))) (.refl s)
  exact .after (.msixEvent _ _ _) (.after (.addOd _ _ _ _) .setCluster)

theorem Quiet.repairRecord (cluster kind cls unit : Nat) : Quiet s (s.repairRecord cluster kind cls unit) := by
  unfold State.repairRecord State.trace
  dsimp only
  split
  · exact .after (.fireTrigger _ _ _) (.tracePush s _ _)
  · exact .tracePush s _ _

/-! ### Repair events (16 R362 to R372, 10 R216 to R218) -/

theorem Quiet.beyondReserves (pool unit : Nat) : Quiet s (s.beyondReserves pool unit) := by
  unfold State.beyondReserves
  exact .after (.foldl (fun s k => .repairRecord s k _ 0 unit) _ _) (.after (.alertOn _ _) (.after (.emcy _ _ _)
    (.after (.errOn _ _) (.after (.setOd _ _ _ _) .of_fields))))

theorem Quiet.maintenance (p : Nat) : Quiet s (s.maintenance p) := by
  unfold State.maintenance
  exact .ite (.after (.alertOn _ _) (.after (.emcy _ _ _) (.after (.errOn _ _) (.setOd _ _ _ _)))) (.refl s)

theorem Quiet.retireCluster (k : Nat) (fault : Option Nat) : Quiet s (s.retireCluster k fault) := by
  unfold State.retireCluster
  exact (Quiet.markReplay s _).trans (.ite (.refl _) (.ite (.beyondReserves _ _ _) .of_fields))

theorem Quiet.retireCore (n : Nat) : Quiet s (s.retireCore n) := by
  unfold State.retireCore
  exact (Quiet.markReplay s _).trans (.ite (.refl _) (.ite (.retireCluster _ _ _) .of_fields))

theorem Quiet.storeUncorrectable (core a : Nat) : Quiet s (s.storeUncorrectable core a) := by
  unfold State.storeUncorrectable
  exact .ite (.after (.retireCore _ _) (.after (.wrLocal _ _ _ _) (.setOd _ _ _ _)))
    (.after (.retireCluster _ _ _) (.after (.wrLocal _ _ _ _) (.setOd _ _ _ _)))

/-! ### Migrations, ladders and accesses (10 R216 to R243) -/

theorem Quiet.makeRoom (c : Nat) : Quiet s (s.makeRoom c) := by
  unfold State.makeRoom
  refine .ite (.refl s) ?_
  split
  · exact .of_fields
  · exact .refl s

theorem Quiet.fitBudget (c n : Nat) : Quiet s (s.fitBudget c n) := by
  induction n generalizing s with
  | zero => exact .refl s
  | succ n ih =>
    unfold State.fitBudget
    refine .ite (.refl s) ?_
    split
    · exact .after (ih _) .of_fields
    · exact .refl s

theorem Quiet.migrateIn (p die : Nat) : Quiet s (s.migrateIn p die) := by
  unfold State.migrateIn
  refine .ite (.refl s) ?_
  dsimp only
  split
  · exact .after (.makeRoom _ _) .of_fields
  · exact .of_fields

theorem Quiet.touch (write : Bool) (p : Nat) : Quiet s (s.touch write p) := by
  unfold State.touch
  exact .ite .of_fields (.after (.migrateIn _ _ _) (.after (.breakEvent _ _ _) (.after (.addOd _ _ _ _) .of_fields)))

theorem Quiet.touchRange (write : Bool) (off n : Nat) : Quiet s (s.touchRange write off n) :=
  .foldl (fun s p => .touch s write p) _ s

theorem Quiet.coverPage (op : Option (Nat × Nat)) (off n p : Nat) : Quiet s (s.coverPage op off n p) := by
  unfold State.coverPage
  refine .ite (.ite .of_fields ?_) (.refl s)
  split
  · exact .of_fields
  · exact .refl s

theorem Quiet.ladderStart (p : Nat) : Quiet s (s.ladderStart p) := by
  unfold State.ladderStart
  exact .ite (.refl s) (.after (.breakEvent _ _ _) (.after (.addOd _ _ _ _) .of_fields))

theorem Quiet.retireChannel (stack ch : Nat) : Quiet s (s.retireChannel stack ch) := by
  unfold State.retireChannel
  refine .ite (.after (.beyondReserves _ _ _) .of_fields) ?_
  have fit : Quiet s ((List.range 16).foldl (fun s c => s.fitBudget c s.long.page.length) s) := .foldl (fun s c => .fitBudget s c _) _ s
  dsimp only
  generalize (List.range 16).foldl (fun s c => s.fitBudget c s.long.page.length) s = u at fit ⊢
  exact fit.trans .of_fields

theorem Quiet.channelFail (stack ch : Nat) : Quiet s (s.channelFail stack ch) := by
  unfold State.channelFail
  exact .ite (.refl s) (.ite .of_fields (.retireChannel s stack ch))

theorem Quiet.channelError (stack ch : Nat) : Quiet s (s.channelError stack ch) := by
  unfold State.channelError
  exact .ite (.after (.channelFail _ stack ch) .of_fields) .of_fields

theorem Quiet.rowRepair (stack : Nat) : Quiet s (s.rowRepair stack) := .after (.maintenance _ _) .of_fields

theorem Quiet.memEvent (core : Nat) (hw : HwEvent) : Quiet s (s.memEvent core hw) := by
  cases hw with
  | memCorrected st ch => exact .channelError s _ _
  | memUncorrectable p => exact .ladderStart s _
  | memRow st => exact .rowRepair s _
  | memChannel st ch => exact .channelFail s _ _
  | storeUncorrectable a => exact .ite (.storeUncorrectable s core _) (.refl s)
  | storeCorrected => exact .of_fields
  | _ => exact .refl s

/-- The reads of a unit change neither what it computes with nor the long range (10 R216, R236). -/
theorem Quiet.unitReads (core : Nat) (hw : HwEvent) (l : List (Nat × Nat)) : Quiet s (s.unitReads core hw l).1 := by
  unfold State.unitReads
  split
  · exact .refl s
  · refine (Quiet.memEvent s core hw).trans ?_
    dsimp only
    split
    · exact .refl _
    · exact .foldl (fun s p => .ite (.touch s false p) (.refl s)) _ _

end

/-! ## Writes of an engine and the end of a job -/

theorem JobsKept.refl (s : State) : JobsKept s s := (Quiet.refl s).toJobsKept

theorem State.sendData_only (s : State) (dest kind tc q : Nat) (a : FrameArgs) (d : List Byte) (hops : List Nat) (die : Nat) :
    ∃ x, s.sendData dest kind tc q a d hops die = { s with txq := x } := by
  have hop (f : Frame) (l : List Nat) (s : State) : ∃ x, l.foldl (fun s h => s.sendVia f q h (some die)) s = { s with txq := x } := by
    induction l generalizing s with
    | nil => exact ⟨_, rfl⟩
    | cons h r ih => exact ih (s.sendVia f q h (some die))
  unfold State.sendData
  induction framePieces d generalizing s with
  | nil => exact ⟨_, rfl⟩
  | cons p r ih =>
    rw [List.foldl_cons]
    obtain ⟨x, e⟩ := hop (s.mkFrame dest kind tc { a with total := d.length, foffset := p.1 } p.2) hops s
    rw [e]
    exact ih { s with txq := x }

/-- A write of the long range changes its bytes, and beyond them nothing that a solver's job holds (10 R233, R245). -/
theorem State.longWrite_bytes (s : State) (off : Nat) (d : List Byte) (op : Option (Nat × Nat)) :
    JobsKept s (s.longWrite off d op) ∧ (s.longWrite off d op).lr = wrBytes s.lr off d := by
  have h : Quiet s ((pagesOf off d.length).foldl (fun s p => s.coverPage op off d.length p) (s.touchRange true off d.length)) :=
    (Quiet.touchRange s true off d.length).trans (.foldl (fun s p => .coverPage s op off d.length p) _ _)
  unfold State.longWrite
  dsimp only
  generalize (pagesOf off d.length).foldl (fun s p => s.coverPage op off d.length p) (s.touchRange true off d.length) = u at h ⊢
  exact ⟨⟨h.imem, h.side, h.jobs⟩, congrArg (wrBytes · off d) h.lr⟩

section
variable (s : State) (ctx : Nat) (a : W64) (d : List Byte) (die : Nat)

theorem State.engineWrite_keeps : JobsKept s (s.engineWrite ctx a d die) := by
  unfold State.engineWrite State.writeOrHold
  split
  · exact .refl s
  split
  · obtain ⟨x, e⟩ := s.sendData_only (gaModule a) 0 2 65536 { addr := a.toNat % 2 ^ 48 } d [gaModule a] die
    rw [e]; exact (Quiet.of_fields).toJobsKept
  split
  · split
    · exact (Quiet.of_fields).toJobsKept
    · exact (s.longWrite_bytes _ d none).1
  · exact (Quiet.wrLocal s _ _ d).toJobsKept

/-- A write into this module's long range that its checks let through and no ladder holds lands (10 R231, R243). -/
theorem State.engineWrite_here (hm : gaModule a = s.moduleId) (hs : gaSpace a = 0) (hok : s.engineOk ctx a d.length = true)
    (hh : s.heldAt (gaOffset a) d.length = none) : (s.engineWrite ctx a d die).lr = wrBytes s.lr (gaOffset a) d := by
  unfold State.engineWrite State.writeOrHold
  rw [if_neg (not_not_intro hok), if_neg (not_not_intro hm), if_pos hs, hh]
  exact (s.longWrite_bytes _ d none).2

/-- A write of another space leaves the long range. -/
theorem State.engineWrite_elsewhere (hs : gaSpace a ≠ 0) : (s.engineWrite ctx a d die).lr = s.lr := by
  unfold State.engineWrite
  rw [if_neg hs]
  split
  · rfl
  split
  · obtain ⟨x, e⟩ := s.sendData_only (gaModule a) 0 2 65536 { addr := a.toNat % 2 ^ 48 } d [gaModule a] die
    rw [e]
  · rfl

end

/-- A count of the dictionary, made or not. -/
theorem Quiet.addOd_if (p : Prop) [Decidable p] (s : State) (i k n : Nat) : Quiet s (if p then s.addOd i k n else s) :=
  .ite (.addOd s i k n) (.refl s)

/-- Behind the record, the end of a job without a factor copy writes DONE_CTR and the counts of 2B02h (08 R176). -/
theorem State.endJob_record (s : State) (k : Nat) (d : BitVec 1024) (e : JobEnd) :
    JobsKept s (s.endJob k d none e)
      ∧ (s.endJob k d none e).lr = (s.engineWrite (s.engineCtx k) (jRec d) (jobRecord e) (k / 8)).lr := by
  have hw := s.engineWrite_keeps (s.engineCtx k) (jRec d) (jobRecord e) (k / 8)
  unfold State.endJob
  dsimp only
  generalize s.engineWrite (s.engineCtx k) (jRec d) (jobRecord e) (k / 8) = w at hw ⊢
  have hc : JobsKept w (w.ctrDone (k * 8 + jDoneCore d) (jDoneCtr d))
      ∧ (w.ctrDone (k * 8 + jDoneCore d) (jDoneCtr d)).lr = w.lr := by
    obtain ⟨_, _, _, h⟩ := (CoreStep.ctrDone (k * 8 + jDoneCore d) w (jDoneCtr d)).fields
    rw [h]; exact ⟨⟨rfl, rfl, fun _ => rfl⟩, rfl⟩
  generalize w.ctrDone (k * 8 + jDoneCore d) (jDoneCtr d) = v at hc ⊢
  have hq := (Quiet.addOd v 0x2B02 1 1).trans (.addOd_if (e.status = stDeadline) _ 0x2B02 2 1)
  have hq := hq.trans (.addOd_if (e.status = stCold ∨ e.flags.testBit 2) _ 0x2B02 3 1)
  have hq := hq.trans (.ite (.after (.addOd _ 0x2B02 5 e.regs) (.addOd _ 0x2B02 4 1)) (.refl _) (p := e.regs ≠ 0))
  have hq := hq.trans (.addOd_if (e.status = stPoison ∨ e.status = stNonfinite) _ 0x2B02 7 1)
  exact ⟨(hw.trans hc.1).trans hq.toJobsKept, hq.lr.trans hc.2⟩

theorem jobRecord_length (e : JobEnd) : (jobRecord e).length = 32 := leBytes_length 32 _

/-- The record of a job that ends reads as its end (08 Table 08-4). -/
theorem State.endJob_shows (s : State) (k : Nat) (d : BitVec 1024) (e : JobEnd) : recordShows s (s.endJob k d none e) k d e := by
  intro hm hs hok hh
  have hl := jobRecord_length e
  rw [(s.endJob_record k d e).2, s.engineWrite_here _ _ _ _ hm hs (by rw [hl]; exact hok) (by rw [hl]; exact hh)]
  simpa only [hl] using rdBytes_wrBytes_same s.lr (gaOffset (jRec d)) (jobRecord e)

/-! ## Batched jobs that borrow no engine -/

section
variable {d : BitVec 1024}

theorem plain_op_ne (h : plainJob d) {n : Nat} (hn : 5 < n) : jOp d ≠ n := by
  have hb : 1 ≤ jOp d ∧ jOp d ≤ 5 := of_decide_eq_true h.1
  omega

theorem plain_not_invroot (h : plainJob d) : jOp d ≠ opInvroot := plain_op_ne h (by decide)
theorem plain_not_polar (h : plainJob d) : jOp d ≠ opPolar := plain_op_ne h (by decide)

theorem plain_not_root (h : plainJob d) : jRoot d = false := by
  have hs : jOp d ≠ opSqrt := plain_op_ne h (by decide)
  simp [jRoot, plain_not_invroot h, hs]

theorem plain_lent (h : plainJob d) (k : Nat) : lentEngines k d = [] := by
  unfold lentEngines; rw [h.2]; rfl

theorem plain_rootStale (h : plainJob d) (s : State) (ctx : Nat) (miss : Bool) (die : Nat) : s.rootStale ctx d miss die = s :=
  if_pos (plain_not_invroot h)

/-- A batched job has no warm path, and only a native POLAR has an open duration (08 R189). -/
theorem plain_duration (h : plainJob d) (x : Nat) : jobDuration d false false x = jobDuration d false false 0 := by
  simp [jobDuration, plain_not_root h, plain_not_polar h]

theorem plain_work (h : plainJob d) (hb : jBatch d ≠ 0) (hk : jOp d = opTrsm ∨ jOp d = opSyrk → jK d ≠ 0) : noWork d false = false := by
  have hk' : ¬ ((jOp d = opTrsm ∨ jOp d = opSyrk) ∧ jK d = 0) := fun ⟨ho, hz⟩ => hk ho hz
  simpa [noWork, plain_not_root h, plain_not_polar h, hb] using hk'

/-- What runs once a batched job has started at cycle `cc` (08 R173). -/
def SolverRun.batched (s : State) (k : Nat) (d : BitVec 1024) (cc : Nat) : SolverRun :=
  let dur := jobDuration d false false 0
  { desc := d, startCc := cc, warm := false, coldAsked := false, fallback := false, duration := dur, refs := none,
    input := (s.engineRead (s.engineCtx k) (jSrc d) (jSrcBytes d)).data, aux := (s.engineRead (s.engineCtx k) (jAux d) (jAuxBytes d)).data,
    root := [], writeAt := (Config.freeWord2 s.freeCtr 1).toNat % (dur + 1), writes := false, began := false }

/-- A batched job meets a fault at one of its operands, or may not write its result. -/
def State.batchedFaults (s : State) (k : Nat) (d : BitVec 1024) : Bool :=
  (s.engineRead (s.engineCtx k) (jSrc d) (jSrcBytes d)).fault || (s.engineRead (s.engineCtx k) (jAux d) (jAuxBytes d)).fault
    || !s.engineOk (s.engineCtx k) (jDst d) (jDstBytes d)

/-- A batched job that starts ends at once without work, past its deadline or refused an access; any other runs (08 R173, R175, R187). -/
theorem State.startJob_plain (s : State) (k : Nat) (h : plainJob d) (cc : Nat) :
    s.startJob k d cc =
      if noWork d false then s.endJob k d none (simpleEnd s stOk 0)
      else if lin (jDeadline d) * 18 ≤ cc + jobDuration d false false 0 then s.endJob k d none (simpleEnd s stDeadline 0)
      else if s.batchedFaults k d then s.endJob k d none (simpleEnd s stAccess 0)
      else (s.modCluster k fun c => { c with solverRun := some (.batched s k d cc) }).draw := by
  have hi := plain_not_invroot h
  have hb : (jOp d == opInvroot) = false := by simpa using hi
  have hl (t : State) : t.lend k d = t := by unfold State.lend; rw [plain_lent h]; rfl
  unfold State.startJob State.jobHeaders State.jobInput State.jobWritable
  simp only [hb, hi, hl, if_false, Bool.false_and, Bool.false_eq_true, Bool.or_false, plain_rootStale h, plain_duration h]
  rfl

end

/-- A running job leaves its engine at cycle `cc` with the end `e` (08 R176). -/
def State.leave (s : State) (k : Nat) (d : BitVec 1024) (cc : Nat) (e : JobEnd) : State :=
  ((s.modCluster k fun c => { c with solverRun := none, solverEnd := cc }).draw.endJob k d none e).draw

section
variable (s : State) (k : Nat) (d : BitVec 1024) (cc : Nat) (e : JobEnd)

theorem State.leave_jobs : (s.leave k d cc e).imem = s.imem ∧ (s.leave k d cc e).side = s.side
    ∧ ((s.leave k d cc e).getCluster k).jobs = ((s.getCluster k).solverQ, none, cc) := by
  have h := (State.endJob_record (s.modCluster k fun c => { c with solverRun := none, solverEnd := cc }).draw k d e).1
  refine ⟨h.imem, h.side, (h.jobs k).trans ?_⟩
  show ((s.setCluster k _).getCluster k).jobs = _
  rw [State.getCluster_setCluster_same]
  rfl

theorem State.leave_shows : recordShows s (s.leave k d cc e) k d e :=
  State.endJob_shows (s.modCluster k fun c => { c with solverRun := none, solverEnd := cc }).draw k d e

theorem State.leave_lr (hs : gaSpace (jRec d) ≠ 0) : (s.leave k d cc e).lr = s.lr :=
  (State.endJob_record _ k d e).2.trans (State.engineWrite_elsewhere _ _ _ _ _ hs)

end

section
variable {r : SolverRun}

/-- What a batched job computes from what it read. -/
theorem plain_result (h : plainJob r.desc) : r.result = jobCompute r.desc r (jPrec r.desc) := by
  simp [SolverRun.result, plain_not_root h, plain_not_invroot h]

/-- The end of a batched job that has run (08 R176). -/
def SolverRun.doneEnd (r : SolverRun) : JobEnd :=
  let res := jobCompute r.desc r (jPrec r.desc)
  { status := if res.badInput then stNonfinite else if !outFinite r.desc res.outs then stPoison
      else if res.regs.length ≠ 0 then stRegularised else stOk,
    iters := 0, regs := res.regs.length, firstMat := (res.regs.head?.map Prod.fst).getD 0,
    firstRow := (res.regs.head?.map Prod.snd).getD 0, duration := r.duration,
    flags := if res.regs.length ≠ 0 then 2 else 0, at_ := ccPoint (r.startCc + r.duration) }

/-- A job that has run fails for a non-finite input or result (08 R188). -/
def SolverRun.fails (r : SolverRun) : Bool :=
  let res := jobCompute r.desc r (jPrec r.desc)
  res.badInput || !outFinite r.desc res.outs

/-- A non-finite input comes before a poisoned result, and that before regularised pivots (08 R176). -/
theorem SolverRun.doneEnd_status (r : SolverRun) :
    let res := jobCompute r.desc r (jPrec r.desc)
    r.doneEnd.status = if res.badInput then stNonfinite else if r.fails then stPoison
      else if res.regs.length ≠ 0 then stRegularised else stOk := by
  unfold SolverRun.doneEnd SolverRun.fails
  generalize jobCompute r.desc r (jPrec r.desc) = res
  cases h : res.badInput <;> simp [h]

theorem SolverRun.doneEnd_error (r : SolverRun) : isError r.doneEnd.status = r.fails := by
  rw [r.doneEnd_status]
  unfold SolverRun.fails
  generalize jobCompute r.desc r (jPrec r.desc) = res
  cases hb : res.badInput with
  | true => simp [isError, stNonfinite, stRecovered, hb]
  | false =>
    cases hf : outFinite r.desc res.outs with
    | false => simp [isError, stPoison, stRecovered, hb, hf]
    | true => by_cases hn : res.regs.length = 0 <;> simp [isError, stRegularised, stOk, stRecovered, hn, hb, hf]

/-- A batched job that has run writes its result, unless it fails, and leaves its engine (08 R176, R188). -/
theorem State.finishJob_plain (s : State) (k : Nat) (h : plainJob r.desc) (hr : r.refs = none) (hc : r.coldAsked = false)
    (hf : r.fallback = false) : s.finishJob k r false
      = (if r.fails then s else s.engineWrite (s.engineCtx k) (jDst r.desc)
          (jobBytes r.desc (jobCompute r.desc r (jPrec r.desc)).outs) (k / 8)).leave k r.desc (r.startCc + r.duration) r.doneEnd := by
  have hb : (jOp r.desc == opInvroot) = false := by simpa using plain_not_invroot h
  rw [← r.doneEnd_error]
  unfold State.finishJob State.leave SolverRun.doneEnd
  simp only [plain_result h, hb, hr, hc, hf, plain_rootStale h, plain_lent h, plain_not_root h, plain_not_polar h,
    Bool.false_eq_true, if_false, Bool.false_or, Bool.and_false, Nat.zero_add]
  rfl

/-- The flags of an abandoned batched job (08 Table 08-4): bit 0 says so, bit 1 that pivots were regularised. -/
theorem abandon_flags (cold : Prop) [Decidable cold] (n : Nat) :
    ((0 + if cold then 4 else 0) + (if n ≠ 0 then 2 else 0) + 1).testBit 0 = true
      ∧ ((0 + if cold then 4 else 0) + (if n ≠ 0 then 2 else 0) + 1).testBit 1 = decide (n ≠ 0) := by
  by_cases hc : cold <;> by_cases hn : n = 0 <;> simp [hc, hn] <;> decide

/-- A batched job that is abandoned leaves its engine at the running tick; a non-finite input is what its status says first (08 R176,
R187). -/
theorem State.abandonJob_plain (s : State) (k : Nat) (h : plainJob r.desc) (hr : r.refs = none) :
    let res := jobCompute r.desc r (jPrec r.desc)
    ∃ e : JobEnd, s.abandonJob k r = s.leave k r.desc (lin s.now * 18) e
      ∧ e.status = (if res.badInput then stNonfinite else stDeadline) ∧ e.regs ≤ res.regs.length
      ∧ e.flags.testBit 0 = true ∧ e.flags.testBit 1 = decide (e.regs ≠ 0) := by
  intro res
  unfold State.abandonJob State.leave
  simp only [plain_result h, hr, plain_rootStale h, plain_lent h, plain_not_invroot h, plain_not_root h, plain_not_polar h,
    Bool.false_eq_true, if_false]
  refine ⟨_, rfl, rfl, ?_, ?_, ?_⟩
  · exact List.length_take_le' _ _
  · exact (abandon_flags _ _).1
  · exact (abandon_flags _ _).2

end

/-! ## Start, end and deadline -/

theorem State.jobReady_front {s : State} {k : Nat} {d : BitVec 1024} {rest : List (BitVec 1024)}
    (hq : (s.getCluster k).solverQ = d :: rest) (hr : (s.getCluster k).solverRun = none) (hs : s.reached (jStart d) = true)
    (hh : ∀ x, s.ctxOfCluster k = some x → (s.getCtx x).remapHold = none) : s.jobReady k = some d := by
  unfold State.jobReady
  dsimp only
  rw [hq, hr]
  dsimp only
  refine if_pos ⟨hs, ?_⟩
  cases hx : s.ctxOfCluster k with
  | none => rfl
  | some x => simp [hh x hx]

/-- The front job leaves its cluster's queue and starts, where its reads are not held (08 R173). -/
theorem execSolverJobStart_front {s : State} {k : Fin 64} {hw : HwEvent} {d : BitVec 1024} (hj : s.jobReady k = some d)
    (hu : (s.unitReads (k * 8) hw (s.ownRanges (s.jobReads (s.engineCtx k) d))).2 = true) :
    exec (.solverJobStart ⟨k, hw⟩) s = .next
      (((s.unitReads (k * 8) hw (s.ownRanges (s.jobReads (s.engineCtx k) d))).1.modCluster k fun c =>
        { c with solverQ := c.solverQ.drop 1 }).startJob k d (max (lin s.now * 18) (s.getCluster k).solverEnd)) := by
  show execSolverJobStart ⟨k, hw⟩ s = _
  unfold execSolverJobStart
  dsimp only
  rw [hj]
  dsimp only
  rw [hu]
  rfl

/-- Whether a batched job runs or ends at its start, the queue stays. -/
theorem State.startJob_solverQ (s : State) (k : Nat) {d : BitVec 1024} (h : plainJob d) (cc : Nat) :
    ((s.startJob k d cc).getCluster k).solverQ = (s.getCluster k).solverQ := by
  have he (e : JobEnd) : ((s.endJob k d none e).getCluster k).solverQ = (s.getCluster k).solverQ :=
    congrArg Prod.fst ((s.endJob_record k d e).1.jobs k)
  rw [s.startJob_plain k h]
  split
  · exact he _
  split
  · exact he _
  split
  · exact he _
  · show ((s.setCluster k _).getCluster k).solverQ = _
    rw [State.getCluster_setCluster_same]

/-- A running job that misses its deadline is abandoned, at the check of its deadline or at its end (08 R187, 02 R49). -/
theorem exec_missed {s : State} {k : Fin 64} {r : SolverRun} {i : Instr} (hr : (s.getCluster k).solverRun = some r)
    (hm : r.missesDeadline = true)
    (hi : i = .solverDeadlineCheck k ∧ s.reached (jDeadline r.desc) = true ∧ s.isFirstIn k (eventKey (jDeadline r.desc) 7) = true
      ∨ s.jobDone r = true ∧ ∃ hw, i = .solverJobEnd k hw) : exec i s = .next (s.abandonJob k r) := by
  rcases hi with ⟨rfl, hd, hf⟩ | ⟨hd, hw, rfl⟩
  · have hl : s.solverLate k = some (jDeadline r.desc) := by
      unfold State.solverLate
      rw [hr]
      exact if_pos ⟨hd, hm⟩
    show execSolverDeadlineCheck k s = _
    unfold execSolverDeadlineCheck
    rw [hl, hr]
    exact if_pos hf
  · show execSolverJobEnd k hw s = _
    unfold execSolverJobEnd
    rw [hr]
    exact if_pos ⟨hd, hm⟩

/-- A job without a root buffer that is done in time ends as it stands, where its memories report nothing (08 R176). -/
theorem execSolverJobEnd_done {s : State} {k : Fin 64} {r : SolverRun} (hr : (s.getCluster k).solverRun = some r)
    (hd : s.jobDone r = true) (hm : r.missesDeadline = false) (hh : s.jobHeld r.desc = false) (hw : r.writes = false) :
    exec (.solverJobEnd k .ok) s = .next (s.finishJob k r false) := by
  have hb : s.rootBeginBy k (r.startCc + r.duration) = s := by
    unfold State.rootBeginBy
    rw [hr]
    exact if_neg fun h => by simp [hw] at h
  show execSolverJobEnd k .ok s = _
  unfold execSolverJobEnd
  rw [hr]
  dsimp only
  rw [if_neg (by simp [hm]), if_pos (by simp [hd, hh]), hb, hr]
  rfl

/-- Settles O32: a batched job starts, ends and is abandoned as its equations say (`startJob_plain`, `finishJob_plain`,
`abandonJob_plain`), and neither its reads nor its record reach the jobs of an engine. -/
theorem solverJobsRun : Obligations.SolverJobsRun := by
  unfold Obligations.SolverJobsRun
  intro o k data s c j
  refine ⟨fun ho ht hl hj hq => ?_, fun d rest hw hq hr hs hh hd => ?_, fun r hr hdone hm hheld hd hrefs hcold hfb hwr => ?_,
    fun r i hr hm hd hrefs hi => ?_⟩
  · have hc : s.solverCheck k data = stOk := by
      unfold State.solverCheck
      rw [if_neg (by omega), if_neg]
      rintro (h | h | h | h)
      · exact h ht
      · exact h hl
      · exact Bool.false_ne_true (hj.symm.trans h)
      · exact absurd h (Nat.not_le.2 hq)
    have hx : exec (.solverSubmission o k data) s = .next (s.structWrite o (s.solverCheck k data) fun s => s.solverWrite k data) := rfl
    rw [hx, s.structWrite_ok _ ho hc, State.solverWrite, if_neg (by omega)]
    rfl
  · intro u s1 hu cc dur ctx input aux
    have hx := execSolverJobStart_front (State.jobReady_front hq hr hs hh) hu
    have hk : Quiet s s1 := .unitReads s _ hw _
    obtain ⟨hq1, hr1, -⟩ := Cluster.jobs_eq (hk.jobs k)
    let s2 := s1.modCluster k fun c => { c with solverQ := c.solverQ.drop 1 }
    have hc2 : s2.getCluster k = { s1.getCluster k with solverQ := (s1.getCluster k).solverQ.drop 1 } :=
      State.getCluster_setCluster_same _ _ _
    refine ⟨s2.startJob k d cc, hx, ?_, fun hl hb hwk hf haf hok => ?_, fun hl hb hwk => ?_⟩
    · rw [s2.startJob_solverQ k hd, hc2, hq1, hq]
      rfl
    · have hfaults : s2.batchedFaults k d = false :=
        show (input.fault || aux.fault || !s1.engineOk ctx (jDst d) (jDstBytes d)) = false by rw [hf, haf, hok]; rfl
      rw [s2.startJob_plain k hd, plain_work hd hb hwk, if_neg Bool.false_ne_true, if_neg (Nat.not_le.2 hl), hfaults,
        if_neg Bool.false_ne_true]
      refine ⟨.batched s2 k d cc, ?_, rfl, rfl, rfl, rfl, rfl, rfl, rfl, rfl, rfl, rfl, rfl, hk.lr, rfl, hk.side, hk.imem, hk.cores⟩
      show ((s2.setCluster k _).getCluster k).solverRun = _
      rw [State.getCluster_setCluster_same]
    · rw [s2.startJob_plain k hd, plain_work hd hb hwk, if_neg Bool.false_ne_true, if_pos hl]
      obtain ⟨-, hrun, -⟩ := Cluster.jobs_eq ((s2.endJob_record k d (simpleEnd s2 stDeadline 0)).1.jobs k)
      exact ⟨by rw [hrun, hc2]; exact hr1.trans hr, s2.endJob_shows k d _⟩
  · intro d res fails out st
    have hx := execSolverJobEnd_done hr hdone hm hheld hwr
    rw [s.finishJob_plain k hd hrefs hcold hfb] at hx
    let w := s.engineWrite (s.engineCtx k) (jDst d) out (k / 8)
    have hw : JobsKept s (if r.fails then s else w) := by
      split
      · exact .refl s
      · exact s.engineWrite_keeps _ _ _ _
    obtain ⟨him, hsd, hjobs⟩ := (if r.fails then s else w).leave_jobs k d (r.startCc + r.duration) r.doneEnd
    obtain ⟨hq, hrun, hend⟩ := Cluster.jobs_eq hjobs
    obtain ⟨hqw, -, -⟩ := Cluster.jobs_eq (hw.jobs k)
    refine ⟨_, hx, hrun, hq.trans hqw, hend, him.trans hw.imem, hsd.trans hw.side, r.doneEnd, r.doneEnd_status, rfl, rfl, rfl,
      fun hf => ?_, fun hf hm hs hok hh _ hsr => ?_⟩
    · have hf' : r.fails = true := hf
      rw [hf']
      exact s.leave_shows k d _ _
    · have hf' : r.fails = false := hf
      have hlr : ((if r.fails then s else w).leave k d (r.startCc + r.duration) r.doneEnd).lr
          = wrBytes s.lr (gaOffset (jDst d)) out := by
        rw [hf', State.leave_lr _ _ _ _ _ (by rw [hsr]; decide)]
        exact s.engineWrite_here _ _ _ _ hm hs hok hh
      exact ⟨by rw [hlr, rdBytes_wrBytes_same], fun b hb => by rw [hlr, rdByte_wrBytes_outside _ _ _ hb]⟩
  · intro res
    obtain ⟨e, he, hst, hregs, hf0, hf1⟩ := s.abandonJob_plain k hd hrefs
    obtain ⟨him, hsd, hjobs⟩ := s.leave_jobs k r.desc (lin s.now * 18) e
    obtain ⟨hq, hrun, hend⟩ := Cluster.jobs_eq hjobs
    exact ⟨_, (exec_missed hr hm hi).trans (congrArg _ he), hrun, hq, hend, him, hsd, e, hst, hregs, hf0, hf1,
      s.leave_shows k r.desc _ e⟩

end Sys2Proof.Machine
end

section
/-!
PROOFS. The rules of the memory tiers (10 R216 to R246) and of the reports that go with them: which part of the state an operation
writes, and what a page reads as after its migration.
-/

namespace Sys2Proof.Machine

/-! ## What a step leaves as it was -/

/-- `t` has the four memories, the cores and the contexts of `s`. -/
structure Undisturbed (s t : State) : Prop where
  stores : t.stores = s.stores
  imem : t.imem = s.imem
  lr : t.lr = s.lr
  side : t.side = s.side
  cores : t.cores = s.cores
  ctxs : t.ctxs = s.ctxs

namespace Undisturbed
variable {s t u : State}

/-- A step that writes none of the six fields. -/
theorem of_fields (hs : t.stores = s.stores := by rfl) (hi : t.imem = s.imem := by rfl) (hl : t.lr = s.lr := by rfl)
    (hd : t.side = s.side := by rfl) (hc : t.cores = s.cores := by rfl) (hx : t.ctxs = s.ctxs := by rfl) : Undisturbed s t :=
  ⟨hs, hi, hl, hd, hc, hx⟩

theorem refl (s : State) : Undisturbed s s := .of_fields

theorem trans (h : Undisturbed s t) (k : Undisturbed t u) : Undisturbed s u :=
  ⟨k.stores.trans h.stores, k.imem.trans h.imem, k.lr.trans h.lr, k.side.trans h.side, k.cores.trans h.cores, k.ctxs.trans h.ctxs⟩

/-- The last of two steps first: its form gives the state between them. -/
theorem after (k : Undisturbed t u) (h : Undisturbed s t) : Undisturbed s u := h.trans k

theorem ite {p : Prop} [Decidable p] (ht : Undisturbed s t) (hu : Undisturbed s u) : Undisturbed s (if p then t else u) := by
  split <;> assumption

theorem bytes (h : Undisturbed s t) : SameBytes s t :=
  fun _ => by rw [h.stores, h.imem, h.lr, h.side]; exact ⟨rfl, rfl, rfl, rfl⟩

theorem addOd (s : State) (i k n : Nat) : Undisturbed s (s.addOd i k n) := by
  obtain ⟨d, e⟩ := s.addOd_only i k n
  rw [e]; exact .of_fields

end Undisturbed

/-! ## A selection of a table by its keys -/

theorem tblGet_filter_key {α : Type} (d : Nat → α) (q : Nat → Bool) (t : Tbl α) (k : Nat) :
    tblGet d (t.filter fun e => q e.1) k = if q k then tblGet d t k else d k := by
  induction t with
  | nil => simp [tblGet]
  | cons e r ih =>
    obtain ⟨k', v⟩ := e
    by_cases hk : k = k'
    · subst hk
      cases hq : q k <;> simp [hq, tblGet, ih]
    · cases hq : q k' <;> simp [hq, tblGet, ih, hk]

/-- Bytes of the pages that a region holds, dropped: they read as zero (10 R229). -/
theorem rdByte_drop_region (w : BitVec 256) (n : Nat) (m : Tbl Byte) (k : Nat) :
    rdByte (m.filter fun e => !rgHolds w (e.1 / n)) k = if rgHolds w (k / n) then 0 else rdByte m k := by
  refine (tblGet_filter_key byte0 (fun a => !rgHolds w (a / n)) m k).trans ?_
  cases rgHolds w (k / n) <;> rfl

/-! ## Operations that write only locations of pages and the queue of held flash writes -/

/-- `t` differs from `s` in where pages lie and in which flash writes are held, and in nothing else. -/
structure OnlyPages (s t : State) : Prop where
  fields : ∃ g h, t = { s with long := { s.long with page := g, heldWrites := h } }

namespace OnlyPages
variable {s t u : State}

theorem refl (s : State) : OnlyPages s s := ⟨_, _, rfl⟩

theorem setPage (s : State) (p : Nat) (g : PageInfo) : OnlyPages s (s.setPage p g) := ⟨_, _, rfl⟩

theorem trans (h : OnlyPages s t) (k : OnlyPages t u) : OnlyPages s u := by
  obtain ⟨g, q, rfl⟩ := h.fields
  obtain ⟨g', q', rfl⟩ := k.fields
  exact ⟨_, _, rfl⟩

theorem undisturbed (h : OnlyPages s t) : Undisturbed s t := by
  obtain ⟨_, _, rfl⟩ := h.fields
  exact .of_fields

theorem regionOf (h : OnlyPages s t) (p : Nat) : t.regionOf p = s.regionOf p := by obtain ⟨_, _, rfl⟩ := h.fields; rfl

end OnlyPages

/-- Room in a frame budget is made by starting one eviction, if at all (10 R233). -/
theorem State.makeRoom_eq (s : State) (c : Nat) :
    s.makeRoom c = s ∨ ∃ v, s.makeRoom c = s.setPage v { s.getPage v with moving := some false } := by
  unfold State.makeRoom
  split
  · exact .inl rfl
  · split
    · exact .inr ⟨_, rfl⟩
    · exact .inl rfl

theorem OnlyPages.makeRoom (s : State) (c : Nat) : OnlyPages s (s.makeRoom c) := by
  obtain h | ⟨v, h⟩ := s.makeRoom_eq c <;> rw [h]
  · exact .refl s
  · exact .setPage s _ _

theorem OnlyPages.fitBudget (s : State) (c n : Nat) : OnlyPages s (s.fitBudget c n) := by
  induction n generalizing s with
  | zero => exact .refl s
  | succ n ih =>
    unfold State.fitBudget
    split
    · exact .refl s
    · split
      · exact (OnlyPages.setPage s _ _).trans (ih _)
      · exact .refl s

theorem OnlyPages.migrateIn (s : State) (p die : Nat) : OnlyPages s (s.migrateIn p die) := by
  unfold State.migrateIn
  dsimp only
  split
  · exact .refl s
  · split
    · exact (OnlyPages.setPage s _ _).trans (.makeRoom _ _)
    · exact .setPage s _ _

theorem OnlyPages.keepPage (s : State) (p : Nat) : OnlyPages s (s.keepPage p) := by
  unfold State.keepPage
  dsimp only
  split
  · exact ⟨_, _, rfl⟩
  · exact .refl s

theorem OnlyPages.migrateTo (s : State) (p die : Nat) : OnlyPages s (s.migrateTo p die) := by
  refine (OnlyPages.keepPage s p).trans ?_
  unfold State.migrateTo
  dsimp only
  split
  · exact .refl _
  split
  · exact .setPage _ _ _
  split
  · exact .setPage _ _ _
  · exact .migrateIn _ _ _

/-! ## A page and its migration -/

/-- Whether a page sits in HBM is told by its region and its location. -/
theorem State.pageInHbm_congr {s t : State} {p : Nat} (hr : t.regionOf p = s.regionOf p)
    (hg : (t.getPage p).inHbm = (s.getPage p).inHbm) : t.pageInHbm p = s.pageInHbm p := by
  unfold State.pageInHbm
  rw [hr, hg]

theorem State.pageDie_congr {s t : State} {p : Nat} (hr : t.regionOf p = s.regionOf p)
    (hg : (t.getPage p).die = (s.getPage p).die) : t.pageDie p = s.pageDie p := by
  unfold State.pageDie State.homeDie
  rw [hr, hg]

/-- An eviction that is started at a page leaves its other facts. -/
theorem State.makeRoom_page (s : State) (c p : Nat) : (s.makeRoom c).getPage p = s.getPage p
    ∨ (s.makeRoom c).getPage p = { s.getPage p with moving := some false } := by
  obtain h | ⟨v, h⟩ := s.makeRoom_eq c <;> rw [h]
  · exact .inl rfl
  · rw [State.getPage_setPage]
    split
    · rename_i hv; rw [hv]; exact .inr rfl
    · exact .inl rfl

/-- A page outside HBM that does not move yet is moving afterwards, to the die named (10 R232, R233). -/
theorem State.migrateIn_page {s : State} {p : Nat} (hp : s.pageInHbm p = false) (hm : (s.getPage p).moving = none) (die : Nat) :
    ∃ m, (s.migrateIn p die).getPage p = { s.getPage p with moving := some m, die := die } := by
  unfold State.migrateIn
  rw [if_neg (by simp [hp, hm])]
  dsimp only
  split
  · rename_i c _
    obtain h | h := State.makeRoom_page (s.setPage p { s.getPage p with moving := some true, die := die }) c p <;>
      rw [h, State.getPage_setPage_same]
    · exact ⟨_, rfl⟩
    · exact ⟨_, rfl⟩
  · exact ⟨_, State.getPage_setPage_same _ _ _⟩

/-- Keeping a page in its frame ends its eviction and changes nothing else of it (10 R239). -/
theorem State.keepPage_page (s : State) (p : Nat) : ∃ m, (s.keepPage p).getPage p = { s.getPage p with moving := m } := by
  unfold State.keepPage
  dsimp only
  split
  · exact ⟨none, State.getPage_setPage_same _ _ _⟩
  · exact ⟨_, rfl⟩

theorem State.keepPage_pageInHbm (s : State) (p : Nat) : (s.keepPage p).pageInHbm p = s.pageInHbm p := by
  obtain ⟨m, h⟩ := s.keepPage_page p
  exact State.pageInHbm_congr ((OnlyPages.keepPage s p).regionOf p) (by rw [h])

theorem State.keepPage_pageDie (s : State) (p : Nat) : (s.keepPage p).pageDie p = s.pageDie p := by
  obtain ⟨m, h⟩ := s.keepPage_page p
  exact State.pageDie_congr ((OnlyPages.keepPage s p).regionOf p) (by rw [h])

/-- A page that is to lie on a die keeps its protection, and moves there unless it lies there (10 R232, R237). -/
theorem State.migrateTo_page (s : State) (p die : Nat) :
    ((s.migrateTo p die).getPage p).prot = (s.getPage p).prot
    ∧ (¬ (s.pageInHbm p = true ∧ s.pageDie p = die) →
        ((s.migrateTo p die).getPage p).moving.isSome = true ∧ ((s.migrateTo p die).getPage p).die = die) := by
  obtain ⟨m, hk⟩ := s.keepPage_page p
  have hprot : ((s.keepPage p).getPage p).prot = (s.getPage p).prot := by rw [hk]
  unfold State.migrateTo
  dsimp only
  rw [s.keepPage_pageInHbm p, s.keepPage_pageDie p]
  generalize hu : s.keepPage p = u at hprot
  split
  · rename_i hthere; exact ⟨hprot, fun h => absurd hthere h⟩
  split
  · rw [State.getPage_setPage_same]; exact ⟨hprot, fun _ => ⟨rfl, rfl⟩⟩
  · rename_i hstill
    split
    · rw [State.getPage_setPage_same]; exact ⟨hprot, fun _ => ⟨rfl, rfl⟩⟩
    · rename_i hout
      have hin : u.pageInHbm p = false := by rw [← hu, s.keepPage_pageInHbm p]; simpa using hout
      obtain ⟨m, h⟩ := State.migrateIn_page hin (by simpa using hstill) die
      rw [h]; exact ⟨hprot, fun _ => ⟨rfl, rfl⟩⟩

end Sys2Proof.Machine
end

section
/-!
PROOFS. Regions (10 R228 to R230): the descriptor that a region reads as, what its mapping clears, and the accesses that an unmapping
answers.
-/

namespace Sys2Proof.Machine

theorem State.region_setRegion (s : State) (r n : Nat) (w : BitVec 256) :
    (s.setRegion r w).region n = if n = r then w else s.region n := tblGet_set regionD _ r n w

/-! ## Mapping -/

/-- A descriptor that breaks no rule of R229 and names no context whose step runs is accepted (13 R310). -/
theorem State.regionCheck_map {s : State} {r : Nat} {w : BitVec 256} (hf : fld w 142 0 = 0) (hold : rgValid (s.region r) = false)
    (hov : ∀ e ∈ s.long.region, rgValid e.2 = true → rgOverlap e.2 w = false) (hmap : s.mappedPages + rgPages w ≤ s.mapLimit)
    (hpin : rgPin w = true → rgHomeFlash w = false ∧ s.pinnedPages (rgCtx w) + rgPages w ≤ s.frameBudget (rgCtx w))
    (hend : rgBase w + rgPages w ≤ 2 ^ 28) (hrun : (s.getCtx (rgCtx w)).stepRun = false) : s.regionCheck r w = stOk := by
  have hsep : (s.long.region.any fun e => rgValid e.2 && rgOverlap e.2 w) = false := by
    rw [List.any_eq_false]
    intro e he h
    obtain ⟨hv, ho⟩ := Bool.and_eq_true_iff.1 h
    rw [hov e he hv] at ho
    exact Bool.false_ne_true ho
  unfold State.regionCheck State.regionInStep
  rw [if_neg (by simp [hf, hold]), if_neg (by simp [hold, hrun])]
  split
  · rfl
  · rw [if_neg]
    rintro (h | h | ⟨hp, h⟩ | ⟨hp, h⟩ | h)
    · rw [hsep] at h; exact Bool.false_ne_true h
    · omega
    · rw [(hpin hp).1] at h; exact Bool.false_ne_true h
    · have := (hpin hp).2; omega
    · omega

/-- A region that is mapped: its descriptor is in force and its bytes read as zero; beyond them only locations of pages change
(10 R229, R233). -/
theorem State.mapRegion_valid (s : State) (r : Nat) {w : BitVec 256} (hw : rgValid w = true) :
    OnlyPages { s.setRegion r w with
      lr := s.lr.filter fun e => !rgHolds w (e.1 / 65536)
      side := s.side.filter fun e => !rgHolds w (e.1 / 4096) } (s.mapRegion r w) := by
  unfold State.mapRegion
  rw [if_pos hw]
  exact .fitBudget _ _ _

/-! ## Unmapping -/

/-- A descriptor that clears VALID of a valid region whose context runs no step is accepted (10 R230, 13 R310). -/
theorem State.regionCheck_unmap {s : State} {r : Nat} {w : BitVec 256} (hf : fld w 142 0 = 0) (hw : rgValid w = false)
    (hrun : (s.getCtx (rgCtx (s.region r))).stepRun = false) : s.regionCheck r w = stOk := by
  unfold State.regionCheck State.regionInStep
  rw [if_neg (by simp [hf, hw]), if_neg (by simp [hw, hrun]), if_pos (by simp [hw])]

/-- `t` has the stores, the instruction memories and the long range of `s`: bytes, sidecars, regions, pages and ladders. -/
structure StorageKept (s t : State) : Prop where
  stores : t.stores = s.stores
  imem : t.imem = s.imem
  lr : t.lr = s.lr
  side : t.side = s.side
  long : t.long = s.long

namespace StorageKept
variable {s t u : State}

theorem of_fields (hs : t.stores = s.stores := by rfl) (hi : t.imem = s.imem := by rfl) (hl : t.lr = s.lr := by rfl)
    (hd : t.side = s.side := by rfl) (hg : t.long = s.long := by rfl) : StorageKept s t := ⟨hs, hi, hl, hd, hg⟩

theorem refl (s : State) : StorageKept s s := .of_fields

theorem trans (h : StorageKept s t) (k : StorageKept t u) : StorageKept s u :=
  ⟨k.stores.trans h.stores, k.imem.trans h.imem, k.lr.trans h.lr, k.side.trans h.side, k.long.trans h.long⟩

/-- The last of two steps first: its form gives the state between them. -/
theorem after (k : StorageKept t u) (h : StorageKept s t) : StorageKept s u := h.trans k

theorem ite {p : Prop} [Decidable p] (ht : StorageKept s t) (hu : StorageKept s u) : StorageKept s (if p then t else u) := by
  split <;> assumption

variable (s)

theorem addOd (i k n : Nat) : StorageKept s (s.addOd i k n) := by
  obtain ⟨d, e⟩ := s.addOd_only i k n
  rw [e]; exact .of_fields

theorem cutNext (mask reason : Nat) : StorageKept s (s.cutNext mask reason) := by
  obtain ⟨c, e⟩ := s.cutNext_only mask reason
  rw [e]; exact .of_fields

theorem cutCtx (c : Option Nat) (reason : Nat) : StorageKept s (s.cutCtx c reason) := by
  obtain ⟨x, e⟩ := s.cutCtx_only c reason
  rw [e]; exact .of_fields

theorem ctrAdd (core k n : Nat) : StorageKept s (s.ctrAdd core k n) := by
  obtain ⟨c, x, e⟩ := s.ctrAdd_only core k n
  rw [e]; exact .of_fields

theorem ctrDone (core k : Nat) : StorageKept s (s.ctrDone core k) := .ite (.ctrAdd s _ _ _) (.refl s)

theorem queueStatus (q msg st : Nat) : StorageKept s (s.queueStatus q msg st) := by
  unfold State.queueStatus
  exact .ite .of_fields (.ite .of_fields (.refl s))

theorem applySignal (src msg core ctr cls amount : Nat) : StorageKept s (s.applySignal src msg core ctr cls amount) := by
  unfold State.applySignal
  refine .after (.ite ?_ (.refl _)) (.ctrAdd s core ctr amount)
  obtain ⟨c, d, e⟩ := State.trace_only (s.ctrAdd core ctr amount) (core / 8) (core % 8) 4
    (msg % 2 ^ 48 * 2 ^ 32 + src % 2 ^ 16 * 2 ^ 16 + core % 512 * 2 ^ 7 + ctr % 64 * 2)
  rw [e]; exact .of_fields

theorem sigBytes (src msg total core ctr cls written refused : Nat) :
    StorageKept s (s.sigBytes src msg total core ctr cls written refused).1 := by
  unfold State.sigBytes
  dsimp only
  split
  · exact .after (.addOd _ _ _ _) .of_fields
  split
  · exact .after (.addOd _ _ _ _) .of_fields
  generalize hu : (if _ > s.od 0x2510 7 then s.setOd 0x2510 7 _ else s) = u
  have hsu : StorageKept s u := by rw [← hu]; exact .ite .of_fields (.refl s)
  split
  · exact hsu.trans .of_fields
  · refine hsu.trans (.ite ?_ .of_fields)
    exact .after (.applySignal _ _ _ _ _ _ _) .of_fields

/-- The completion of an operation reaches its issuer, its queue and the cuts (11 R276 to R278). -/
theorem complete (x : Xfer) (forced : Bool) : StorageKept s (s.complete x forced) := by
  have cut (t : State) (p : Prop) [Decidable p] (m k : Nat) : StorageKept t (if p then t.cutNext m k else t) :=
    .ite (.cutNext t m k) (.refl t)
  unfold State.complete
  dsimp only
  refine StorageKept.trans (t := if x.queue < 65536 then s.queueStatus x.queue x.msg x.final else s)
    (.ite (.queueStatus s _ _ _) (.refl s)) ?_
  generalize (if x.queue < 65536 then s.queueStatus x.queue x.msg x.final else s) = u
  split
  · refine StorageKept.after (.ite (.cutCtx _ _ _) (.refl _)) ?_
    exact .after (.ite (.refl _) .of_fields) (.ctrDone u x.core x.ctr)
  split
  · exact .after (cut _ _ _ _) .of_fields
  split
  · exact .after (cut _ _ _ _) .of_fields
  · exact .refl u

theorem fences (n : Nat) : StorageKept s (s.fences n) := by
  induction n generalizing s with
  | zero => exact .refl s
  | succ n ih =>
    unfold State.fences
    split
    · exact .after (ih _) (.after (.complete _ _ false) .of_fields)
    · exact .refl s

theorem setOp (x : Xfer) : StorageKept s (s.setOp x) := by
  unfold State.setOp State.finishOp
  exact .ite (.after (.fences _ _) (.after (.complete _ x false) .of_fields)) .of_fields

theorem settle (f : Frame) (via st : Nat) : StorageKept s (s.settle f via st) := by
  unfold State.settle
  exact .ite (.ite .of_fields .of_fields) (.ite .of_fields .of_fields)

/-- A write that has waited for an unmapping is answered: signals, acknowledgements and its operation's end (10 R230). -/
theorem unmapDone (h : HeldReq) : StorageKept s (s.unmapDone h) := by
  unfold State.unmapDone
  split
  · refine .after (.settle _ _ _ _) ?_
    unfold State.frameSignal
    split
    · exact .refl s
    · exact .sigBytes s _ _ _ _ _ _ _ _
  · split
    · refine .after (.setOp _ _) ?_
      unfold State.ownSignal
      split
      · exact .refl s
      split
      · exact .refl s
      · exact .sigBytes s _ _ _ _ _ _ _ _
    · exact .refl s
  · exact .refl s

theorem unmapDones (l : List (Nat × HeldReq)) : StorageKept s (l.foldl (fun s e => s.unmapDone e.2) s) := by
  induction l generalizing s with
  | nil => exact .refl s
  | cons e r ih => exact (StorageKept.unmapDone s e.2).trans (ih _)

end StorageKept

/-- A region whose unmapping ends: the descriptor written is in force, and its pages, sidecars, locations and held flash writes are gone
(10 R230). -/
def State.unmapped (s : State) (r : Nat) (w : BitVec 256) : State :=
  let old := s.region r
  let s1 := s.setRegion r w
  { s1 with
    lr := s1.lr.filter fun e => !rgHolds old (e.1 / 65536)
    side := s1.side.filter fun e => !rgHolds old (e.1 / 4096)
    long := { s1.long with
      unmapping := s1.long.unmapping.filter fun e => e.1 != r
      page := s1.long.page.filter fun e => !rgHolds old e.1
      unmapWait := s1.long.unmapWait.filter fun e => e.1 != r
      heldWrites := s1.long.heldWrites.filter fun h => !(h.2.any fun p => rgHolds old p) } }

/-- Where no access is in flight the unmapping ends; what answers the writes that waited for it reaches no memory (10 R230). -/
theorem execRegionUnmapComplete_idle {r : Fin 4096} {s : State} {q : Nat} {w : BitVec 256}
    (hw : s.long.unmapping.find? (fun e => e.1 == r.val) = some (q, w)) (hb : s.regionBusy (s.region r) = false) :
    ∃ u, exec (.regionUnmapComplete r) s = .next (u.status stOk) ∧ StorageKept (s.unmapped r w) u
      ∧ ((∀ e ∈ s.long.unmapWait, e.1 ≠ r.val) → u = s.unmapped r w) := by
  have hx : exec (.regionUnmapComplete r) s = execRegionUnmapComplete r s := rfl
  rw [hx]
  unfold execRegionUnmapComplete
  dsimp only
  rw [hw]
  dsimp only
  rw [if_neg (by simp [hb])]
  refine ⟨_, rfl, .unmapDones (s.unmapped r w) _, fun hnone => ?_⟩
  have hw0 : (s.long.unmapWait.filter fun e => e.1 == r.val) = [] := by
    rw [List.filter_eq_nil_iff]
    exact fun e he => by simpa using hnone e he
  exact congrArg (List.foldl (fun s e => s.unmapDone e.2) (s.unmapped r w)) hw0

/-- Settles O34: a mapping drops the bytes of its pages and nothing else (`mapRegion_valid`), and what an unmapping answers reaches no
memory (`StorageKept.unmapDone`). -/
theorem regionsMapAndUnmap : Obligations.RegionsMapAndUnmap := by
  unfold Obligations.RegionsMapAndUnmap
  intro o r w s old
  refine ⟨fun ho hf hold hw hov hmap hpin hend hrun => ?_, fun ho hf hold hw hrun => ?_, fun q hq hb => ?_⟩
  · have hc := State.regionCheck_map hf hold hov hmap hpin hend hrun
    have hx : exec (.regionMap o r w) s = .next ((s.mapRegion r w).status stOk) := by
      show Host.Outcome.next (s.regionRequest o r w) = _
      unfold State.regionRequest
      rw [if_neg fun h => Bool.false_ne_true (hold.symm.trans h.2.2), s.structWrite_ok _ ho hc, State.regionWrite,
        if_neg fun h => Bool.false_ne_true (hold.symm.trans h)]
    obtain ⟨g, h, e⟩ := (s.mapRegion_valid r hw).fields
    rw [e] at hx
    refine ⟨_, hx, (s.region_setRegion r r w).trans (if_pos rfl), fun n hn => (s.region_setRegion r n w).trans (if_neg hn), rfl,
      rdByte_drop_region w 65536 s.lr, rdByte_drop_region w 4096 s.side, rfl, rfl, rfl, rfl⟩
  · show Host.Outcome.next (s.regionRequest o r w) = _
    unfold State.regionRequest
    rw [if_pos ⟨ho, State.regionCheck_unmap hf hw hrun, hold⟩, State.regionWrite, if_pos hold]
  · obtain ⟨u, hx, hk, hnone⟩ := execRegionUnmapComplete_idle hq hb
    have hreg : u.region r = w := by
      unfold State.region
      rw [hk.long]
      exact (s.region_setRegion r r w).trans (if_pos rfl)
    have hwait : u.long.unmapping.find? (fun e => e.1 == r.val) = none := by
      rw [hk.long, List.find?_eq_none]
      intro e he
      simpa using (List.mem_filter.1 he).2
    refine ⟨_, hx, hreg, rfl, hwait, fun k => ?_, fun k => ?_, hk.stores, hk.imem, fun h => by rw [hnone h]; exact ⟨rfl, rfl⟩⟩
    · exact (congrArg (rdByte · k) hk.lr).trans (rdByte_drop_region old 65536 s.lr k)
    · exact (congrArg (rdByte · k) hk.side).trans (rdByte_drop_region old 4096 s.side k)

end Sys2Proof.Machine
end

section
/-!
PROOFS. Prefetch schedules (10 R237 to R239): the schedule that is latched, the entry that is due, and the start, the end and the lateness
of an entry.
-/

namespace Sys2Proof.Machine

theorem State.entryState_setEntry (s : State) (ctx k : Nat) (e : EntryState) :
    ((s.setEntry ctx k e).getCtx ctx).entryState k = e := by
  show (State.getCtx (s.setCtx ctx _) ctx).entryState k = e
  rw [State.getCtx_setCtx_same]
  exact tblGet_set_same sched0 _ k e

/-- A schedule that R238 accepts passes the check of SCHED_COUNT. -/
theorem State.schedCheck_ok {s : State} {ctx : Nat} {v : W64} (hr : (s.getCtx ctx).stepRun = false)
    (hb : v ≠ 0 → (s.getCtx ctx).schedBase.toNat < 2 ^ 44
      ∧ s.longOk (.ctx ctx) false (s.getCtx ctx).schedBase.toNat (16 * v.toNat) = true)
    (hs : startsRise (s.readSchedule (s.getCtx ctx).schedBase.toNat v.toNat) = true)
    (he : ∀ e ∈ s.readSchedule (s.getCtx ctx).schedBase.toNat v.toNat, s.entryOk ctx e = true) : s.schedCheck ctx v = stOk := by
  unfold State.schedCheck
  dsimp only
  rw [if_neg]
  · exact if_pos (Bool.and_eq_true_iff.2 ⟨hs, List.all_eq_true.2 he⟩)
  · rintro (h | ⟨hn, h⟩)
    · rw [hr] at h; exact Bool.false_ne_true h
    · obtain ⟨hlt, hok⟩ := hb fun hv => hn (by rw [hv]; rfl)
      obtain hge | hno := h
      · omega
      · exact hno hok

/-- The entry that waits, whose START sweep has come and before which none waits is the one that begins (10 R238). -/
theorem State.entryDue_some {s : State} {ctx n kind : Nat} {e : W128} (h : (s.getCtx ctx).sched[n]? = some e
    ∧ (s.getCtx ctx).entryState n = .waiting ∧ seKind e = kind
    ∧ s.reached ((s.getCtx ctx).stepStartSweep + seStart e, 0) = true ∧ ∀ j, j < n → (s.getCtx ctx).entryState j ≠ .waiting) :
    s.entryDue ctx n kind = some e := by
  obtain ⟨he, hw, hk, hr, hb⟩ := h
  unfold State.entryDue
  dsimp only
  rw [he]
  exact if_pos ⟨hw, hk, hr, List.all_eq_true.2 fun j hj => by simpa using hb j (List.mem_range.1 hj)⟩

/-! ## Start -/

theorem execFetchHbm_due {ctx : Fin 16} {n : Nat} {e : W128} {s : State} (h : s.entryDue ctx n 0 = some e) :
    exec (.fetchHbm ctx n) s = .next (((s.setEntry ctx n .begun).setPage (sePage e)
      { s.getPage (sePage e) with prot := true }).migrateTo (sePage e) (seDie e)) := by
  show execFetchHbm ctx n s = _
  unfold execFetchHbm
  rw [h]
  rfl

theorem execFetchStore_due {ctx : Fin 16} {n : Nat} {e : W128} {s : State} (h : s.entryDue ctx n 1 = some e) :
    exec (.fetchStore ctx n) s = .next (((s.setEntry ctx n .begun).keepPage (sePage e)).migrateIn (sePage e) 8) := by
  show execFetchStore ctx n s = _
  unfold execFetchStore
  rw [h]

theorem execEvict_due {ctx : Fin 16} {n : Nat} {e : W128} {s : State} (h : s.entryDue ctx n 2 = some e) :
    exec (.evict ctx n) s = .next ((s.setEntry ctx n .done).setPage (sePage e) { s.getPage (sePage e) with prot := false }) := by
  show execEvict ctx n s = _
  unfold execEvict
  rw [h]
  rfl

/-- A page outside HBM moves once it is brought in, whether it moved before or not (10 R233). -/
theorem State.migrateIn_moving {s : State} {p : Nat} (hp : s.pageInHbm p = false) (die : Nat) :
    ((s.migrateIn p die).getPage p).moving.isSome = true := by
  cases hm : (s.getPage p).moving with
  | none =>
    obtain ⟨m, h⟩ := State.migrateIn_page hp hm die
    rw [h]; rfl
  | some b =>
    have hs : s.migrateIn p die = s := by
      unfold State.migrateIn
      exact if_pos (.inr (by rw [hm]; rfl))
    rw [hs, hm]; rfl

/-- A change of locations after an entry's state is written leaves that state, every byte and the cores. -/
theorem setEntry_frame {s t : State} {ctx n : Nat} {st : EntryState} (h : OnlyPages (s.setEntry ctx n st) t) :
    (t.getCtx ctx).entryState n = st ∧ SameBytes s t ∧ t.cores = s.cores := by
  have k := h.undisturbed
  refine ⟨?_, k.bytes, k.cores⟩
  rw [State.getCtx_of_ctxs k.ctxs]
  exact s.entryState_setEntry ctx n st

/-! ## End -/

/-- An access to a page in HBM changes what is known of the page alone (10 R233). -/
theorem State.touch_inHbm {s : State} {p : Nat} (h : s.pageInHbm p = true) (write : Bool) :
    (s.touch write p).stores = s.stores ∧ (s.touch write p).imem = s.imem ∧ (s.touch write p).lr = s.lr
      ∧ (s.touch write p).side = s.side := by
  unfold State.touch
  dsimp only
  rw [if_pos h]
  exact ⟨rfl, rfl, rfl, rfl⟩

/-- A run of bytes written into the stores reads back, and every other byte as before. -/
theorem stores_written {s t : State} {k : Nat} {d : List Byte} (hs : t.stores = wrBytes s.stores k d) (hi : t.imem = s.imem)
    (hl : t.lr = s.lr) (hd : t.side = s.side) : rdBytes t.stores k d.length = d ∧ SameBytesBut s t k d.length := by
  refine ⟨by rw [hs, rdBytes_wrBytes_same], fun a => ⟨fun ha => ?_, by rw [hi], by rw [hl], by rw [hd]⟩⟩
  rw [hs, rdByte_wrBytes_outside _ _ _ ha]

section
variable {ctx : Fin 16} {n : Nat} {e : W128} {s : State} (he : (s.getCtx ctx).sched[n]? = some e)
  (hst : (s.getCtx ctx).entryState n = .begun ∨ (s.getCtx ctx).entryState n = .late) (hin : s.pageInHbm (sePage e) = true)
  (hl : s.ladderOf (sePage e) = none)
include he hst hin hl

/-- A fetch to HBM is complete once its page lies still in the stacks of its die (10 R239). -/
theorem execScheduleEntryComplete_hbm (hk : seKind e = 0) (hd : s.pageDie (sePage e) = seDie e)
    (hm : (s.getPage (sePage e)).moving = none) :
    exec (.scheduleEntryComplete ctx ⟨n, .ok⟩) s = .next (s.setEntry ctx n .done) := by
  have hx : exec (.scheduleEntryComplete ctx ⟨n, .ok⟩) s = execScheduleEntryComplete ctx ⟨n, .ok⟩ s := rfl
  have hok : s.hbmEvent .ok = s := rfl
  rw [hx]
  unfold execScheduleEntryComplete
  simp only [State.ladderFull, hok, he, hin, hl, hk, hd, hm, hst, Option.isNone_none, Bool.false_eq_true, not_false_eq_true,
    and_self, if_true, if_false]

/-- A fetch to a store is complete once its page lies in HBM: it writes the page's bytes (10 R239). -/
theorem execScheduleEntryComplete_store (hk : seKind e = 1) :
    exec (.scheduleEntryComplete ctx ⟨n, .ok⟩) s = .next ((((s.touch false (sePage e)).wrLocal (seCore e) (seLocal e)
      (s.fetchBytes (sePage e) (seTiled e))).ctrDone (seCore e) (seCtr e)).setEntry ctx n .done) := by
  have hx : exec (.scheduleEntryComplete ctx ⟨n, .ok⟩) s = execScheduleEntryComplete ctx ⟨n, .ok⟩ s := rfl
  have hok : s.hbmEvent .ok = s := rfl
  rw [hx]
  unfold execScheduleEntryComplete
  simp only [State.ladderFull, hok, he, hin, hl, hk, hst, Option.isNone_none, Bool.false_eq_true, not_false_eq_true, and_self,
    if_true, if_false, Nat.one_ne_zero]

end

/-- Settles O35: what begins a migration changes locations of pages only (`OnlyPages`), and a fetch to a store writes one run of bytes. -/
theorem schedulesRun : Obligations.SchedulesRun := by
  unfold Obligations.SchedulesRun
  intro o ctx v n s
  dsimp only
  refine ⟨fun ho hr hb hs he => ?_, fun e h => ?_, fun e h => ?_, fun e h => ?_,
    fun e he hst hin hl => ⟨fun hk hd hm => ?_, fun hk => ?_⟩,
    fun e he hst hr => ?_⟩
  · show Host.Outcome.next (s.structWrite o (s.schedCheck ctx v) fun s => s.schedWrite ctx v) = _
    rw [s.structWrite_ok _ ho (State.schedCheck_ok hr hb hs he), State.schedWrite]
    unfold State.modCtx
    rfl
  · let p := sePage e
    let u := (s.setEntry ctx n .begun).setPage p { s.getPage p with prot := true }
    have hu : OnlyPages (s.setEntry ctx n .begun) u := .setPage _ _ _
    obtain ⟨hst, hsame, hcores⟩ := setEntry_frame (hu.trans (.migrateTo u p (seDie e)))
    obtain ⟨hprot, hmove⟩ := u.migrateTo_page p (seDie e)
    have hg : u.getPage p = { s.getPage p with prot := true } := State.getPage_setPage_same _ _ _
    have hin : u.pageInHbm p = s.pageInHbm p := State.pageInHbm_congr rfl (by rw [hg])
    have hdie : u.pageDie p = s.pageDie p := State.pageDie_congr rfl (by rw [hg])
    rw [hin, hdie] at hmove
    exact ⟨_, execFetchHbm_due (State.entryDue_some h), hst, by rw [hprot, hg], hmove, hsame, hcores⟩
  · let p := sePage e
    let u := (s.setEntry ctx n .begun).keepPage p
    obtain ⟨hst, hsame, hcores⟩ := setEntry_frame ((OnlyPages.keepPage (s.setEntry ctx n .begun) p).trans (.migrateIn u p 8))
    exact ⟨_, execFetchStore_due (State.entryDue_some h), hst,
      fun hout => State.migrateIn_moving ((State.keepPage_pageInHbm (s.setEntry ctx n .begun) p).trans hout) 8, hsame, hcores⟩
  · let p := sePage e
    obtain ⟨hst, hsame, hcores⟩ := setEntry_frame (.setPage (s.setEntry ctx n .done) p { s.getPage p with prot := false })
    exact ⟨_, execEvict_due (State.entryDue_some h), hst, State.getPage_setPage_same _ _ _, hsame, hcores⟩
  · exact execScheduleEntryComplete_hbm he hst hin hl hk hd hm
  · refine ⟨_, execScheduleEntryComplete_store he hst hin hl hk, State.entryState_setEntry _ _ _ _, ?_⟩
    obtain ⟨hs, hi, hlr, hsd⟩ := (CoreStep.ctrDone (seCore e) ((s.touch false (sePage e)).wrLocal (seCore e) (seLocal e)
      (s.fetchBytes (sePage e) (seTiled e))) (seCtr e)).memories
    obtain ⟨ts, ti, tlr, tsd⟩ := State.touch_inHbm hin false
    exact stores_written (hs.trans (congrArg (wrBytes · _ _) ts)) (hi.trans ti) (hlr.trans tlr) (hsd.trans tsd)
  · show execScheduleEntryLate ctx n s = _
    unfold execScheduleEntryLate
    dsimp only
    rw [he]
    exact if_pos ⟨hst, hr⟩

end Sys2Proof.Machine
end

section
/-!
PROOFS. Migrations and held flash writes (10 R223, R233, R234), recovery ladders (R243 to R246) and channel switches (R217).
-/

namespace Sys2Proof.Machine

/-! ## Reports -/

/-- `t` differs from `s` only in what reports write: trace buffers and the SYNC records due, the dictionary, waiting vectors and
alerts. -/
structure Reported (s t : State) : Prop where
  fields : ∃ cl di ho po ti, t = { s with clusters := cl, dict := di, host := ho, power := po, time := ti }

namespace Reported
variable {s t u : State}

theorem undisturbed (h : Reported s t) : Undisturbed s t := by
  obtain ⟨_, _, _, _, _, rfl⟩ := h.fields
  exact .of_fields

theorem refl (s : State) : Reported s s := ⟨_, _, _, _, _, rfl⟩

theorem trans (h : Reported s t) (k : Reported t u) : Reported s u := by
  obtain ⟨_, _, _, _, _, rfl⟩ := h.fields
  obtain ⟨_, _, _, _, _, rfl⟩ := k.fields
  exact ⟨_, _, _, _, _, rfl⟩

/-- The last of two steps first: its form gives the state between them. -/
theorem after (k : Reported t u) (h : Reported s t) : Reported s u := h.trans k

theorem ite {p : Prop} [Decidable p] (ht : Reported s t) (hu : Reported s u) : Reported s (if p then t else u) := by
  split <;> assumption

theorem foldl {α : Type} {f : State → α → State} (hf : ∀ s a, Reported s (f s a)) (l : List α) (s : State) :
    Reported s (l.foldl f s) := by
  induction l generalizing s with
  | nil => exact .refl s
  | cons a r ih => exact (hf s a).trans (ih (f s a))

variable (s)

theorem setOd (i k v : Nat) : Reported s (s.setOd i k v) := ⟨_, _, _, _, _, rfl⟩

theorem addOd (i k n : Nat) : Reported s (s.addOd i k n) := by
  obtain ⟨d, e⟩ := s.addOd_only i k n
  rw [e]; exact ⟨_, _, _, _, _, rfl⟩

theorem errOn (b : Nat) : Reported s (s.errOn b) := ⟨_, _, _, _, _, rfl⟩

theorem emcy (code detail : Nat) : Reported s (s.emcy code detail) := by
  obtain ⟨d, h, e⟩ := s.emcy_only code detail
  rw [e]; exact ⟨_, _, _, _, _, rfl⟩

theorem alertOn (c : Nat) : Reported s (s.alertOn c) := by
  obtain ⟨p, e⟩ := s.alertOn_only c
  rw [e]; exact ⟨_, _, _, _, _, rfl⟩

theorem tracePush (n : Nat) (r : W128) : Reported s (s.tracePush n r) := by
  obtain ⟨c, d, e⟩ := s.tracePush_only n r
  rw [e]; exact ⟨_, _, _, _, _, rfl⟩

theorem repairRecord (c k l u : Nat) : Reported s (s.repairRecord c k l u) := by
  obtain ⟨x, d, h, e⟩ := s.repairRecord_only c k l u
  rw [e]; exact ⟨_, _, _, _, _, rfl⟩

theorem breakEvent (kind : Nat) (ctxs : List Nat) : Reported s (s.breakEvent kind ctxs) :=
  .after (.setOd _ _ _ _) (.foldl (fun s n => .tracePush s n _) _ s)

theorem maintenance (p : Nat) : Reported s (s.maintenance p) :=
  .ite (.after (.alertOn _ _) (.after (.emcy _ _ _) (.after (.errOn _ _) (.setOd _ _ _ _)))) (.refl s)

theorem memRepaired (pool sub kind unit : Nat) : Reported s (s.memRepaired pool sub kind unit) :=
  .after (.maintenance _ _) (.after (.setOd _ _ _ _) (.setOd s _ _ _))

theorem syncStep : Reported s s.syncStep := by
  unfold State.syncStep
  refine .ite (.after (.foldl (fun s c => .ite (.tracePush s _ _) (.refl s)) _ _) ?_) (.refl s)
  exact ⟨_, _, _, _, _, rfl⟩

end Reported

/-! ## Migrations and held flash writes -/

/-- A flash write that the governor covers takes its bytes, and the page that it evicts, if any, leaves HBM clean (10 R223, R234). -/
theorem State.flashWrite_covered {s : State} {n : Nat} (h : 4096 * n ≤ s.long.governor) (p : Option Nat) :
    ∃ d g, s.flashWrite n p = { s with dict := d, long := { s.long with governor := s.long.governor - 4096 * n, page := g } }
      ∧ ∀ k, p = some k → tblGet pageD g k = { s.getPage k with inHbm := false, dirty := false, moving := none } := by
  unfold State.flashWrite
  dsimp only
  rw [if_pos h]
  obtain ⟨d, e⟩ := State.addOd_only { s with long := { s.long with governor := s.long.governor - 4096 * n } } 0x2400 6 (4096 * n)
  rw [e]
  cases p with
  | none => exact ⟨d, _, rfl, fun _ hk => nomatch hk⟩
  | some k =>
    refine ⟨d, _, rfl, fun j hj => ?_⟩
    obtain rfl := Option.some.inj hj
    exact tblGet_set_same pageD _ _ _

section
variable {page : BitVec 28} {s : State} {q : Nat} {r : BitVec 256} (hr : s.regionOf page.toNat = some (q, r))
  (hl : s.ladderOf page.toNat = none)
include hr hl

/-- A migration into HBM ends where the budget of its context has a frame (10 R233). -/
theorem execMigrationComplete_in (hm : (s.getPage page.toNat).moving = some true) (hout : s.pageInHbm page.toNat = false)
    (hf : s.framesUsed (rgCtx r) < s.frameBudget (rgCtx r)) :
    exec (.migrationComplete ⟨page, .ok⟩) s
      = .next (s.setPage page.toNat { s.getPage page.toNat with moving := none, inHbm := true }) := by
  have hx : exec (.migrationComplete ⟨page, .ok⟩) s = execMigrationComplete ⟨page, .ok⟩ s := rfl
  have hok : s.hbmEvent .ok = s := rfl
  rw [hx]
  unfold execMigrationComplete
  simp only [State.ladderFull, hok, hm, hr, hl, hout, hf, Option.isSome_none, Bool.false_eq_true, or_self, if_true, if_false]

/-- An eviction that no held write delays ends: a page written in HBM writes its sectors, another leaves at once (10 R233, R234). -/
theorem execMigrationComplete_out (hm : (s.getPage page.toNat).moving = some false)
    (hh : ∀ h ∈ s.long.heldWrites, h.2 ≠ some page.toNat) :
    exec (.migrationComplete ⟨page, .ok⟩) s = .next
      (if (s.getPage page.toNat).dirty then s.flashWrite (s.pageSectors page.toNat) (some page.toNat)
       else s.setPage page.toNat { s.getPage page.toNat with inHbm := false, moving := none }) := by
  have hx : exec (.migrationComplete ⟨page, .ok⟩) s = execMigrationComplete ⟨page, .ok⟩ s := rfl
  have hok : s.hbmEvent .ok = s := rfl
  have hheld : (s.long.heldWrites.any fun h => h.2 == some page.toNat) = false := by
    rw [List.any_eq_false]
    exact fun h hmem => by simpa using hh h hmem
  rw [hx]
  unfold execMigrationComplete
  simp only [State.ladderFull, hok, hm, hr, hl, hheld, Option.isSome_none, Bool.false_eq_true, or_self, if_false]
  split <;> rfl

end

/-- The oldest held write proceeds once the governor covers it (10 R223). -/
theorem execHeldWriteRelease_write {s : State} {n : Nat} {q : Option Nat} {r : List (Nat × Option Nat)}
    (hw : s.long.heldWrites = (n, q) :: r) (hg : 4096 * n ≤ s.long.governor) :
    exec .heldWriteRelease s = .next (({ s with long := { s.long with heldWrites := r } } : State).flashWrite n q) := by
  show execHeldWriteRelease s = _
  unfold execHeldWriteRelease
  rw [hw]
  exact if_pos hg

/-- With no held write, the oldest staged record leaves the staging (17 R396). -/
theorem execHeldWriteRelease_record {s : State} {w : BitVec 2048} {r : List (BitVec 2048)} (hw : s.long.heldWrites = [])
    (hs : s.obs.staging = w :: r) (hg : 256 ≤ s.long.governor) :
    let s1 := ({ s with obs := { s.obs with staging := [] } } : State).spectrumPut w
    exec .heldWriteRelease s = .next { s1 with obs := { s1.obs with staging := r } } := by
  show execHeldWriteRelease s = _
  unfold execHeldWriteRelease
  rw [hw, hs]
  exact if_pos hg

/-- A record of the Spectrum recorder reaches the partition, the staging or the counts alone (17 R396, R397). -/
theorem Undisturbed.spectrumPut (s : State) (w : BitVec 2048) : Undisturbed s (s.spectrumPut w) := by
  have full (t : State) : Undisturbed t (if t.od 0x2800 2 ≥ spectrumFull then t.setOd 0x2800 1 1 else t) := .ite .of_fields (.refl t)
  unfold State.spectrumPut
  refine .ite (.after .of_fields (.addOd s _ _ _)) (.ite ?_ (.ite (.after (.addOd _ _ _ _) .of_fields) (.addOd s _ _ _)))
  exact .after (full _) (.after (.addOd _ _ _ _) (.after (.addOd _ _ _ _) .of_fields))

/-! ## Ladders -/

theorem State.ladderOf_page {s : State} {p : Nat} {l : Ladder} (h : s.ladderOf p = some l) : l.page = p := by
  simpa using List.find?_some h

/-- A ladder that fails at a rung stands at rung `n`. -/
def State.climb (s : State) (p n : Nat) : State :=
  { s with long := { s.long with ladders := s.long.ladders.map fun x => if x.page = p then { x with rung := n } else x } }

/-- A ladder without its page's entry. -/
def State.dropLadder (s : State) (p : Nat) : State :=
  { s with long := { s.long with ladders := s.long.ladders.filter fun x => x.page != p } }

theorem State.ladderOf_dropLadder (s : State) (p : Nat) : (s.dropLadder p).ladderOf p = none := by
  unfold State.ladderOf
  rw [List.find?_eq_none]
  intro x hx
  simpa using (List.mem_filter.1 hx).2

/-- A ladder that ends leaves the list of ladders; the rest of its end is reports (10 R246). -/
theorem State.ladderEnd_reported (s : State) (l : Ladder) (rung sub : Nat) : Reported (s.dropLadder l.page) (s.ladderEnd l rung sub) :=
  .after (.emcy _ _ _) (.after (.setOd _ _ _ _) (.addOd _ _ _ _))

theorem State.ladderOf_ladderEnd (s : State) (l : Ladder) (rung sub : Nat) : (s.ladderEnd l rung sub).ladderOf l.page = none := by
  obtain ⟨_, _, _, _, _, h⟩ := (s.ladderEnd_reported l rung sub).fields
  rw [h]
  exact s.ladderOf_dropLadder l.page

theorem Undisturbed.ladderEnd (s : State) (l : Ladder) (rung sub : Nat) : Undisturbed s (s.ladderEnd l rung sub) :=
  .after (s.ladderEnd_reported l rung sub).undisturbed .of_fields

/-- Rung 4 takes the ladder away and marks its page before the held requests complete with POISON (10 R243, R245). -/
theorem State.ladderPoison_eq (s : State) (l : Ladder) :
    ∃ u, s.ladderPoison l = (l.held.foldl State.poisonHeld u).status stUncorrectable ∧ u.ladderOf l.page = none
      ∧ (u.getPage l.page).poison = true ∧ Undisturbed s u := by
  refine ⟨_, rfl, s.ladderOf_ladderEnd l 4 0xD, ?_, .after .of_fields (.ladderEnd s l 4 0xD)⟩
  rw [State.getPage_setPage_same]

/-- Rung 2 sends one request to the replica, from the page's home die (10 R243). -/
theorem State.askReplica_only (s : State) (p : Nat) :
    ∃ x, s.askReplica p = { s with txq := x } ∧ ∀ q r, s.regionOf p = some (q, r) → ∃ e msg, x = s.txq ++ [e]
      ∧ e.die = some (s.homeDie p)
      ∧ e.frame = s.mkFrame (rgReplica r) 1 2 { msg := msg, addr := p * 65536, total := 69632, sidecar := true } [] := by
  unfold State.askReplica
  split
  · rename_i q r hr
    refine ⟨_, rfl, fun q' r' h => ?_⟩
    obtain ⟨-, rfl⟩ := Prod.mk.inj (Option.some.inj (hr.symm.trans h))
    exact ⟨_, _, rfl, rfl, rfl⟩
  · rename_i hr
    exact ⟨_, rfl, fun q r h => nomatch hr.symm.trans h⟩

/-- The page's bytes that a rung gives reach the long range and the sidecars alone. -/
theorem State.rungBytes_only (s : State) (p rung : Nat) (data : List Byte) (shards : List ShardMap) :
    ∃ r d, s.rungBytes p rung data shards = { s with lr := r, side := d } := by
  unfold State.rungBytes
  split
  · exact ⟨_, _, rfl⟩
  split
  · split
    · exact ⟨_, _, rfl⟩
    · exact ⟨_, _, rfl⟩
  · exact ⟨_, _, rfl⟩

/-- Rungs 0 and 1 find the page's bytes as they are (10 R243). -/
theorem State.rungBytes_decoded (s : State) (p : Nat) {rung : Nat} (h : rung ≤ 1) (data : List Byte) (shards : List ShardMap) :
    s.rungBytes p rung data shards = s := by
  unfold State.rungBytes
  rw [if_neg (by omega), if_neg (by omega)]

theorem Undisturbed.rowRepair (s : State) (stack : Nat) : Undisturbed s (s.rowRepair stack) :=
  .after (Reported.memRepaired _ _ _ _ _).undisturbed .of_fields

theorem Undisturbed.flashWrite (s : State) (n : Nat) (p : Option Nat) : Undisturbed s (s.flashWrite n p) := by
  obtain ⟨l, d, e⟩ := s.flashWrite_only n p
  rw [e]; exact .of_fields

/-- A rung that succeeds gives the page its bytes and takes the ladder away before the held requests are served (10 R244). -/
theorem State.ladderServe_eq (s : State) (l : Ladder) (data : List Byte) (shards : List ShardMap) :
    ∃ u, s.ladderServe l data shards = l.held.foldl (fun s h => s.serveHeld l.page h) u ∧ u.ladderOf l.page = none
      ∧ Undisturbed (s.rungBytes l.page l.rung data shards) u :=
  ⟨_, rfl, State.ladderOf_ladderEnd _ l _ _, .after (.ladderEnd _ l _ _) (.ite (.rowRepair _ _) (.flashWrite _ _ _))⟩

section
variable {page : BitVec 28} {s : State} {l : Ladder} (hl : s.ladderOf page.toNat = some l)
include hl

theorem execLadderRungEnd_served {step : W64} {data : List Byte} {shards : List ShardMap} (h : s.rungHolds l step shards = true) :
    exec (.ladderRungEnd page ⟨true, step⟩ data shards) s = .next (s.ladderServe l data shards) := by
  show execLadderRungEnd page ⟨true, step⟩ data shards s = _
  unfold execLadderRungEnd
  dsimp only
  rw [hl]
  exact if_pos ⟨rfl, h⟩

/-- A rung that fails passes to the next, or after the last one the page is poisoned (10 R243). -/
theorem execLadderRungEnd_failed {ok : Bool} {step : W64} {data : List Byte} {shards : List ShardMap}
    (h : ok = true → s.rungHolds l step shards = false) :
    exec (.ladderRungEnd page ⟨ok, step⟩ data shards) s = .next
      (if s.nextRung page.toNat l.rung = 4 then s.ladderPoison l
       else if s.nextRung page.toNat l.rung = 2 then (s.climb page.toNat (s.nextRung page.toNat l.rung)).askReplica page.toNat
       else s.climb page.toNat (s.nextRung page.toNat l.rung)) := by
  show execLadderRungEnd page ⟨ok, step⟩ data shards s = _
  unfold execLadderRungEnd
  dsimp only
  rw [hl]
  dsimp only
  rw [if_neg fun hb => Bool.false_ne_true ((h hb.1).symm.trans hb.2), State.ladderOf_page hl]
  split <;> rfl

theorem execLadderLimit_reached (h : l.began + s.od 0x2400 0xF ≤ s.time.boundaries) :
    exec (.ladderLimit page) s = .next (s.ladderPoison l) := by
  show execLadderLimit page s = _
  unfold execLadderLimit
  rw [hl]
  exact if_pos h

end

/-! ## Channel switches -/

/-- A switch whose boundary has come drops the copy and starts the channel's error count anew; the rest of it is reports (10 R217,
16 Table 16-5). -/
theorem execChannelSwitch_due {stack : Fin 16} {channel : Fin 32} {s : State} {q : Nat}
    (hf : s.repair.copies.find? (fun c => c.1 == stack.val && c.2.1 == channel.val) = some (stack.val, channel.val, some q))
    (hq : q ≤ s.time.boundaries) (hc : dueCuts s.time.boundaries s.cuts = []) :
    ∃ t, exec (.channelSwitch stack channel) s = .next t ∧ Reported { s with repair := { s.repair with
      copies := s.repair.copies.filter fun c => !(c.1 == stack.val && c.2.1 == channel.val)
      chErrors := tblSet nat0 s.repair.chErrors (stack.val * 32 + channel.val) 0 } } t := by
  have hx : exec (.channelSwitch stack channel) s = execChannelSwitch stack channel s := rfl
  rw [hx]
  unfold execChannelSwitch
  rw [hf]
  dsimp only
  rw [if_pos ⟨hq, hc⟩]
  refine ⟨_, rfl, .after (.syncStep _) (.after (.breakEvent _ _ _) (.after (.foldl (fun s k => .repairRecord s _ _ _ _) _ _) ?_))⟩
  exact .after (.emcy _ _ _) (.memRepaired _ _ _ _ _)

/-- Settles O36: each end of a migration, a rung or a copy is its equation, and what follows it writes reports, locations and the queue of
frames (`Reported`, `Undisturbed`). -/
theorem laddersAndMigrations : Obligations.LaddersAndMigrations := by
  unfold Obligations.LaddersAndMigrations
  intro page step data shards stack channel s
  dsimp only
  refine ⟨fun q r hr hl => ⟨fun hm hout hf => ?_, fun hm hh hd => ?_, fun hm hh hd hg => ?_⟩, fun n q r hw hg => ?_,
    fun w r hw hs hg => ?_, fun l hl => ⟨fun ok hfail hn => ?_, fun c hc => ?_, fun hh => ?_⟩, rfl, fun q hf hq hc => ?_⟩
  · exact execMigrationComplete_in hr hl hm hout hf
  · rw [execMigrationComplete_out hr hl hm hh, if_neg (by simp [hd])]
  · rw [execMigrationComplete_out hr hl hm hh, if_pos hd]
    obtain ⟨d, g, e, hpage⟩ := State.flashWrite_covered hg (some page.toNat)
    exact ⟨_, rfl, by rw [e]; exact hpage _ rfl, by rw [e], (Undisturbed.flashWrite s _ _).bytes⟩
  · rw [execHeldWriteRelease_write hw hg]
    let u : State := { s with long := { s.long with heldWrites := r } }
    obtain ⟨d, g, e, hpage⟩ := State.flashWrite_covered (s := u) hg q
    refine ⟨_, rfl, by rw [e], by rw [e], fun k hk => ?_, (Undisturbed.after (.flashWrite u n q) .of_fields).bytes⟩
    have hg : (u.flashWrite n q).getPage k = { u.getPage k with inHbm := false, dirty := false, moving := none } := by
      rw [e]; exact hpage k hk
    rw [hg]; exact ⟨rfl, rfl⟩
  · exact ⟨_, execHeldWriteRelease_record hw hs hg, rfl, (Undisturbed.after .of_fields (.after (.spectrumPut _ w) .of_fields)).bytes⟩
  · rw [execLadderRungEnd_failed hl hfail, if_neg hn]
    by_cases h2 : s.nextRung page.toNat l.rung = 2
    · rw [if_pos h2]
      obtain ⟨x, e, hsent⟩ := (s.climb page.toNat (s.nextRung page.toNat l.rung)).askReplica_only page.toNat
      rw [e]
      exact ⟨_, rfl, rfl, fun h => absurd h2 h, fun q r _ hr => hsent q r hr, (Undisturbed.of_fields).bytes, rfl, rfl⟩
    · rw [if_neg h2]
      exact ⟨_, rfl, rfl, fun _ => rfl, fun _ _ h => absurd h h2, (Undisturbed.of_fields).bytes, rfl, rfl⟩
  · have hx : exec c s = .next (s.ladderPoison l) := by
      obtain ⟨⟨ok, rfl, hfail⟩, h4⟩ | ⟨rfl, hlim⟩ := hc
      · rw [execLadderRungEnd_failed hl hfail, if_pos h4]
      · exact execLadderLimit_reached hl hlim
    obtain ⟨u, hu, hnone, hpoison, hk⟩ := s.ladderPoison_eq l
    rw [State.ladderOf_page hl] at hnone hpoison
    exact ⟨u, hx.trans (congrArg _ hu), hnone, hpoison, hk.bytes, hk.cores, hk.ctxs⟩
  · obtain ⟨u, hu, hnone, hk⟩ := s.ladderServe_eq l data shards
    rw [State.ladderOf_page hl] at hu hnone
    have hearly : l.rung ≤ 1 → SameBytes s u := fun h => by
      rw [s.rungBytes_decoded l.page h] at hk
      exact hk.bytes
    obtain ⟨x, y, e⟩ := s.rungBytes_only l.page l.rung data shards
    rw [e] at hk
    exact ⟨u, (execLadderRungEnd_served hl hh).trans (congrArg _ hu), hnone, hearly, hk.stores, hk.imem, hk.cores, hk.ctxs⟩
  · obtain ⟨t, hx, hr⟩ := execChannelSwitch_due hf hq hc
    obtain ⟨_, _, _, _, _, rfl⟩ := hr.fields
    exact ⟨_, hx, rfl, tblGet_set_same nat0 _ _ _, (Undisturbed.of_fields).bytes, rfl, rfl⟩

end Sys2Proof.Machine
end

section
/-!
PROOFS. Stage descriptors, step starts and the start of cores (13 R299 to R301, 15 R347, 03 R61, R81): what a step start writes in the
cores, the digest table, the schedule and the watches, each said once.
-/

namespace Sys2Proof.Machine

/-! ## Checks -/

/-- A point at least two ticks ahead, in a tick that exists, may be named (02 R48). -/
theorem State.pointStatus_ok {s : State} {p : Nat × Nat} (hh : s.time.held = true) (ht : p.2 ≤ 1249)
    (hl : lin s.now + 2 ≤ lin p) : s.pointStatus p = stOk := by
  unfold State.pointStatus
  rw [hh, decide_eq_false (Nat.not_lt.2 ht), if_neg (by decide), if_neg (Nat.not_lt.2 hl)]

theorem State.stageCheck_ok {s : State} {ctx : Nat} {w : BitVec 1024} (hr : (s.getCtx ctx).stepRun = false) (h1 : fld w 948 944 = 0)
    (h2 : fld w 776 0 = 0) (hv : stageValues w = true) (hp : flag w 777 = true → s.pointStatus (stPoint w) = stOk) :
    s.stageCheck ctx w = stOk := by
  unfold State.stageCheck
  rw [if_neg]
  · split
    · exact hp ‹_›
    · rfl
  · rintro (h | h | h | h)
    · exact Bool.false_ne_true (hr.symm.trans h)
    · exact h h1
    · exact h h2
    · exact h hv

theorem State.startStatus_ok {s : State} {n : Nat} {w : W64} (h1 : fld w 63 28 = 0) (h2 : fld w 15 1 = 0) (hf : flag w 0 = true)
    (ha : (s.getCore n).run ≠ .armed) (hr : (s.getCore n).run ≠ .running)
    (hp : s.pointStatus ((s.getCore n).startSweep.toNat, (s.getCore n).startTick.toNat) = stOk) : s.startStatus n w = stOk := by
  unfold State.startStatus
  rw [if_neg (not_or.2 ⟨fun h => h h1, fun h => h h2⟩), if_neg (fun h => h hf), if_neg (not_or.2 ⟨ha, hr⟩)]
  exact hp

/-! ## Stage descriptors -/

/-- A stage descriptor is stored with ARM clear; ARM sets the point of the step (13 R299, R300). -/
theorem State.stageWrite_stored (s : State) (ctx : Nat) (w : BitVec 1024) :
    let t := (s.stageWrite ctx w).status stOk
    (t.getCtx ctx).stage = setFld w 777 777 0
      ∧ (t.getCtx ctx).startAt = (if flag w 777 then some (stPoint w) else (s.getCtx ctx).startAt) ∧ OnlyCtx s t ctx := by
  intro t
  have hg : t.getCtx ctx = _ := State.getCtx_setCtx_same s ctx _
  rw [hg]
  exact ⟨rfl, rfl, ⟨_, rfl⟩, fun n hn => State.getCtx_setCtx_other s _ hn⟩

/-! ## What is due -/

theorem State.stepDue_some {s : State} {ctx : Nat} {p : Nat × Nat} (hp : (s.getCtx ctx).startAt = some p) (hr : s.reached p = true)
    (ha : (s.getCtx ctx).active = true) (hs : (s.getCtx ctx).stepRun = false) (hc : s.cutCovers ctx p = false) :
    s.stepDue ctx = some p := by
  unfold State.stepDue
  dsimp only
  rw [hp]
  exact if_pos ⟨hr, ha, by rw [hs]; exact Bool.false_ne_true, by rw [hc]; exact Bool.false_ne_true⟩

theorem State.coreDue_some {s : State} {core : Nat} {p : Nat × Nat} (hp : (s.getCore core).armedAt = some p)
    (ha : (s.getCore core).run = .armed) (hr : s.reached p = true) (hc : s.coreCut core p = false) : s.coreDue core = some p := by
  unfold State.coreDue
  dsimp only
  rw [hp]
  exact if_pos ⟨ha, hr, by rw [hc]; exact Bool.false_ne_true⟩

/-! ## The cores of a context -/

theorem State.modCores_only (l : List Nat) (f : Core → Core) (s : State) :
    ∃ co, l.foldl (fun s n => s.modCore n f) s = { s with cores := co } :=
  List.foldlRecOn (motive := fun t => ∃ co, t = { s with cores := co }) l _ ⟨_, rfl⟩
    fun _ ⟨_, e⟩ _ _ => ⟨_, by rw [e]; rfl⟩

/-- A change that is the same done twice reaches each core of a list once. -/
theorem State.getCore_modCores {f : Core → Core} (hf : ∀ c, f (f c) = f c) (l : List Nat) (s : State) (n : Nat) :
    (l.foldl (fun s n => s.modCore n f) s).getCore n = if n ∈ l then f (s.getCore n) else s.getCore n := by
  induction l generalizing s with
  | nil => rfl
  | cons m r ih =>
    have hm : (s.modCore m f).getCore n = if n = m then f (s.getCore m) else s.getCore n := s.getCore_setCore m n _
    rw [List.foldl_cons, ih, hm]
    by_cases h : n = m
    · subst h; simp [hf]
    · simp [h]

/-- What a step start makes of a core of its context (13 R301). -/
def Core.armedFor (p : Nat × Nat) (c : Core) : Core := if c.run = .armed ∨ c.run = .running then c else c.armed c.entry p

/-- A core that has been armed is not armed again. -/
theorem Core.armedFor_twice (p : Nat × Nat) (c : Core) : (c.armedFor p).armedFor p = c.armedFor p := by
  by_cases h : c.run = .armed ∨ c.run = .running
  · have e : c.armedFor p = c := if_pos h
    rw [e, e]
  · have e : c.armedFor p = c.armed c.entry p := if_neg h
    rw [e]
    exact if_pos (.inl rfl)

theorem State.armCores_only (s : State) (ctx : Nat) (p : Nat × Nat) : ∃ co, s.armCores ctx p = { s with cores := co } :=
  State.modCores_only (s.coresOf ctx) (Core.armedFor p) s

/-- The cores of the context that are neither ARMED nor RUNNING are armed at their ENTRY (13 R301). -/
theorem State.getCore_armCores (s : State) (ctx : Nat) (p : Nat × Nat) (n : Nat) :
    (s.armCores ctx p).getCore n = if n ∈ s.coresOf ctx ∧ (s.getCore n).run ≠ .armed ∧ (s.getCore n).run ≠ .running
      then (s.getCore n).armed (s.getCore n).entry p else s.getCore n := by
  refine (State.getCore_modCores (Core.armedFor_twice p) (s.coresOf ctx) s n).trans ?_
  by_cases hn : n ∈ s.coresOf ctx
  · rw [if_pos hn, Core.armedFor]
    by_cases h : (s.getCore n).run = .armed ∨ (s.getCore n).run = .running
    · rw [if_pos h, if_neg fun ⟨_, ha, hr⟩ => h.elim ha hr]
    · rw [if_neg h, if_pos ⟨hn, not_or.1 h⟩]
  · rw [if_neg hn, if_neg fun ⟨h, _⟩ => hn h]

/-- The cores of a context follow from its descriptor. -/
theorem State.coresOf_of_desc {s t : State} {ctx : Nat} (h : (t.getCtx ctx).desc = (s.getCtx ctx).desc) :
    t.coresOf ctx = s.coresOf ctx := by
  unfold State.coresOf State.clustersOf Ctx.state Ctx.clusters
  rw [h]

/-! ## The digest table (15 R347) -/

theorem rdBytes_congr {m m' : Tbl Byte} {a n : Nat} (h : ∀ i, i < n → rdByte m (a + i) = rdByte m' (a + i)) :
    rdBytes m a n = rdBytes m' a n :=
  List.ext_getElem (by simp) fun i hi _ => by
    rw [rdBytes_get, rdBytes_get]
    exact h i (by simpa using hi)

/-- A read apart from the bytes of a write. -/
theorem rdBytes_wrBytes_apart (m : Tbl Byte) {a b n : Nat} (d : List Byte) (h : b + n ≤ a ∨ a + d.length ≤ b) :
    rdBytes (wrBytes m a d) b n = rdBytes m b n :=
  rdBytes_congr fun i hi => rdByte_wrBytes_outside m a d (by omega)

/-- A slot record at address `a` at a step start: zero OUT and MASTER, and the step's number. -/
def slotStart (a step : Nat) (m : Tbl Byte) : Tbl Byte :=
  wrBytes (wrBytes (wrBytes m a (leBytes 8 0)) (a + 8) (leBytes 8 0)) (a + 24) (leBytes 8 step)

theorem rdByte_slotStart_outside {a b : Nat} (step : Nat) (m : Tbl Byte) (h : b < a ∨ a + 32 ≤ b) :
    rdByte (slotStart a step m) b = rdByte m b := by
  unfold slotStart
  rw [rdByte_wrBytes_outside _ _ _ (by rw [leBytes_length]; omega), rdByte_wrBytes_outside _ _ _ (by rw [leBytes_length]; omega),
    rdByte_wrBytes_outside _ _ _ (by rw [leBytes_length]; omega)]

/-- The slot record at `a` has zero OUT and MASTER, and `step` as the step's number. -/
structure SlotStarted (m : Tbl Byte) (a step : Nat) : Prop where
  out : rdBytes m a 8 = leBytes 8 0
  master : rdBytes m (a + 8) 8 = leBytes 8 0
  step : rdBytes m (a + 24) 8 = leBytes 8 step

theorem rdBytes_wrBytes_le8 (m : Tbl Byte) (a v : Nat) : rdBytes (wrBytes m a (leBytes 8 v)) a 8 = leBytes 8 v := by
  simpa only [leBytes_length] using rdBytes_wrBytes_same m a (leBytes 8 v)

theorem slotStart_started (a step : Nat) (m : Tbl Byte) : SlotStarted (slotStart a step m) a step where
  out := by
    rw [slotStart, rdBytes_wrBytes_apart _ _ (.inl (by omega)), rdBytes_wrBytes_apart _ _ (.inl (by omega)), rdBytes_wrBytes_le8]
  master := by rw [slotStart, rdBytes_wrBytes_apart _ _ (.inl (by omega)), rdBytes_wrBytes_le8]
  step := by rw [slotStart, rdBytes_wrBytes_le8]

/-- The start of another record leaves a slot record as it was. -/
theorem SlotStarted.slotStart {m : Tbl Byte} {a b step : Nat} (h : SlotStarted m a step) (hab : a + 32 ≤ b) (k : Nat) :
    SlotStarted (slotStart b k m) a step := by
  have keep : ∀ c, a ≤ c → c + 8 ≤ a + 32 → rdBytes (Machine.slotStart b k m) c 8 = rdBytes m c 8 := fun c hc hc' =>
    rdBytes_congr fun i hi => rdByte_slotStart_outside k m (.inl (by omega))
  exact ⟨(keep a (by omega) (by omega)).trans h.out, (keep (a + 8) (by omega) (by omega)).trans h.master,
    (keep (a + 24) (by omega) (by omega)).trans h.step⟩

/-- The first `n` slot records of a table at a step start. -/
def slotsStart (table step n : Nat) (m : Tbl Byte) : Tbl Byte :=
  (List.range n).foldl (fun m k => slotStart (table + k * 32) step m) m

theorem slotsStart_succ (table step n : Nat) (m : Tbl Byte) :
    slotsStart table step (n + 1) m = slotStart (table + n * 32) step (slotsStart table step n m) := by
  unfold slotsStart
  rw [List.range_succ, List.foldl_append, List.foldl_cons, List.foldl_nil]

theorem rdByte_slotsStart_outside (table step n : Nat) (m : Tbl Byte) {b : Nat} (h : b < table ∨ table + n * 32 ≤ b) :
    rdByte (slotsStart table step n m) b = rdByte m b := by
  induction n with
  | zero => rfl
  | succ n ih => rw [slotsStart_succ, rdByte_slotStart_outside _ _ (by omega), ih (by omega)]

theorem slotsStart_started (table step n : Nat) (m : Tbl Byte) {k : Nat} (hk : k < n) :
    SlotStarted (slotsStart table step n m) (table + k * 32) step := by
  induction n with
  | zero => omega
  | succ n ih =>
    rw [slotsStart_succ]
    by_cases h : k = n
    · subst h; exact slotStart_started _ _ _
    · exact (ih (by omega)).slotStart (by omega) step

theorem State.setDigest_slot (s : State) (ctx k step : Nat) :
    ((s.setDigest ctx k 0 0).setDigest ctx k 1 0).setDigest ctx k 3 step
      = { s with lr := slotStart ((s.getCtx ctx).dTable + k * 32) step s.lr } := by
  simp only [State.setDigest, State.wrLong, State.getCtx, slotStart, Nat.zero_mul, Nat.add_zero, Nat.reduceMul]

theorem State.digestsStart_eq (s : State) (ctx : Nat) : s.digestsStart ctx
    = { s with lr := slotsStart (s.getCtx ctx).dTable (s.getCtx ctx).stepNo.toNat (s.getCtx ctx).dSlots s.lr } := by
  have fold : ∀ (l : List Nat) (m : Tbl Byte), l.foldl (fun t k =>
      ((State.setDigest t ctx k 0 0).setDigest ctx k 1 0).setDigest ctx k 3 (s.getCtx ctx).stepNo.toNat) { s with lr := m }
      = { s with lr := l.foldl (fun m k => slotStart ((s.getCtx ctx).dTable + k * 32) (s.getCtx ctx).stepNo.toNat m) m } := by
    intro l
    induction l with
    | nil => intro m; rfl
    | cons k r ih =>
      intro m
      rw [List.foldl_cons, List.foldl_cons, State.setDigest_slot]
      exact ih _
  exact fold _ s.lr

/-! ## The schedule and the watches -/

/-- Every entry of a schedule of `n` waits. -/
def allWaiting (n : Nat) : Tbl EntryState := (List.range n).foldl (fun t k => tblSet sched0 t k .waiting) []

theorem tblGet_allWaiting {n k : Nat} (hk : k < n) : tblGet sched0 (allWaiting n) k = .waiting := by
  induction n with
  | zero => omega
  | succ n ih =>
    have e : allWaiting (n + 1) = tblSet sched0 (allWaiting n) n .waiting := by
      unfold allWaiting
      rw [List.range_succ, List.foldl_append]
      rfl
    rw [e, tblGet_set]
    split
    · rfl
    · exact ih (by omega)

/-- The schedule begins with a change of the context; after it, only what is known of pages changes. -/
theorem State.scheduleStart_pages (s : State) (ctx : Nat) :
    OnlyPages (s.modCtx ctx fun x => { x with schedState := allWaiting x.sched.length }) (s.scheduleStart ctx) := by
  unfold State.scheduleStart
  refine List.foldlRecOn (motive := OnlyPages _) _ _ (.refl _) fun t ht e _ => ?_
  split
  · exact ht.trans (.setPage t _ _)
  · exact ht

theorem State.watchesStart_only (s : State) (ctx : Nat) : ∃ o, s.watchesStart ctx = { s with obs := o } := by
  unfold State.watchesStart
  refine List.foldlRecOn (motive := fun t => ∃ o, t = { s with obs := o }) _ _ ⟨s.obs, rfl⟩ ?_
  rintro _ ⟨o, rfl⟩ e _
  split <;> exact ⟨_, rfl⟩

/-! ## The start of a step -/

/-- A context whose step starts at a sweep. -/
def Ctx.stepBegun (sweep : Nat) (x : Ctx) : Ctx :=
  { x with startAt := none, stepRun := true, stepStartSweep := sweep, voted := false, rederived := false
           schedState := allWaiting x.sched.length }

/-- What a step start writes: the cores, the contexts, the digest slots, what is known of pages, and the watches. -/
theorem State.beginStep_eq (s : State) (ctx : Nat) (p : Nat × Nat) : ∃ co cx g h o,
    let x := s.getCtx ctx
    let t : State := { s with
      cores := co, ctxs := cx, long := { s.long with page := g, heldWrites := h }, obs := o
      lr := slotsStart x.dTable x.stepNo.toNat x.dSlots s.lr }
    s.beginStep ctx p = t ∧ t.getCtx ctx = x.stepBegun p.1
      ∧ ∀ n, t.getCore n = if n ∈ s.coresOf ctx ∧ (s.getCore n).run ≠ .armed ∧ (s.getCore n).run ≠ .running
          then (s.getCore n).armed (s.getCore n).entry p else s.getCore n := by
  let s1 := s.modCtx ctx fun x =>
    { x with startAt := none, stepRun := true, stepStartSweep := p.1, voted := false, rederived := false }
  have hx : s1.getCtx ctx = { s.getCtx ctx with
      startAt := none, stepRun := true, stepStartSweep := p.1, voted := false, rederived := false } := State.getCtx_setCtx_same s ctx _
  obtain ⟨co, hco⟩ := s1.armCores_only ctx p
  have harm := s1.getCore_armCores ctx p
  have hdesc : (s1.getCtx ctx).desc = (s.getCtx ctx).desc := by rw [hx]
  rw [hco, State.coresOf_of_desc hdesc] at harm
  let s3 : State := { s1 with
    cores := co
    lr := slotsStart (s.getCtx ctx).dTable (s.getCtx ctx).stepNo.toNat (s.getCtx ctx).dSlots s.lr }
  have hx' : State.getCtx { s1 with cores := co } ctx = _ := hx
  have hdig : (s1.armCores ctx p).digestsStart ctx = s3 := by
    rw [hco, State.digestsStart_eq, hx']
    rfl
  obtain ⟨g, h, hsch⟩ := (s3.scheduleStart_pages ctx).fields
  obtain ⟨o, hwat⟩ := (s3.scheduleStart ctx).watchesStart_only ctx
  have e : s.beginStep ctx p = (s3.scheduleStart ctx).watchesStart ctx :=
    congrArg (fun t => (State.scheduleStart t ctx).watchesStart ctx) hdig
  rw [hwat, hsch] at e
  refine ⟨co, (s3.modCtx ctx fun x => { x with schedState := allWaiting x.sched.length }).ctxs, g, h, o, e, ?_, harm⟩
  have hy : s3.getCtx ctx = _ := hx
  exact (State.getCtx_setCtx_same s3 ctx _).trans (by rw [hy]; rfl)

/-! ## The obligation -/

/-- Settles O24: a stage descriptor and START pass their checks and are one change of a context and of a core; a step start is its
equation (`beginStep_eq`), and what its digest slots hold is 15 R347. -/
theorem stagesAndStarts : Obligations.StagesAndStarts := by
  unfold Obligations.StagesAndStarts
  intro o ctx core s ho
  refine ⟨fun w hrun h1 h2 hv hp => ?_, fun p hat hr ha hrun hc hf => ?_, fun w h1 h2 hw hna hnr hh ht hl => ?_,
    fun p hat ha hr hc hf => ?_⟩
  · have hchk : s.stageCheck ctx w = stOk := State.stageCheck_ok hrun h1 h2 hv fun hw =>
      have ⟨hh, ht, hl⟩ := hp hw
      State.pointStatus_ok hh ht hl
    have hx : exec (.stageDescriptor o ctx w) s = _ := congrArg Host.Outcome.next (s.structWrite_ok (fun s => s.stageWrite ctx w) ho hchk)
    exact ⟨⟨_, hx, rfl, s.stageWrite_stored ctx w⟩, ⟨_, hx, rfl, s.stageWrite_stored ctx w⟩⟩
  · have hx : exec (.stepStart ctx) s = .next (s.beginStep ctx p) := by
      show execStepStart ctx s = _
      unfold execStepStart
      rw [State.stepDue_some hat hr ha hrun hc]
      exact if_pos hf
    obtain ⟨_, _, _, _, _, e, hctx, hcore⟩ := s.beginStep_eq ctx p
    rw [e] at hx
    refine ⟨_, hx, congrArg Ctx.stepRun hctx, congrArg Ctx.startAt hctx, congrArg Ctx.stepStartSweep hctx, fun k hk => ?_, hcore, fun k hk => ?_,
      fun _ ha => rdByte_slotsStart_outside _ _ _ _ ha, rfl, rfl, rfl, rfl, rfl⟩
    · rw [hctx]; exact tblGet_allWaiting hk
    · have hslot := slotsStart_started (s.getCtx ctx).dTable (s.getCtx ctx).stepNo.toNat (s.getCtx ctx).dSlots s.lr hk
      exact ⟨(congrArg leNat hslot.out).trans (leNat_leBytes 8 0), (congrArg leNat hslot.master).trans (leNat_leBytes 8 0),
        (congrArg leNat hslot.step).trans ((leNat_leBytes 8 _).trans (Nat.mod_eq_of_lt (s.getCtx ctx).stepNo.isLt))⟩
  · have hchk : s.startStatus core w = stOk := State.startStatus_ok h1 h2 hw hna hnr (State.pointStatus_ok hh ht hl)
    have hx : exec (.start o core w) s = _ := congrArg Host.Outcome.next (s.structWrite_ok (fun s => s.writeCoreCtl core w) ho hchk)
    let c := (s.getCore core).armed (fld w 27 16) ((s.getCore core).startSweep.toNat, (s.getCore core).startTick.toNat)
    have hs : s.writeCoreCtl core w = s.setCore core c := if_pos hw
    rw [hs] at hx
    have hg : ((s.setCore core c).status stOk).getCore core = c := State.getCore_setCore_same s core c
    refine ⟨_, hx, rfl, fun r => ?_, ?_, ?_, ?_, ?_, ?_, ⟨_, rfl⟩, fun n hn => State.getCore_setCore_other s c hn⟩
    · unfold State.sReg State.aReg State.tReg
      rw [hg]
      exact ⟨rfl, rfl, rfl⟩
    all_goals rw [hg]; rfl
  · show execCoreStart core s = _
    unfold execCoreStart
    dsimp only
    rw [State.coreDue_some hat ha hr hc]
    exact if_pos hf

end Sys2Proof.Machine
end
